-- ==== Sys2Proof/Word.lean ====
section
/-!
DEFINITION. The words of the machine: bytes, the 64-bit data view, a tagged 128-bit value (R18, R19), a 64-byte record of
four tagged granules (R282), and sparse maps with one home per key.
-/
namespace Sys2Proof

abbrev Byte := BitVec 8
abbrev Word := BitVec 64

/-- A 128-bit value with its tag: a register, a queue entry, a granule (R18, R29). -/
structure Cap where
  val : BitVec 128
  tag : Bool
deriving DecidableEq, Repr

/-- The untagged zero: what g0 reads as (R20). -/
def Cap.zero : Cap := ⟨0, false⟩

/-- The data view of a register, bits [63:0] (R19). -/
def Cap.dv (c : Cap) : Word := c.val.setWidth 64

/-- The value an integer or scalar-FP result leaves in a register: upper bits and tag cleared (R19). -/
def Cap.ofWord (w : Word) : Cap := ⟨w.setWidth 128, false⟩

/-- A 64-byte record of four 16-byte granules with their tags (R282). -/
structure Record where
  g0 : Cap
  g1 : Cap
  g2 : Cap
  g3 : Cap
deriving DecidableEq, Repr

def Record.zero : Record := ⟨.zero, .zero, .zero, .zero⟩

/-- A sparse map: pairs of key and value, keys strictly rising. -/
abbrev SMap (α : Type) := List (Nat × α)

end Sys2Proof
end

