-- ==== Sys2Proof/Config.lean ====
section
/-!
DEFINITION. What the spec leaves open, as constants without a body (free values: nothing can be proved of their values),
and the sizes the spec fixes for the package (R9, R16).
-/
namespace Sys2Proof.Config

/-- The flat numbers of R9 and R11. -/
def dies : Nat := 8
def clustersPerDie : Nat := 48
def clusters : Nat := 384
def coresPerCluster : Nat := 48
def cores : Nat := 18432
def slotsPerCore : Nat := 4

/-- A free value of 64 bits, one for each count of State.free (log 4). -/
opaque freeWord : Nat → BitVec 64
/-- A free 128-bit value (log 4). -/
opaque freeWide : Nat → BitVec 128
/-- The bytes of a line read under another key than it was written with, by line, old draw and new draw (R221, log 5). -/
opaque garbled : Nat → Nat → Nat → BitVec 512
/-- The digest of the public key and the minimum SVN in the fuses of a die (R484, log 6). -/
opaque fuseKey : Nat → BitVec 256
opaque fuseSvn : Nat → Nat
/-- The RSASSA-PSS signature check over the public modulus, the signature and the signed digest (R484, log 6). -/
opaque signatureOk : List Byte → List Byte → BitVec 256 → Bool
/-- SHA-256 as the boot and the measurement registers use it (R484, R485, log 6). -/
opaque sha256 : List Byte → BitVec 256
/-- The signature of an attestation report by the identity key of die 0 (R486, log 6). -/
opaque sign : List Byte → BitVec 3072
/-- The device serial number (R486). -/
opaque serialNumber : BitVec 64
/-- The routing of a message the fabric delivers is the integrator's; which port leads to a device (log 7). -/
opaque portOf : Nat → Nat

end Sys2Proof.Config
end

