-- ==== Sys2Proof/Machine/Gen.lean ====
section
/-!
DEFINITION. The stochastic-rounding generator (R115, R117) and the bit helpers that the state's reset values need.
-/
namespace Sys2Proof.Machine

/-- One step of a generator (R115). -/
def genStep (st : BitVec 32) : BitVec 32 :=
  if st.getLsbD 0 then (st >>> 1) ^^^ 0x80200003 else st >>> 1

/-- The first state of generator `i` derived from a base, before its eight steps (R117); a generator never holds 0. -/
def genSeed (base : BitVec 32) (i : Nat) : BitVec 32 :=
  let st := base ^^^ BitVec.ofNat 32 (0x9E3779B9 * (i + 1))
  if st = 0 then 1 else st

/-- Generator `i` of the set derived from `base` (R117). -/
def genOf (base : BitVec 32) (i : Nat) : BitVec 32 :=
  genStep (genStep (genStep (genStep (genStep (genStep (genStep (genStep (genSeed base i))))))))

/-- seed_derive of R117: the 64 generators of a set. -/
def seedDerive (base : BitVec 32) : Vector (BitVec 32) 64 := Vector.ofFn fun i => genOf base i.val

end Sys2Proof.Machine
end

