-- ==== Sys2Proof/Syntax.lean ====
section
/-!
DEFINITION. The instruction set as data: one constructor of `Instr` for each row of the opcode table. Strand instructions carry
the fields of their form (R44, R47, R48, R50), engine commands carry their record (R282), events have no fields of their own: the
units and the data they name stand in `State.arg`. Units are flat numbers: slot = 4 x core + slot (R423), core, quad and
cluster (R11), bank 0 or 1 (R401). Rows without fields come last.
-/
namespace Sys2Proof

/-- The fields of an M or L form (R47, R48, R50). `lit` is the literal of an L form. -/
structure MForm where
  ext : BitVec 5
  b : BitVec 5
  a : BitVec 5
  d : BitVec 5
  typ : BitVec 8
  imm : BitVec 16
  cold : Bool
  yield : Bool
  neg : Bool
  pred : BitVec 3
  lit : Option (BitVec 32)
deriving DecidableEq, Repr

/-- Why a word sequence is no instruction (R53, R54), in the order in which decoding checks. -/
inductive Reject
  /-- length code 0b11 -/
  | lengthCode
  /-- S-opcode 0x15 to 0x7F -/
  | sOpcode
  /-- a field that R45 marks unused is not zero -/
  | sField
  /-- class 0xF or an operation number without a cell in R51 -/
  | opcode
  /-- word 1 bits [7:6], a must-be-zero field, or a reserved ext, sub-operation, imm16 or rounding code -/
  | field
  /-- the type field holds a type code that the entry does not accept: ILLEGAL_TYPE; the opcode and the fields are kept, because
  the checks of R42 item 2 that read the strand's state come first -/
  | typeCode (op : Nat) (f : MForm)
deriving DecidableEq, Repr

/-- The stamp of a request (R424), without the requester ID, which names the sender. -/
structure Stamp where
  serial : BitVec 32
  incar : BitVec 16
  ackmark : BitVec 32
deriving DecidableEq, Repr

/-- A collective message of one participant (R457): its rank, what R458 compares, its contribution and its traffic class (R453, R456); or the
confirmation that the receiver of a shard sends to rank `rank`'s engine (R461). -/
structure CollMsg where
  hash : BitVec 64
  timeline : Nat
  nth : Nat
  rank : Nat
  kind : Nat
  stype : Nat
  dtype : Nat
  op : Nat
  count : Nat
  root : Nat
  data : List Byte
  cls : Nat := 1
  confirms : Bool := false
deriving DecidableEq, Repr

/-- An operation that a peer device addresses to the HBM of this device (R421): a physical address, and the scope of a release or acquire. -/
inductive PeerOp
  | read (pa n : Nat) (acq : Option Nat)
  | write (pa : Nat) (data : List Byte) (rel : Option Nat)
  | amo (pa size op : Nat) (value : BitVec 64) (ord scope : Nat)
  | cas (pa size : Nat) (expect value : BitVec 64) (ord scope : Nat)
  | famo (pa op : Nat) (value : BitVec 64) (ord scope : Nat)
  /-- an acknowledgement message (R427) -/
  | ack
deriving DecidableEq, Repr

/-- A message of a peer device: its fabric device number, the requester ID and the stamp of its request, its traffic class, the operation. -/
structure PeerMsg where
  device : Nat
  req : Nat
  stamp : Stamp
  cls : Nat
  op : PeerOp
deriving DecidableEq, Repr

/-- A link beyond one die: a UCIe module, a fabric port, or the link between two neighbour dies (R444, R447, R9, R10). -/
inductive Link
  | module (n : Nat)
  | port (n : Nat)
  | die (a b : Nat)
deriving DecidableEq, Repr

/-- Where a storage error is found (R216, R431, R411). -/
inductive Place
  | cleanL1 (core line : Nat)
  | dirtyL1 (core line : Nat)
  | l2 (line : Nat)
  | hbm (line : Nat)
  | scratch (core word : Nat)
  | tile (core tile : Nat)
  | acc (core acc : Nat)
  | weights (quad : Nat)
  | queue (core queue : Nat)
  | skid (core : Nat)
  | ownerCache (owner : Nat)
deriving DecidableEq, Repr

/-- The data an event brings with it. -/
inductive Payload
  | none
  /-- a value written to a control register -/
  | word (v : Word)
  /-- a launch packet with the stamp of its transmission (R160, R424) -/
  | packet (stamp : Stamp) (r : Record)
  /-- a line written, or none for a read (R446, R206) -/
  | line (w : Option (BitVec 512))
  /-- a flit of 256 bytes (R447) -/
  | flit (f : BitVec 2048)
  /-- a flit, with the operation of a peer that its message asks for (R421) -/
  | peer (f : BitVec 2048) (m : PeerMsg)
  | coll (m : CollMsg)
  | nonce (n : BitVec 256)
  /-- the firmware image in the boot window (R485) -/
  | image (bytes : List Byte)
  | link (l : Link) (lanes : Nat)
  | place (p : Place) (corrected : Bool)
  /-- the partition that is to own a cluster, or none -/
  | owner (part : Option Nat)
deriving DecidableEq, Repr

/-- What an event names: up to three unit numbers and its data. -/
structure Arg where
  a : Nat := 0
  b : Nat := 0
  c : Nat := 0
  pay : Payload := .none
deriving DecidableEq, Repr

/-- The instructions, engine commands and machine events of the opcode table. -/
inductive Instr
  /-- ADD_S (R45): S-form register ADD: d := a + b on the full 64-bit data view. -/
  | addS (d a b : BitVec 5)
  /-- SUB_S (R45): S-form SUB: d := a - b. -/
  | subS (d a b : BitVec 5)
  /-- AND_S (R45): S-form AND: d := a and b. -/
  | andS (d a b : BitVec 5)
  /-- OR_S (R45): S-form OR: d := a or b. -/
  | orS (d a b : BitVec 5)
  /-- XOR_S (R45): S-form XOR: d := a xor b. -/
  | xorS (d a b : BitVec 5)
  /-- SHL_S (R45): S-form SHL: d := a shifted left by b. -/
  | shlS (d a b : BitVec 5)
  /-- SHR_S (R45): S-form SHR: d := a shifted right logically by b. -/
  | shrS (d a b : BitVec 5)
  /-- SAR_S (R45): S-form SAR: d := a shifted right arithmetically by b. -/
  | sarS (d a b : BitVec 5)
  /-- MOV_S (R45): S-form MOV: d := a. -/
  | movS (d a : BitVec 5)
  /-- ADDI_S (R45): S-form ADD immediate: d := a + sign_extend(imm8). -/
  | addiS (d a : BitVec 5) (imm : BitVec 8)
  /-- CMP_S (R45): S-form CMP: predicate p(d[2:0]) := condition imm8[4:0] on a and b. -/
  | cmpS (d : BitVec 3) (a b : BitVec 5) (cond : BitVec 5)
  /-- CINC_S (R45): S-form CINC: d := capability a with its cursor moved by sign_extend(imm8) bytes. -/
  | cincS (d a : BitVec 5) (imm : BitVec 8)
  /-- LD_DWORD_S (R45): S-form dword load from [a + imm8 x 8]. -/
  | ldDwordS (d a : BitVec 5) (imm : BitVec 8)
  /-- ST_DWORD_S (R45): S-form dword store of b to [a + imm8 x 8]. -/
  | stDwordS (a b : BitVec 5) (imm : BitVec 8)
  /-- LD_WORD_S (R45): S-form zero-extended word load from [a + imm8 x 4]. -/
  | ldWordS (d a : BitVec 5) (imm : BitVec 8)
  /-- ST_WORD_S (R45): S-form word store of b[31:0] to [a + imm8 x 4]. -/
  | stWordS (a b : BitVec 5) (imm : BitVec 8)
  /-- BRA_S (R46): S-form unconditional branch by a 22-bit signed word offset. -/
  | braS (off : BitVec 22)
  /-- ILLEGAL_ENCODING (R53): An encoding that is not an instruction raises ILLEGAL_INSTRUCTION or ILLEGAL_TYPE and has no other effect. -/
  | illegalEncoding (why : Reject)
  /-- ADD (R69): Integer add with the width and signedness chosen by ext. -/
  | add (f : MForm)
  /-- SUB (R69): Integer subtract. -/
  | sub (f : MForm)
  /-- AND (R69): Bitwise and. -/
  | and (f : MForm)
  /-- OR (R69): Bitwise or. -/
  | or (f : MForm)
  /-- XOR (R69): Bitwise exclusive or. -/
  | xor (f : MForm)
  /-- ANDN (R69): A and not B. -/
  | andn (f : MForm)
  /-- SHL (R69): Shift left by B mod w. -/
  | shl (f : MForm)
  /-- SHR (R69): Logical shift right by B mod w. -/
  | shr (f : MForm)
  /-- SAR (R69): Arithmetic shift right by B mod w. -/
  | sar (f : MForm)
  /-- ROT (R69): Rotate left by B mod w. -/
  | rot (f : MForm)
  /-- MIN (R69): Smaller of A and B with the ext signedness. -/
  | min (f : MForm)
  /-- MAX (R69): Larger of A and B with the ext signedness. -/
  | max (f : MForm)
  /-- ABS (R69): Absolute value of A. -/
  | abs (f : MForm)
  /-- NEG (R69): 0 - A. -/
  | neg (f : MForm)
  /-- SEL (R69): Selects A when predicate pk is true and B otherwise. -/
  | sel (f : MForm)
  /-- MOV (R69): Copies the data view of A to d. -/
  | mov (f : MForm)
  /-- LDI (R70): Loads a sign-extended constant into d. -/
  | ldi (f : MForm)
  /-- LDHI (R70): Places a 32-bit constant above the low 32 bits of a. -/
  | ldhi (f : MForm)
  /-- MUL (R71): Low w bits of A x B. -/
  | mul (f : MForm)
  /-- MULH (R71): High w bits of the exact product A x B. -/
  | mulh (f : MForm)
  /-- DIV (R72): Integer division, defined for every operand pair, with DZ set on division by zero. -/
  | div (f : MForm)
  /-- REM (R72): Integer remainder, defined for every operand pair. -/
  | rem (f : MForm)
  /-- MADD (R71): Low w bits of A x B + D, where D is the old value of d. -/
  | madd (f : MForm)
  /-- CLZ (R71): Counts the leading zero bits of A. -/
  | clz (f : MForm)
  /-- CTZ (R71): Counts the trailing zero bits of A. -/
  | ctz (f : MForm)
  /-- POPC (R71): Counts the one bits of A. -/
  | popc (f : MForm)
  /-- BREV (R71): Reverses the bits of A. -/
  | brev (f : MForm)
  /-- BSWAP (R71): Reverses the bytes of A. -/
  | bswap (f : MForm)
  /-- BFX (R73): Extracts a bit field of A, sign- or zero-extended. -/
  | bfx (f : MForm)
  /-- BFI (R73): Inserts the low bits of A into a bit field of d. -/
  | bfi (f : MForm)
  /-- CBASE (R76): Writes the base of capability a. -/
  | cbase (f : MForm)
  /-- CLEN (R76): Writes the length of capability a. -/
  | clen (f : MForm)
  /-- CPERM (R76): Writes the permission bits of capability a. -/
  | cperm (f : MForm)
  /-- CTAG (R76): Writes the tag of a. -/
  | ctag (f : MForm)
  /-- CBND (R77): Sets the bounds from the cursor, rounding the length up, under the monotonicity check. -/
  | cbnd (f : MForm)
  /-- CBNDX (R77): Sets exact bounds from the cursor and refuses an unrepresentable length. -/
  | cbndx (f : MForm)
  /-- CINC (R76): Moves the cursor of a capability by bsrc and keeps its tag. -/
  | cinc (f : MForm)
  /-- CSET (R76): Sets the cursor of a capability to bsrc and keeps its tag. -/
  | cset (f : MForm)
  /-- CAND (R76): Ands the permissions of a capability with bsrc[6:0]. -/
  | cand (f : MForm)
  /-- CCLR (R76): Copies a with its tag cleared. -/
  | cclr (f : MForm)
  /-- CSUB (R76): Writes the signed difference of two cursors. -/
  | csub (f : MForm)
  /-- CMOV (R76): Copies all 128 bits and the tag of a. -/
  | cmov (f : MForm)
  /-- CMP (R78): Integer compare that writes a predicate. -/
  | cmp (f : MForm)
  /-- FCMP (R79): FP32 compare that writes a predicate, with quiet or signalling NaN rules. -/
  | fcmp (f : MForm)
  /-- PAND (R80): Predicate and, with optional negation of either source. -/
  | pand (f : MForm)
  /-- POR (R80): Predicate or. -/
  | por (f : MForm)
  /-- PXOR (R80): Predicate exclusive or. -/
  | pxor (f : MForm)
  /-- PNOT (R80): Predicate not. -/
  | pnot (f : MForm)
  /-- PGET (R80): Writes p0 to p7 as an integer mask. -/
  | pget (f : MForm)
  /-- PFROM (R80): Sets the predicates selected by a mask from the bits of a register. -/
  | pfrom (f : MForm)
  /-- BRA (R81): Branch by a word offset. -/
  | bra (f : MForm)
  /-- JMP (R81): Jump to a register value plus an offset within PCC. -/
  | jmp (f : MForm)
  /-- CALL (R81): Writes the link into g1 and branches by a word offset. -/
  | call (f : MForm)
  /-- CALLR (R81): Writes the link into g1 and transfers to capability a. -/
  | callr (f : MForm)
  /-- RET (R81): Transfers to the capability in g1. -/
  | ret (f : MForm)
  /-- LOOP (R81): Decrements d and branches while the result is non-zero. -/
  | loop (f : MForm)
  /-- NOP (R81): M-form no operation. -/
  | nop (f : MForm)
  /-- FADD (R86): FP32 add, rounded once. -/
  | fadd (f : MForm)
  /-- FSUB (R86): FP32 subtract. -/
  | fsub (f : MForm)
  /-- FMUL (R86): FP32 multiply. -/
  | fmul (f : MForm)
  /-- FFMA (R86): FP32 fused multiply-add with the old d as addend. -/
  | ffma (f : MForm)
  /-- FDIV (R86): FP32 divide, correctly rounded. -/
  | fdiv (f : MForm)
  /-- FSQRT (R86): FP32 square root, correctly rounded. -/
  | fsqrt (f : MForm)
  /-- FMIN (R87): IEEE minimum. -/
  | fmin (f : MForm)
  /-- FMAX (R87): IEEE maximum. -/
  | fmax (f : MForm)
  /-- FMINN (R87): minimumNumber. -/
  | fminn (f : MForm)
  /-- FMAXN (R87): maximumNumber. -/
  | fmaxn (f : MForm)
  /-- FABS (R86): Clears the sign bit. -/
  | fabs (f : MForm)
  /-- FNEG (R86): Inverts the sign bit. -/
  | fneg (f : MForm)
  /-- FCVT (R88): Converts between FP32 and a narrower floating type in either direction. -/
  | fcvt (f : MForm)
  /-- FCVTI (R89): Converts FP32 to an integer type. -/
  | fcvti (f : MForm)
  /-- ICVTF (R89): Converts an integer type to FP32. -/
  | icvtf (f : MForm)
  /-- FCLASS (R90): Writes a one-hot class mask of an FP32 value. -/
  | fclass (f : MForm)
  /-- LD (R256): Loads 1 to 16 bytes, optionally as an acquire. -/
  | ld (f : MForm)
  /-- ST (R257): Posts a store of 1 to 16 bytes, optionally as a release. -/
  | st (f : MForm)
  /-- LDC (R258): Loads 16 bytes and their memory tag as a capability. -/
  | ldc (f : MForm)
  /-- STC (R258): Stores 16 bytes and sets or clears the granule's tag. -/
  | stc (f : MForm)
  /-- LDLU (R260): Loads and then writes back and invalidates the line in L1. -/
  | ldlu (f : MForm)
  /-- LD64 (R259): Loads 64 bytes into a register group with tags cleared. -/
  | ld64 (f : MForm)
  /-- ST64 (R259): Stores a register group as 64 bytes, or enters a command record into the matrix queue. -/
  | st64 (f : MForm)
  /-- LDFE (R261): Waits for full, reads the word and sets it empty. -/
  | ldfe (f : MForm)
  /-- LDFF (R261): Waits for full and reads the word. -/
  | ldff (f : MForm)
  /-- STFE (R261): Waits for empty, writes the word and sets it full. -/
  | stfe (f : MForm)
  /-- STFF (R261): Waits for full and overwrites the word. -/
  | stff (f : MForm)
  /-- FESET (R261): Sets a word's full/empty bit. -/
  | feset (f : MForm)
  /-- FEGET (R261): Reads a word's full/empty bit. -/
  | feget (f : MForm)
  /-- PREF (R263): Prefetch hint with no architectural effect. -/
  | pref (f : MForm)
  /-- WBL (R263): Writes a line's dirty bytes and U partial home. -/
  | wbl (f : MForm)
  /-- INVL (R263): Writes a line home and then invalidates it. -/
  | invl (f : MForm)
  /-- AMO (R265): Indivisible read-modify-write with an integer operation. -/
  | amo (f : MForm)
  /-- CAS (R266): Compare and swap, with the outcome in a predicate. -/
  | cas (f : MForm)
  /-- FAMO (R267): Indivisible FP32 read-modify-write. -/
  | famo (f : MForm)
  /-- RED (R268): Posted reduction that returns nothing and builds update-only partials. -/
  | red (f : MForm)
  /-- FENCE (R270): Orders accesses and performs the cache actions of its kind and scope. -/
  | fence (f : MForm)
  /-- DRAINST (R271): Waits until every earlier store of the slot has passed translation. -/
  | drainst (f : MForm)
  /-- WAITA (R272): Arms a monitor and waits for a write to a line whose word still holds the expected value. -/
  | waita (f : MForm)
  /-- VADD (R137): Element-wise add of streams. -/
  | vadd (f : MForm)
  /-- VSUB (R137): Element-wise subtract. -/
  | vsub (f : MForm)
  /-- VMUL (R137): Element-wise multiply. -/
  | vmul (f : MForm)
  /-- VFMA (R137): Element-wise fused multiply-add into d. -/
  | vfma (f : MForm)
  /-- VDIV (R137): Element-wise divide. -/
  | vdiv (f : MForm)
  /-- VMIN (R137): Element-wise minimum. -/
  | vmin (f : MForm)
  /-- VMAX (R137): Element-wise maximum. -/
  | vmax (f : MForm)
  /-- VMINN (R137): Element-wise minimumNumber. -/
  | vminn (f : MForm)
  /-- VMAXN (R137): Element-wise maximumNumber. -/
  | vmaxn (f : MForm)
  /-- VABS (R138): Element-wise absolute value. -/
  | vabs (f : MForm)
  /-- VNEG (R138): Element-wise negation. -/
  | vneg (f : MForm)
  /-- VCLAMP (R139): Clamps each element between two register bounds. -/
  | vclamp (f : MForm)
  /-- VSEL (R140): Selects each element from a or b by a byte mask. -/
  | vsel (f : MForm)
  /-- VCMP (R141): Compares elements and writes a UINT8 mask stream. -/
  | vcmp (f : MForm)
  /-- VAND (R137): Element-wise integer and. -/
  | vand (f : MForm)
  /-- VOR (R137): Element-wise integer or. -/
  | vor (f : MForm)
  /-- VXOR (R137): Element-wise integer exclusive or. -/
  | vxor (f : MForm)
  /-- VSHL (R137): Element-wise shift left. -/
  | vshl (f : MForm)
  /-- VSHR (R137): Element-wise shift right. -/
  | vshr (f : MForm)
  /-- VEXP2 (R142): Element-wise 2^x into FP32. -/
  | vexp2 (f : MForm)
  /-- VEXP (R142): Element-wise e^x. -/
  | vexp (f : MForm)
  /-- VLOG2 (R142): Element-wise log2 x. -/
  | vlog2 (f : MForm)
  /-- VLOG (R142): Element-wise ln x. -/
  | vlog (f : MForm)
  /-- VRCP (R142): Element-wise reciprocal. -/
  | vrcp (f : MForm)
  /-- VRSQRT (R142): Element-wise reciprocal square root. -/
  | vrsqrt (f : MForm)
  /-- VSQRT (R142): Element-wise square root. -/
  | vsqrt (f : MForm)
  /-- VTANH (R142): Element-wise tanh. -/
  | vtanh (f : MForm)
  /-- VSIGM (R142): Element-wise logistic sigmoid. -/
  | vsigm (f : MForm)
  /-- VCVT (R143): Converts a stream between types. -/
  | vcvt (f : MForm)
  /-- VQUANT (R144): Quantises a stream into an MX or BL6 type, optionally with residuals. -/
  | vquant (f : MForm)
  /-- VREDUCE (R145): Reduces each row of a stream along dimension 0. -/
  | vreduce (f : MForm)
  /-- VSCAN (R146): Writes the running reduction of each row. -/
  | vscan (f : MForm)
  /-- VGATHER (R147): Copies indexed rows of a table into a stream. -/
  | vgather (f : MForm)
  /-- VSCATTER (R148): Writes rows of a stream to indexed rows of a table. -/
  | vscatter (f : MForm)
  /-- VCOPY (R149): Copies a stream exactly. -/
  | vcopy (f : MForm)
  /-- VFILL (R149): Fills a stream with one converted value. -/
  | vfill (f : MForm)
  /-- VRAND (R149): Fills a stream from the slot's generators. -/
  | vrand (f : MForm)
  /-- SHLD (R150): Loads a 32-byte shape record into a shape register. -/
  | shld (f : MForm)
  /-- SHST (R150): Posts a store of a shape register as 32 bytes. -/
  | shst (f : MForm)
  /-- SHSET (R150): Sets one field of a shape register, or zeroes it. -/
  | shset (f : MForm)
  /-- SPAWN (R188): Writes a fresh continuation record into a stage queue. -/
  | spawn (f : MForm)
  /-- END (R185): Ends the strand, or closes a save routine and forms its continuation record. -/
  | endStrand (f : MForm)
  /-- YIELD (R186): Makes the slot pass over its next turn. -/
  | yield (f : MForm)
  /-- SUSPEND (R187): Sets the stage and suspends the strand at a safe point. -/
  | suspend (f : MForm)
  /-- RFORK (R189): Suspends the forker and divides an index range among recruited cores. -/
  | rfork (f : MForm)
  /-- JOIN (R191): Releases and decrements a join cell; the last finisher resumes the forker. -/
  | join (f : MForm)
  /-- ARRIVE (R193): Releases, counts an arrival in a domain phase and returns the phase. -/
  | arrive (f : MForm)
  /-- WAITB (R193): Waits until a domain's phase has passed a given phase, then acquires. -/
  | waitb (f : MForm)
  /-- DOMSET_NEW (R192): Allocates a domain cell and writes its handle. -/
  | domsetNew (f : MForm)
  /-- DOMSET_ENTER (R192): Enters a domain into DOMAINk after its checks. -/
  | domsetEnter (f : MForm)
  /-- DOMSET_LEAVE (R192): Leaves DOMAINk, decrementing the member count and possibly completing the phase. -/
  | domsetLeave (f : MForm)
  /-- TICKET (R197): Takes the next ticket of a ticket pair. -/
  | ticket (f : MForm)
  /-- WAITTK (R197): Waits until SERVING reaches a ticket, then acquires. -/
  | waittk (f : MForm)
  /-- SERVE (R197): Releases and increments SERVING. -/
  | serve (f : MForm)
  /-- QMAP (R198): Writes the strand's QMAP and returns the old value. -/
  | qmap (f : MForm)
  /-- SENDCMD (R286): Sends a register group as a command record and writes the acceptance word. -/
  | sendcmd (f : MForm)
  /-- TLWAIT (R303): Waits until a timeline count reaches n, then acquires. -/
  | tlwait (f : MForm)
  /-- TLREAD (R304): Reads a timeline counter or ISSUED. -/
  | tlread (f : MForm)
  /-- TLSIG (R305): Takes a timeline position whose later advance releases the strand's accesses. -/
  | tlsig (f : MForm)
  /-- TLCLR (R306): Waits for all positions to advance, then resets a timeline and sets its scope and owner. -/
  | tlclr (f : MForm)
  /-- MTCW (R307): Enters a tile-control write into the matrix command queue. -/
  | mtcw (f : MForm)
  /-- MTCR (R307): Reads the last tile control given to a tile. -/
  | mtcr (f : MForm)
  /-- CPY (R297): Copy command: copies LEN bytes. -/
  | cpy (r : Record)
  /-- CPYX (R298): Copy command driven by a multi-dimensional descriptor. -/
  | cpyx (r : Record)
  /-- GATH (R297): Copy command that gathers indexed table rows. -/
  | gath (r : Record)
  /-- SCAT (R297): Copy command that scatters rows to indexed table rows. -/
  | scat (r : Record)
  /-- DISPATCH (R300): Moves token rows to assigned experts or to the park buffer. -/
  | dispatch (r : Record)
  /-- MZERO (R318): Matrix command: zeroes selected accumulators. -/
  | mzero (r : Record)
  /-- MWLOAD (R319): Matrix command: loads a weight tile into the quad's weight block. -/
  | mwload (r : Record)
  /-- MMA (R320): Matrix command: product of activations with the resident weights into an accumulator. -/
  | mma (r : Record)
  /-- MMAT (R320): Matrix command: transposed product reducing over n. -/
  | mmat (r : Record)
  /-- MLDT (R321): Matrix command: loads a tile from memory. -/
  | mldt (r : Record)
  /-- MSTT (R321): Matrix command: stores a tile to memory. -/
  | mstt (r : Record)
  /-- MLDA (R322): Matrix command: loads FP32 patterns into an accumulator. -/
  | mlda (r : Record)
  /-- MDRAIN (R324): Matrix command: converts accumulator rows and writes them to memory or a tile, optionally projected. -/
  | mdrain (r : Record)
  /-- MDRAIN_EVAL (R342): MDRAIN in EVAL mode: writes per-row count, sum and maximum above a threshold. -/
  | mdrainEval (r : Record)
  /-- MDRAIN_APPLY (R343): MDRAIN in APPLY mode: thresholds rows by a given tau. -/
  | mdrainApply (r : Record)
  /-- MADJ (R346): Matrix command: replaces an upstream gradient with the projector's vector-Jacobian product. -/
  | madj (r : Record)
  /-- MSIG (R325): Matrix command that finishes at the head and signals after every earlier entry. -/
  | msig (r : Record)
  /-- MKTCFG_SETUP (R353): Takes or reconfigures a lot's size, copies, surplus, round limit and epsilon. -/
  | mktcfgSetup (r : Record)
  /-- MKTCFG_CAPS (R353): Sets every expert capacity of a lot at once. -/
  | mktcfgCaps (r : Record)
  /-- MKTCFG_BUFFERS (R353): Sets a lot's assignment, park and residence buffers. -/
  | mktcfgBuffers (r : Record)
  /-- MKTCFG_RELEASE (R353): Frees and resets a lot. -/
  | mktcfgRelease (r : Record)
  /-- MKTSUB (R355): Submits tokens to a lot's pending or late list and writes a receipt. -/
  | mktsub (r : Record)
  /-- AUCT (R356): Runs one auction on each named lot. -/
  | auct (r : Record)
  /-- MKTNORM (R364): Rebases a lot's prices so the least is 0. -/
  | mktnorm (r : Record)
  /-- MKTWRP (R364): Writes every price of a lot at once. -/
  | mktwrp (r : Record)
  /-- MKTRDP (R364): Writes a lot's prices to memory. -/
  | mktrdp (r : Record)
  /-- MKTSTAT (R365): Writes a lot's status record. -/
  | mktstat (r : Record)
  /-- ALLRED (R459): Collective all-reduce by the fixed tree. -/
  | allred (r : Record)
  /-- REDSCAT (R459): Collective reduce-scatter. -/
  | redscat (r : Record)
  /-- ALLGATH (R460): Collective all-gather with optional conversion. -/
  | allgath (r : Record)
  /-- RESHARD (R461): Collective in-place exchange of shards by a permutation. -/
  | reshard (r : Record)
  /-- BCAST (R459): Collective broadcast of the root's source. -/
  | bcast (r : Record)
  /-- RSRED (R462): Collective combine of (m, s, v) triples by rescaling. -/
  | rsred (r : Record)
  /-- RLD (R437): Remote load, optionally acquire, with optional status predicate. -/
  | rld (f : MForm)
  /-- RST (R438): Posted remote store, or remote full/empty step. -/
  | rst (f : MForm)
  /-- RAMO (R439): Remote atomic executed exactly once at its owner. -/
  | ramo (f : MForm)
  /-- RCAS (R439): Remote compare and swap. -/
  | rcas (f : MForm)
  /-- RACK (R440): Waits for final replies and sends acknowledgements to every owner. -/
  | rack (f : MForm)
  /-- RSTAT (R440): Waits for final replies, writes RSTS and clears its sticky bits. -/
  | rstat (f : MForm)
  /-- COLL (R463): Sends a collective record to the die's collective engine. -/
  | coll (f : MForm)
  /-- LAUNCH (R451): Sends a launch packet to a local or peer launch queue and waits for the result word. -/
  | launch (f : MForm)
  /-- TRAP (R392): Raises SOFTWARE with its code. -/
  | trap (f : MForm)
  /-- ERET (R393): Returns from handler mode, restoring PCC and g1 from a trap record. -/
  | eret (f : MForm)
  /-- CSRR (R394): Reads a CSR. -/
  | csrr (f : MForm)
  /-- CSRW (R394): Writes a strand CSR. -/
  | csrw (f : MForm)
  /-- CSRX (R394): Exchanges a strand CSR in one step. -/
  | csrx (f : MForm)
  /-- STRETRY (R395): Clears store-fault records and retranslates the retained stores. -/
  | stretry (f : MForm)
  /-- STDROP (R395): Discards the retained stores and clears the records. -/
  | stdrop (f : MForm)
  /-- KILLDOM (R396): Ends every member of a domain and then the issuer. -/
  | killdom (f : MForm)
  /-- SEEDW (R397): Seeds the slot's 64 generators from a base. -/
  | seedw (f : MForm)
  /-- SEEDR (R397): Reads one generator's state without stepping it. -/
  | seedr (f : MForm)
  /-- TLBINV (R398): Removes translations of the partition from TLBs within its reach. -/
  | tlbinv (f : MForm)
  /-- TSREAD (R481): Reads the global timestamp, optionally after replies arrive. -/
  | tsread (f : MForm)
  /-- PERFRD (R481): Reads an event counter. -/
  | perfrd (f : MForm)
  /-- TRACEV (R481): Writes a traced value into the cruise log. -/
  | tracev (f : MForm)
  /-- BRK (R481): Raises BREAKPOINT or halts the cluster. -/
  | brk (f : MForm)
  /-- LOGMARK (R481): Writes a mark entry into the cruise log. -/
  | logmark (f : MForm)
  /-- NOP_S (R45): S-form NOP: the all-zero word, which does nothing but advance the PC. -/
  | nopS
  /-- RET_S (R45): S-form RET: returns through the link capability in g1. -/
  | retS
  /-- YIELD_S (R45): S-form YIELD: the slot passes over its next turn. -/
  | yieldS
  /-- END_S (R45): S-form END: ends the strand. -/
  | endS
  /-- STORE_TRANSLATE (R384): A posted store finishes translation, then performs or receives a store-fault record. -/
  | storeTranslate
  /-- STORE_FAULT_TRAP (R386): STORE_FAULT is taken at the first boundary with PEND set outside handler mode. -/
  | storeFaultTrap
  /-- WAITA_WAKE (R272): A write to the monitored line, or a dropped entry, wakes the WAITA with pd true. -/
  | waitaWake
  /-- WAIT_COMPLETE (R184): A waiting instruction completes in the clk its condition becomes true. -/
  | waitComplete
  /-- PARKED_RECORD_RELEASE (R184): A parked record enters its stage queue when its awaited condition becomes true and the queue has room. -/
  | parkedRecordRelease
  /-- MIGRATION_AT_SAFEPOINT (R168): A slot with a pending migration request suspends on reaching a safe-point PC. -/
  | migrationAtSafepoint
  /-- STAGE_PICK (R171): The stage scheduler picks a record for an idle slot. -/
  | stagePick
  /-- WATCHDOG_EXPIRE (R179): When COUNT reaches LIMIT, waiting slots take WATCHDOG and parked records are marked. -/
  | watchdogExpire
  /-- COMBINE_WINDOW_CLOSE (R287): A combining window closes after 64 clk and forwards one command, multicasting its acceptance word. -/
  | combineWindowClose
  /-- TIMELINE_ADVANCE (R290): A finished holder advances its timeline when COUNT reaches its position minus 1. -/
  | timelineAdvance
  /-- DISPATCH_INGRESS (R366): A die's ingress writes a received token row into each listed expert's buffer. -/
  | dispatchIngress
  /-- TILE_CONTROL_APPLY (R313): An MTCW entry applies its tile control on reaching the queue head. -/
  | tileControlApply
  /-- MATRIX_SLICE (R315): The array or transfer port grants and runs one slice of an eligible head command. -/
  | matrixSlice
  /-- COLL_PARTICIPANT_ARRIVE (R457): A participant's collective message arrives and meets the matching collective of its group. -/
  | collParticipantArrive
  /-- COLLECTIVE_EXPIRE (R458): A participant that has waited 2^32 clk for another fails with EXPIRED. -/
  | collectiveExpire
  /-- OWNER_RECEIVE (R428): An owner executes a new stamped request once or answers a copy from its reply cache. -/
  | ownerReceive
  /-- REPLY_RECEIVE (R427): A reply reaches the requester and ends or keeps its table entry. -/
  | replyReceive
  /-- REQUEST_RETRANSMIT (R427): An unanswered request is sent again 2,048 clk after its last transmission, or ends NOREPLY after 16. -/
  | requestRetransmit
  /-- BUSY_RETRY (R427): A request answered BUSY or FULL is sent again 256 clk later. -/
  | busyRetry
  /-- ACK_SEND (R427): After 256 idle clk the interface sends acknowledgements to its owners. -/
  | ackSend
  /-- READ_RETRANSMIT (R422): An unanswered cross-die read or recall is sent again after 2,048 clk, ending NOREPLY after 16. -/
  | readRetransmit
  /-- MARK_FORGET (R430): An owner may forget a requester's mark after 2 x LIFETIME without entries or requests. -/
  | markForget
  /-- REPLAY_ADMIT (R479): In replay mode a merge point admits an arrival when it is next in the log, or flags divergence. -/
  | replayAdmit
  /-- SWEEPER_VISIT (R475): The sweeper adds each counter's difference to its 64-bit total once per 2^26 clk. -/
  | sweeperVisit
  /-- LAUNCH_PACKET_WRITE (R445): The host writes a launch packet into a partition's launch window. -/
  | launchPacketWrite
  /-- LAUNCH_TAG_WRITE (R445): The host sets the tags given to KCAP and ACAP of later packets. -/
  | launchTagWrite
  /-- HOST_ACKMARK_WRITE (R445): The host writes its requester ACKMARK. -/
  | hostAckmarkWrite
  /-- PEER_LAUNCH_RECEIVE (R449): A fabric interface checks a peer launch packet against the access-control table and queues it. -/
  | peerLaunchReceive
  /-- LAUNCH_HEADER_CHECK (R159): A QUEUED entry's packet and kernel header are read and checked, or the launch is refused. -/
  | launchHeaderCheck
  /-- LAUNCH_DEQUEUE (R161): A WAITING entry binds its free cores and reserves record store, or is refused TARGET_FULL under NOWAIT. -/
  | launchDequeue
  /-- CORE_WAKE (R162): The wake flood reaches a core, which configures its scratchpad and starts slot 0 with the launch presets. -/
  | coreWake
  /-- LAUNCH_COMPLETE (R163): When all strands, queues, parked records and join cells are done the launch advances its timeline and frees its cores. -/
  | launchComplete
  /-- HOST_MEM_ACCESS (R446): A CXL.mem access by the host through a partition window performs at the home slice. -/
  | hostMemAccess
  /-- FLIT_RECEIVE (R447): A fabric port receives a flit, drops it on bad CRC, and delivers its messages. -/
  | flitReceive
  /-- TWIN_COMPARE (R390): The egress router compares the n-th messages of a twin pair and forwards or stops both. -/
  | twinCompare
  /-- TWIN_TIMEOUT (R390): One twin's message waits 4,096 clk for its partner and both cores stop. -/
  | twinTimeout
  /-- CORE_STOP (R387): A core that consumed poison stops, seals its mailboxes and discards its matrix queue. -/
  | coreStop
  /-- CORESVC_GO (R388): Writing GO returns a stopped core to service after preparation. -/
  | coresvcGo
  /-- MIGREQ_WRITE (R168): System software requests the migration of a slot. -/
  | migreqWrite
  /-- SWAP_FAST (R408): SWAPCTL GO starts a fast swap that halts, drains, flips banks and issues the incoming context. -/
  | swapFast
  /-- SWAP_ENTRY (R406): A fast swap into an empty shadow bank narrows L1 and prepares the high half first. -/
  | swapEntry
  /-- SWAP_SLOW (R410): A swap with SLOW set saves the live context to HBM and loads the incoming one. -/
  | swapSlow
  /-- CLUSTER_PREPARE (R220): A cluster passing to another owner is zeroed, reseeded and cleared. -/
  | clusterPrepare
  /-- PGCLR_GO (R222): Starts clearing one page under a new key. -/
  | pgclrGo
  /-- PGCLR_DONE (R222): The page clear completes and GO reads 0. -/
  | pgclrDone
  /-- PKEY_DRAW (R487): Draws a new partition key into every base die. -/
  | pkeyDraw
  /-- PKEY_DESTROY (R487): Waits for accesses, discards L2 lines and destroys a partition key. -/
  | pkeyDestroy
  /-- DBGCTL_HALT (R473): Halts every core of a cluster within 24 clk. -/
  | dbgctlHalt
  /-- DBGCTL_RESUME (R473): Resumes a halted cluster. -/
  | dbgctlResume
  /-- DBGDATA_WRITE (R473): Writes the selected item of a halted slot. -/
  | dbgdataWrite
  /-- PORTDIG_CLEAR (R471): Writing a port digest clears it to 0. -/
  | portdigClear
  /-- ATTEST_REQUEST (R486): A nonce written to the attestation window makes die 0 sign a measurement report. -/
  | attestRequest
  /-- CSR_WRITE (R37): A write to a control register that has no row of its own. -/
  | csrWrite
  /-- PER_BANK_REFRESH (R218): The controller issues an owed refresh to an idle HBM bank. -/
  | perBankRefresh
  /-- FORCED_REFRESH (R218): A bank owing 8 refreshes forces an all-bank refresh of its pseudo-channel. -/
  | forcedRefresh
  /-- COLD_RESET (R483): Resets the package and loads and checks firmware. -/
  | coldReset
  /-- WARM_RESET (R483): Resets one die, destroys its keys and bumps owner incarnations. -/
  | warmReset
  /-- PEER_RESET (R431): A peer device on a fabric port resets, and the port interface's incarnation increases. -/
  | peerReset
  /-- LINK_LOST (R299): The host attach or a link loses its connection, failing commands that need it with LINK_DOWN. -/
  | linkLost
  /-- JUNCTION_ALERT (R489): A die junction reaches 105 C and the management core is alerted. -/
  | junctionAlert
  /-- JUNCTION_TRIP (R489): A die junction reaches 125 C and the package removes its power. -/
  | junctionTrip
  /-- UNCORRECTABLE_ERROR (R216): A storage error is found in protected SRAM, L2, HBM or an owner's reply cache: a corrected error is counted, an uncorrectable one marks the word or line poisoned, and an owner whose cache or marks are lost raises its incarnation. -/
  | uncorrectableError
  /-- CXL_CACHE_SNOOP (R206): The Sahjo host sends a CXL.cache coherence request to die 0 or die 4, whose L2 gives up or downgrades the host line it holds. -/
  | cxlCacheSnoop
  /-- LINK_TRAIN (R444): A UCIe module, fabric port or die link trains and comes up, at full or reduced width, and traffic starts using it. -/
  | linkTrain
  /-- STAGE_SCHEDULER_REBALANCE (R168): The stage scheduler, on its own initiative, sets a migration request on a slot whose QMAP is zero. -/
  | stageSchedulerRebalance
deriving DecidableEq, Repr

end Sys2Proof
end

