-- ==== Sys2Proof/Machine/State.lean ====
section
/-!
DEFINITION. The state of the package: everything the spec gives the machine, as plain data. Units without an entry in a sparse
map are in their reset state. Strand slots and core banks stand under a key that holds the bank (R401):
slot key = 2 x slot + bank, core key = 2 x core + bank.
-/
namespace Sys2Proof.Machine

/-! ## Memory -/

/-- A byte store: bytes, tags of 16-byte granules and poison, each sparse (R215 to R217). `cells` and the two lists rise strictly;
a byte that is not listed reads 0 (log 1). `poison` counts lines of global memory, 8-byte words of a scratchpad (R216). -/
structure Mem where
  cells : List Host.Cell := []
  tags : List Nat := []
  poison : List Nat := []
deriving DecidableEq, Repr

/-- SCOPE, ODIE and OCLUS of a line (R215). -/
structure LineMeta where
  scope : BitVec 3
  odie : BitVec 3
  oclus : BitVec 6
deriving DecidableEq, Repr

/-- The ordering mode of a page (R209). -/
inductive PageMode
  | so
  | rc
  | uo
deriving DecidableEq, Repr

/-- A page as an access finds it (R209, R210). -/
structure Page where
  key : BitVec 6
  mode : PageMode
  c : Bool
  tg : Bool
deriving DecidableEq, Repr

/-- Where a piece of an access performs: a byte address of `State.spad`, or a physical address with its page. -/
inductive Loc
  | spad (addr : Nat)
  | mem (pa : Nat) (pg : Page)
deriving DecidableEq, Repr

/-- A part of an access that lies within one line (R213). -/
structure Piece where
  loc : Loc
  n : Nat
deriving DecidableEq, Repr

/-- What a read of bytes within one line gives. -/
structure Got where
  bytes : List Byte
  tag : Bool
  poison : Bool
deriving DecidableEq, Repr

/-- A partial value of an update-only line: offset and size in bytes, the reduction code of R268, the scope that goes to the
metadata, the partial (R239). -/
structure Partial where
  off : Nat
  size : Nat
  op : Nat
  scope : Nat
  value : Word
deriving DecidableEq, Repr

/-- A line of an L1: bytes with a valid and a dirty bit each, tags, poison, and its partials when it is update-only
(R207, R236, R239). -/
structure L1Line where
  mode : PageMode
  data : BitVec 512
  valid : BitVec 64
  dirty : BitVec 64
  tags : BitVec 4
  poison : Bool
  key : BitVec 6
  parts : List Partial
deriving DecidableEq, Repr

/-- A TLB entry: one page or one 8 GiB block of a partition, with the entry word (R212). -/
structure TlbEntry where
  part : Nat
  vpn : Nat
  block : Bool
  entry : Word
deriving DecidableEq, Repr

/-! ## Strand slots -/

/-- What a posted store carries (R384). -/
inductive StoreKind
  /-- ST, SHST, ST64: plain bytes -/
  | plain
  /-- STC of a tagged value (R258) -/
  | tagged
  /-- ST with release: SCOPE is written (R257) -/
  | release (scope : Nat)
  /-- RED with its operation, and the scope that goes to the metadata (R268) -/
  | red (op scope : Nat)
  /-- a remote store; `fe` is 0 for plain, 5 for FE, 6 for FF (R438) -/
  | remote (fe : Nat) (quiet : Bool) (release : Option Nat) (target : Option Nat)
deriving DecidableEq, Repr

/-- An entry of the store buffer: `va` the first byte, `data` its bytes, `faulted` when its translation faulted, `held` when it is
retained behind a fault (R384), `part` the translated part that is left of a store across two lines of which one has performed (R213). -/
structure StoreEnt where
  va : Nat
  data : List Byte
  kind : StoreKind
  held : Bool
  faulted : Bool
  part : Option Piece := none
deriving DecidableEq, Repr

/-- Where a suspended strand's record goes (R167, R190). -/
inductive SaveTo
  /-- the queue of the strand's stage in a cluster -/
  | stage (cluster : Nat)
  /-- parked with a domain cell: unit kind, unit, cell, awaited phase -/
  | domain (handle : BitVec 16) (phase : BitVec 32)
  /-- parked with a ticket pair of a cluster -/
  | ticket (cluster pair : Nat) (ticket : BitVec 32)
  /-- RFORK: trip count, grain, die scope, PCC at the body -/
  | fork (trip grain : Nat) (die : Bool) (body : Cap)
deriving DecidableEq, Repr

/-- A save or restore routine that the strand runs (R165, R166). -/
inductive Routine
  | none
  /-- SAVING at safe point `sp`; `caught` is the PC of the suspending instruction -/
  | save (sp : Nat) (dest : SaveTo)
  /-- the restore routine, which ends when RET reaches the resume PC -/
  | restore (pc : Nat)
deriving DecidableEq, Repr

/-- The state of a slot (R153). SAVING is READY or WAITING inside a save routine; HALTED is `Slot.halted`, or a context that is not live, beside
the state held before the halt. -/
inductive SlotState
  | idle
  | starting
  | ready
  | waiting (i : Instr)
  /-- between a trap taken at `time` and its handler: the record is on its way to a home on another die, or to the egress router of twinned
  cores (R381, R390, R422) -/
  | trapping (cause addr : Nat) (sw : BitVec 16) (time : Word)
deriving DecidableEq, Repr

/-- A trap that a later waiter raises: the cause code of R380, the address, and the serial of the operation (R422, R434). -/
structure PendTrap where
  cause : Nat
  addr : Nat
  serial : BitVec 32
deriving DecidableEq, Repr

/-- A continuation record is a `Record` (R164). A record in the store has its own place in the order of entry. -/
structure Parked where
  record : Record
  launch : Nat × Nat
  dest : SaveTo
  marked : Bool
  ready : Bool
deriving DecidableEq, Repr

structure Slot where
  regs : Vector Cap 32
  preds : BitVec 8
  pcc : Cap
  hm : Bool
  shapes : Vector (BitVec 256) 16
  fstat : BitVec 6
  fctl : BitVec 4
  qmap : BitVec 4
  domains : Vector (BitVec 16) 4
  trapRec : Cap
  seedIdx : BitVec 6
  gens : Vector (BitVec 32) 64
  rtgt : BitVec 10
  rsts : Word
  tclass : BitVec 2
  sbuf : List StoreEnt
  stfRecs : List Word
  ovf : Bool
  pend : Bool
  state : SlotState
  halted : Bool
  routine : Routine
  stage : Nat
  launch : Option (Nat × Nat)
  yieldHint : Bool
  killed : Bool
  /-- the record was marked by the watchdog: WATCHDOG at the resume PC (R179) -/
  wdMark : Bool
  migReq : Bool
  noBp : Bool
  /-- the copy of the record last picked up (R388) -/
  picked : Option Record
  /-- a fault of the generator read of a pick-up: cause code and address (R166) -/
  pickFault : Option (Nat × Nat)
  /-- the WAITA monitor: none, or armed, with `some true` once a write performed on its line (R272) -/
  armed : Option Bool
  /-- the combining window joined, or the acceptance word it brought (R287) -/
  joined : Option (Option Word)
  /-- the place of the issued vector instruction in the order in which the core's slots issued theirs (R130) -/
  vecTurn : Option Nat
  /-- the place of a record that waits for room in the core's matrix queue, in the order of issue (R281, R307) -/
  mqTurn : Option Nat
  /-- completed elements and gathered flags of a halted vector instruction (R134) -/
  vecDone : Nat
  vecFlags : BitVec 6
  /-- the waiting instruction has issued: the entries it popped, each with its queue (R25) -/
  issued : Bool
  popped : List (Nat × Cap)
  /-- the running value of a halted VSCAN and the element before the next: kind (0 finite, 1 infinite, 2 NaN), sign, m, e -/
  vecAcc : List (Nat × Bool × Nat × Int)
  /-- an outstanding read that leaves the die: its transmissions, and the clk of the last one (R422) -/
  xread : Option (Nat × Word)
  /-- the stamped operation whose reply the slot waits for (R427) -/
  sent : Option (BitVec 32)
  /-- what a final reply brought to the waiting instruction: status and result (R429) -/
  reply : Option (Nat × Word)
  replyTraps : List PendTrap
  /-- remote half of a sequence already done before a wait: stores flushed, acknowledgements sent (R440) -/
  acked : Bool
  /-- the far lines of the L1 have been sent home for the waiting release or command (R236) -/
  flushed : Bool
  /-- what the ingress half of the skid ring brought to a waiting load when its context resumed: its bytes, or a refused acquire (R408) -/
  ingress : Option (Option Got)
  /-- a load across two lines has read one of them: whether it was the lower, and what it held (R213) -/
  readPart : Option (Bool × Got)
  /-- what the END of a save routine has written: 1 the generators, 2 + cell the handle of an RFORK (R165, R190) -/
  wrote : Nat
  /-- the message of the waiting instruction has been sent to the egress router, and compared equal (R390) -/
  twinSent : Bool
  twinOk : Bool
deriving DecidableEq, Repr

/-- A slot at reset. Registers per R29; generators derived with base 0 (R220). -/
def Slot.reset : Slot where
  regs := Vector.replicate 32 Cap.zero
  preds := 1
  pcc := Cap.zero
  hm := false
  shapes := Vector.replicate 16 0
  fstat := 0
  fctl := 0
  qmap := 0
  domains := Vector.replicate 4 0
  trapRec := Cap.zero
  seedIdx := 0
  gens := seedDerive 0
  rtgt := 0
  rsts := 0
  tclass := 0
  sbuf := []
  stfRecs := []
  ovf := false
  pend := false
  state := .idle
  halted := false
  routine := .none
  stage := 0
  launch := none
  yieldHint := false
  killed := false
  wdMark := false
  migReq := false
  noBp := false
  picked := none
  pickFault := none
  armed := none
  joined := none
  vecTurn := none
  mqTurn := none
  vecDone := 0
  vecFlags := 0
  issued := false
  popped := []
  vecAcc := []
  xread := none
  sent := none
  reply := none
  replyTraps := []
  acked := false
  flushed := false
  ingress := none
  readPart := none
  wrote := 0
  twinSent := false
  twinOk := false

/-! ## Requesters and owners -/

/-- The operations that travel under a stamp (R421). `so` marks a line of an SO page (R235). -/
inductive RemOp
  /-- the bytes of an RST -/
  | write (loc : Nat) (spad so : Bool) (data : List Byte) (scope : Option Nat)
  /-- bytes of one line, as stores, vector instructions, write-backs, engines and the trap unit write them: offset, bytes, tag of the granule -/
  | line (line : Nat) (key : BitVec 6) (so : Bool) (runs : List (Nat × List Byte × Bool)) (poison : Bool) (scope : Option Nat)
  /-- partials of a U line, or a RED that performs at its home -/
  | parts (line : Nat) (key : BitVec 6) (so : Bool) (ps : List Partial) (poison : Bool)
  | fe (loc : Nat) (full : Bool) (value : Word)
  | amo (loc : Nat) (spad so : Bool) (size op : Nat) (value : Word) (ord scope : Nat)
  | cas (loc : Nat) (spad so : Bool) (size : Nat) (expect value : Word) (ord scope : Nat)
  | famo (loc : Nat) (so : Bool) (op : Nat) (value : Word) (ord scope : Nat)
  | ticket (cluster pair : Nat)
  | push (cluster stage : Nat) (record : Record) (launch : Nat × Nat)
  | launch (part : Nat) (peer : Option Nat) (packet : Record)
deriving DecidableEq, Repr

/-- An operation at a remote interface: its owner, the address that a report names, whether it is QUIET, whether an instruction waits for it,
whether it is a write-back or a partial, the job of an engine it belongs to, its traffic class, the line whose writes R422 keeps in order. -/
structure NetOp where
  owner : Nat
  op : RemOp
  va : Nat
  quiet : Bool := false
  waiting : Bool := false
  home : Bool := false
  job : Option Nat := none
  cls : Nat := 0
  line : Option Nat := none
deriving DecidableEq, Repr

/-- An entry of a retransmission table (R425, R427). `busyAt` counts from a BUSY or FULL reply. -/
structure TabEnt extends NetOp where
  serial : BitVec 32
  incar : BitVec 16
  sends : Nat
  lastSent : Word
  busyAt : Option Word
deriving DecidableEq, Repr

/-- An RST on the own die that found no room: it stays in the mesh, without a stamp, and is tried again 256 clk later (R421, R427). -/
structure MeshOp where
  op : RemOp
  va : Nat
  quiet : Bool
  /-- its strand has ended: the outcome is discarded (R435) -/
  dropped : Bool := false
  busyAt : Word
deriving DecidableEq, Repr

/-- An owner in a requester's owner list: the largest serial sent to it, and the acknowledgement it confirmed (R427). -/
structure OwnerRef where
  owner : Nat
  last : BitVec 32
  ackedTo : Option (BitVec 32)
deriving DecidableEq, Repr

structure Requester where
  next : BitVec 32 := 0
  table : List TabEnt := []
  done : BitVec 32 := 0xFFFFFFFF
  /-- serials above DONE that already have a final reply -/
  early : List (BitVec 32) := []
  owners : List OwnerRef := []
  lastSent : Word := 0
  /-- operations that wait at the interface, oldest first (R422, R425) -/
  queue : List NetOp := []
  mesh : List MeshOp := []
  /-- jobs of an engine of which a write ended OWNER_RESTARTED or NOREPLY (R422) -/
  failed : List Nat := []
  /-- the context of the strand is swapped out: what waited at the interface is in the skid ring, and nothing leaves before it (R408) -/
  away : Bool := false
deriving DecidableEq, Repr

/-- A cached reply (R428). -/
structure Cached where
  req : Nat
  serial : BitVec 32
  status : Nat
  result : Word
deriving DecidableEq, Repr

/-- The mark of a requester at an owner, and the clk of its last request (R430). -/
structure Mark where
  req : Nat
  mark : BitVec 32
  lastAt : Word
deriving DecidableEq, Repr

structure Owner where
  incar : BitVec 16 := 0
  cache : List Cached := []
  marks : List Mark := []
deriving DecidableEq, Repr

/-- A packet of a DISPATCH: its number, the die of its ingress, the row with its poison, the buffers and seats it goes to (R300, R366). -/
structure Packet where
  num : Nat
  die : Nat
  rowBytes : Nat
  data : List Byte
  poison : List Bool
  dest : List (Cap × Nat)
deriving DecidableEq, Repr

/-- A message on a link beyond one die (R420). `sent` is the clk at which its age is 0, `cls` its traffic class (R453); a reply carries the stamp
of its request, with the owner's incarnation (R424). -/
inductive Msg
  | request (owner req : Nat) (stamp : Stamp) (op : RemOp) (sent : Word) (cls : Nat)
  | reply (req : Nat) (owner : Nat) (serial : BitVec 32) (status : Nat) (result : Word) (incar : BitVec 16) (ackmark : BitVec 32)
  | ack (owner req : Nat) (mark : BitVec 32)
  | ackDone (owner req : Nat) (mark : BitVec 32)
  /-- a row of a DISPATCH from the dispatch unit of die `src`, of the job that was accepted as number `order` -/
  | row (src order : Nat) (p : Packet) (sent : Word)
  /-- a Back-Invalidate to the host for a line that the device writes (R444) -/
  | backInval (line : Nat)
  /-- a flit that leaves through a port (R447) -/
  | out (port : Nat) (flit : List Byte)
deriving DecidableEq, Repr

/-! ## Cores, quads, clusters -/

/-- A tile register: control under which its content stands, codes at 512 x row + column, scale bytes at 16 x row + block; what is not
listed is 0 (R310). `poison` lists poisoned 64-bit words: of the codes in row-major order, and from 1,024 on of the scale bytes (R216; the
arrangement is a DESIGN CHOICE, log 37). -/
structure Tile where
  ctl : BitVec 32 := 0
  elems : SMap Nat := []
  scales : SMap Nat := []
  poison : List Nat := []
deriving DecidableEq, Repr

/-- An accumulator: FP32 patterns at 64 x row + column (R310); a poisoned 64-bit word holds two columns (log 37). -/
structure Acc where
  elems : SMap Nat := []
  poison : List Nat := []
deriving DecidableEq, Repr

/-- A participant of a collective (R457). -/
structure Member where
  device : Nat
  die : Nat
  part : Nat
deriving DecidableEq, Repr

/-- The group of a collective as its command read it: the hash, the rank, the participants, the permutation of a RESHARD (R457, R461). -/
structure Group where
  hash : Word
  rank : Nat
  members : List Member
  perm : List Nat
deriving DecidableEq, Repr

/-- A command in an engine or a matrix queue: its record, who issued it, the position taken, and how far it has run
(R285, R290, R328). -/
structure Job where
  record : Record
  /-- MTCW entries carry a tile control in place of a record (R307) -/
  mtcw : Option (Nat × BitVec 32)
  part : Nat
  slot : Nat
  launch : Nat × Nat
  pos : Option Nat
  order : Nat
  started : Bool
  slice : Nat
  gens : Vector (BitVec 32) 64
  /-- of a twinned core: 1 the memory writes of the next slice wait at the router, 2 they have compared equal (R390) -/
  twin : Nat
  /-- packets not yet confirmed by an ingress (R300), parked rows, destination bytes confirmed (R293) -/
  packets : List Packet
  parkedRows : Nat
  confirmed : Nat
  /-- a collective's group, its n on its hash and timeline, and the clk at which it began to wait (R457, R458) -/
  group : Option Group
  nth : Nat
  since : Word
  done : Bool
  /-- the command has run and ends, with this failure or none, when its writes have performed at their homes (R296, R422) -/
  closing : Option (Option (Nat × Nat)) := none
deriving DecidableEq, Repr

/-- An entry of a queue of a core (R24): its value, the slot whose waiting instruction has reserved the place (R25), and poison (R216). -/
structure QEnt where
  cap : Cap
  owner : Option Nat
  poison : Bool := false
deriving DecidableEq, Repr

/-- An entry of the ingress half of a skid ring: the slot of the core whose read it answers, what the read gave or none for a refused acquire,
and whether the entry is uncorrectable (R401, R408, R411). -/
structure SkidIn where
  slot : Nat
  got : Option Got
  bad : Bool := false
deriving DecidableEq, Repr

/-- An entry of the egress half: a message of a slot of the core that waited at the interface. -/
structure SkidOut where
  slot : Nat
  op : NetOp
  bad : Bool := false
deriving DecidableEq, Repr

structure CoreBank where
  queues : Vector (List QEnt) 4
  tiles : Vector Tile 4
  ctl : Vector (BitVec 32) 4
  ctlLast : Vector (BitVec 32) 4
  acc : Vector Acc 2
  mq : List Job
  /-- the halves of the skid ring, at most 16 entries each (R401) -/
  skidIn : List SkidIn
  skidOut : List SkidOut
  l1 : SMap L1Line
  /-- configured scratchpad in bytes; 0 when the core is bound to no launch (R162, R203) -/
  spad : Nat
  /-- where the bank's half begins in the core's SRAM: 0, or 49,152 for a high half (R405) -/
  spadBase : Nat
  /-- bytes of L1 (R204, R405) -/
  l1Bytes : Nat
  launch : Option (Nat × Nat)
  /-- scratchpad words that are full (R214), by word number within the core's 96 KiB -/
  full : List Nat
  /-- addresses of write-backs and partials that ended unknown, oldest first (R422) -/
  lostHome : List Nat
deriving DecidableEq, Repr

def CoreBank.reset : CoreBank where
  queues := Vector.replicate 4 []
  tiles := Vector.replicate 4 {}
  ctl := Vector.replicate 4 0
  ctlLast := Vector.replicate 4 0
  acc := Vector.replicate 2 {}
  mq := []
  skidIn := []
  skidOut := []
  l1 := []
  spad := 0
  spadBase := 0
  l1Bytes := 0
  launch := none
  full := []
  lostHome := []

/-- A message of a twinned core, as the egress router compares it (R390). -/
structure TwinMsg where
  crc : Word
  came : Word
  /-- the slot key that sent it, and from where: 0 an instruction, 1 the store buffer, 2 the matrix engine -/
  slot : Nat
  kind : Nat
deriving DecidableEq, Repr

structure Core where
  liveBank : Nat := 0
  lastSlot : Nat := 3
  stopped : Bool := false
  /-- the other core of a twinned pair, and whether this one is the primary -/
  twin : Option (Nat × Bool) := none
  twinMsgs : List TwinMsg := []
  cruisePos : Nat := 0
  cruiseAt : Word := 0
  cruiseState : Nat := 3
  /-- the slot that issued last and the clk in which it did (R474) -/
  issuedAt : Option (Nat × Word) := none
  /-- event counters: 0x001 and 0x002 of slot 0 to 3, then 0x101, 0x102, 0x103 -/
  counters : Vector (BitVec 32) 11 := Vector.replicate 11 0
deriving DecidableEq, Repr

/-- The resident weight block: type, key, N, K, codes at K x n + k, scales at (K / 32) x n + block (R310, R319);
poisoned words of the codes, and from 2,048 on of the scales (log 37). -/
structure Weights where
  typ : BitVec 8 := 0
  key : BitVec 16 := 0
  n : Nat := 0
  k : Nat := 0
  elems : SMap Nat := []
  scales : SMap Nat := []
  poison : List Nat := []
deriving DecidableEq, Repr

structure Quad where
  weights : Vector Weights 2 := Vector.replicate 2 {}
  lastArray : Nat := 3
  lastPort : Nat := 3
  counters : Vector (BitVec 32) 2 := Vector.replicate 2 0
deriving DecidableEq, Repr

/-- A domain cell (R175). -/
structure DomCell where
  kind : Nat
  members : Nat
  arrived : Nat
  phase : BitVec 32
  mask : BitVec 48
  core : Nat
  launch : Nat × Nat
deriving DecidableEq, Repr

/-- A join cell: count, die scope, continuation (R174). -/
structure JoinCell where
  count : Nat
  die : Bool
  cont : Record
  launch : Nat × Nat
deriving DecidableEq, Repr

/-- The stage queues of one launch in a cluster: records of each stage, oldest first, and ages (R170, R171). -/
structure StageQueues where
  launch : Nat × Nat
  queues : Vector (List (Record × Bool)) 16
  ages : Vector Nat 16
deriving DecidableEq, Repr

/-- A combining window: the record, who joined, when it opened, from which slot it came (R287). -/
structure Window where
  record : Record
  members : List Nat
  opened : Word
deriving DecidableEq, Repr

/-- A WAITA monitor: slot key, location of the line (R272). -/
structure Monitor where
  slotKey : Nat
  line : Nat
  spad : Bool
deriving DecidableEq, Repr

structure Cluster where
  /-- partition of bank 0 and of bank 1 (R401, R403) -/
  ctx0 : Option Nat := none
  ctx1 : Option Nat := none
  liveBank : Nat := 0
  cells : SMap DomCell := []
  joins : SMap JoinCell := []
  /-- NEXT and SERVING of the ticket pairs, by 64 x partition + pair: a pair belongs to one partition (R407) -/
  tickets : SMap (BitVec 32 × BitVec 32) := []
  queues : List StageQueues := []
  parked : List Parked := []
  reserved : List ((Nat × Nat) × Nat) := []
  monitors : List Monitor := []
  /-- how far the round of picks has come: 4 x core within the cluster + slot (R171) -/
  pickAt : Nat := 0
  tlb : List TlbEntry := []
  copyQ : List Job := []
  windows : List Window := []
  /-- the live context is halted, and the halt that stays with the shadow context (R411, R473) -/
  halted : Bool := false
  shadowHalted : Bool := false
  /-- a swap with NOIN has left the live context halted beside a context in the shadow bank (R403) -/
  idled : Bool := false
  bps : Vector Word 4 := Vector.replicate 4 0
  counters : Vector (BitVec 32) 3 := Vector.replicate 3 0
deriving DecidableEq, Repr

/-! ## Dies -/

/-- A token submission of a lot (R354, R355). -/
structure Submission where
  ntok : Nat
  astride : Int
  aff : Cap
deriving DecidableEq, Repr

structure Lot where
  owner : Option Nat := none
  e : Nat := 0
  k : Nat := 0
  surplus : Bool := false
  roundLim : Nat := 0
  eps : BitVec 32 := 0
  prices : SMap (BitVec 32) := []
  caps : SMap Nat := []
  asgn : Cap := Cap.zero
  park : Cap := Cap.zero
  rtab : Cap := Cap.zero
  pidxOff : Nat := 0
  pending : List Submission := []
  late : List Submission := []
  auctNo : BitVec 32 := 0
  rounds : Nat := 0
  fallback : Nat := 0
  dups : Nat := 0
  parked : Nat := 0
  lastFail : Bool := false
  /-- its partition has ended: the lot is freed when the commands on it have finished (R350) -/
  ending : Bool := false
deriving DecidableEq, Repr

/-- An entry of the felling record: TIME, source, CODE, ARG (R480). -/
structure Felling where
  time : Word
  source : Nat
  code : Nat
  arg : BitVec 16
deriving DecidableEq, Repr

/-- Boot status of a die (R484): running with an SVN, or the failed step. -/
inductive Boot
  | notBooted
  | running (svn : BitVec 32)
  | failed (step : Nat)
deriving DecidableEq, Repr

structure Die where
  tlb : List TlbEntry := []
  cells : SMap DomCell := []
  pkgCells : SMap DomCell := []
  market : List Job := []
  dispatch : List Job := []
  coll : List Job := []
  lots : SMap Lot := []
  owners : SMap Owner := []
  learnt : SMap (BitVec 16) := []
  felling : List Felling := []
  measurements : Vector (BitVec 256) 8 := Vector.replicate 8 0
  boot : Boot := .notBooted
  keys : BitVec 64 := 0
  /-- supervisor CSRs of the die by number: value, for those without a field of their own -/
  csr : SMap Word := []
  rlog : List (Nat × Word) := []
  rlogAt : SMap Nat := []
  debts : SMap Nat := []
  hbmStall : SMap Word := []
  aclCount : List (Nat × Word) := []
  totals : SMap (BitVec 32) := []
  /-- a page clear in progress: its frame, its key, and the count of the free values that say which lines it has cleared (R222) -/
  clearing : Option (Nat × BitVec 6 × Nat) := none
  /-- a destroy that waits, and whether the last operation was refused (R487) -/
  pkeyBusy : Bool := false
  pkeyRefused : Bool := false
  /-- a fast swap that SWAPCTL of the die started and whose incoming context has not issued: the cluster, and the clk of the halt request (R403) -/
  swapRun : Option (Nat × Word) := none
  /-- n of the next collective of a context on a pair of hash and timeline (R457) -/
  collNth : List ((Nat × Word × Nat) × Nat) := []
deriving DecidableEq, Repr

/-! ## Partitions -/

/-- A position on a timeline whose holder has finished and awaits its advance (R290); the cluster whose context holds the advance of a matrix
command (R328). -/
structure Finished where
  pos : Nat
  err : Bool
  heldBy : Option Nat := none
deriving DecidableEq, Repr

structure Timeline where
  count : BitVec 63 := 0
  err : Bool := false
  issued : BitVec 63 := 0
  scope : BitVec 3 := 3
  owner : BitVec 5 := 0x1F
  ownGen : BitVec 16 := 0
  finished : List Finished := []
deriving DecidableEq, Repr

/-- A stage entry and a safe-point entry of a kernel header (R158). -/
structure Stage where
  sentry : Nat
  bound : Nat
  out : Nat
deriving DecidableEq, Repr

structure SafePoint where
  sppc : Nat
  save : Nat
  restore : Nat
  live : BitVec 32
deriving DecidableEq, Repr

/-- What the launch unit read from the kernel header (R157). `base` is the address of its first byte. -/
structure Header where
  kcap : Cap
  base : Nat
  regs : Nat
  twin : Bool
  scratch : Nat
  entry : Nat
  handler : Nat
  stages : List Stage
  points : List SafePoint
deriving DecidableEq, Repr

inductive EntryState
  | empty
  | queued
  | waiting
  | waking
  | running
deriving DecidableEq, Repr

/-- A launch-queue entry (R161, R294). -/
structure Entry where
  st : EntryState := .empty
  gen : BitVec 16 := 0
  packet : Record := Record.zero
  pos : Option Nat := none
  order : Nat := 0
  hdr : Option Header := none
  toWake : List Nat := []
  abnormal : Bool := false
  peer : Option Nat := none
deriving DecidableEq, Repr

structure Partition where
  wdLimit : Word := 0x100000000
  wdCount : Word := 0
  ptBase : Word := 0
  pkeyId : BitVec 6 := 0
  eeqBase : Word := 0
  eeqCount : Word := 0
  tl : SMap Timeline := []
  errQ : SMap (BitVec 256) := []
  eqCount : Word := 0
  entries : SMap Entry := []
  ktag : Bool := false
  atag : Bool := false
  hostAck : BitVec 32 := 0xFFFFFFFF
  results : SMap Word := []
  hdmWin : Word := 0
deriving DecidableEq, Repr

/-- An operation of a peer that its receiving interface has sent on as a requester of its own (R421): its number, the peer's device and request. -/
structure Fwd where
  num : Nat
  device : Nat
  req : Nat
  stamp : Stamp
deriving DecidableEq, Repr

/-- A message that waits at a port: its traffic class, the routing of its flit, its bytes (R447, R453). -/
structure OutMsg where
  cls : Nat
  routing : Nat
  bytes : List Byte
deriving DecidableEq, Repr

/-- A fabric port: whether its link is up, its digest, its interface as an owner and as a requester that forwards (R421, R431, R447, R477).
The sequence number of the next flit and of the last one received, the credit it owes and the credit returned to it (R447). -/
structure Port where
  up : Bool := true
  digest : Word := 0
  owner : Owner := {}
  fwd : List Fwd := []
  egress : List OutMsg := []
  txSeq : BitVec 12 := 0
  rxSeq : BitVec 12 := 0
  owed : BitVec 12 := 0
  credits : BitVec 12 := 0
deriving DecidableEq, Repr

/-- A meeting of a collective on this device: what arrived, and the ranks elsewhere that have confirmed the shard they receive (R457, R461). -/
structure Meeting where
  hash : Word
  timeline : Nat
  nth : Nat
  arrived : List CollMsg
  confirmed : List Nat := []
deriving DecidableEq, Repr

/-- A context that the slow path has moved to its save area (R410): the frame of the area, the partition, the cluster, the free value that stands
in the area's lines for the state below, whether the context ran alone; the slots by number, the core banks by core, the twins of the cores with their messages, the weight blocks by
quad, the poisoned words of the SRAM, the debug halt of the context (R411). The SRAM itself stands in the area. -/
structure Saved where
  frame : Nat
  part : Nat
  cluster : Nat
  mark : Nat
  whole : Bool
  slots : SMap Slot
  banks : SMap CoreBank
  twins : SMap (Option (Nat × Bool) × List TwinMsg)
  weights : SMap Weights
  poison : List Nat
  halted : Bool
deriving DecidableEq, Repr

/-! ## Turns -/

/-- Whose step a step is: a slot (slot key), or an engine of a unit with the place of the job in its input. -/
inductive Cur
  | slot (n : Nat)
  | copy (cluster index : Nat)
  | dispatch (die index : Nat)
  | market (die index : Nat)
  | coll (die index : Nat)
  /-- the head of the matrix queue of a core -/
  | matrix (core : Nat)
deriving DecidableEq, Repr, Inhabited

/-- What happens next. The outside world and the parts of the package whose timing the spec leaves open choose it; a turn that is
not possible in the state changes nothing but the time. -/
inductive Move
  | idle
  /-- one issue cycle of a core; a vector instruction stops after so many groups when a halt or swap arrives (R134) -/
  | issue (core : Nat) (groups : Option Nat)
  /-- one step of a machine event -/
  | event (i : Instr) (arg : Arg)
  /-- one step of the job that an engine runs next -/
  | engine (c : Cur)
  /-- an L1 gives up a line (R206) -/
  | evict (core line : Nat)
  /-- a TLB gives up an entry -/
  | dropTlb (cluster index : Nat)
  /-- the transport loses or repeats a message (R420) -/
  | lose (msg : Nat)
  | dup (msg : Nat)
deriving DecidableEq, Repr, Inhabited

/-- A turn: the clk that pass before it, and the move. -/
structure Turn where
  dt : Nat
  move : Move
deriving DecidableEq, Repr, Inhabited

structure State where
  now : Word
  powered : Bool
  slots : SMap Slot
  requesters : SMap Requester
  coreBanks : SMap CoreBank
  cores : SMap Core
  quads : SMap Quad
  clusters : SMap Cluster
  dies : SMap Die
  partitions : SMap Partition
  fabId : BitVec 16
  ports : SMap Port
  modules : SMap Nat
  /-- the links between neighbour dies, by 8 x the lower die + the higher -/
  dieLinks : SMap Bool
  mem : Mem
  lineMeta : SMap LineMeta
  keyOf : SMap (Nat × Nat)
  keyDraws : SMap Nat
  spad : Mem
  saved : List Saved
  oldCode : SMap (BitVec 32 × Nat)
  net : List Msg
  meets : List Meeting
  /-- the lines of HBM that the host has read through CXL.mem and may still hold (R444) -/
  hostHeld : List Nat
  attNonce : BitVec 256
  attReport : List Byte
  order : Nat
  cur : Cur
  arg : Arg
  groups : Option Nat
  agenda : List Turn
  free : Nat
deriving DecidableEq, Repr

/-- Why the machine stops. -/
inductive Fault
  /-- The package removed its power at a junction trip (R489) and the step is no cold reset. Raised by `step`. Safe: without
  power the device runs nothing. -/
  | poweredOff
deriving DecidableEq, Repr

/-- Why the model gives no next state. -/
inductive Refusal
  /-- The instruction has no meaning in the model yet. Raised by an arm of `exec`. Safe: it only leaves behaviour out. -/
  | notModelled (mnemonic : String)
deriving DecidableEq, Repr

/-- The machine right after cold reset (R483, R220 and the Reset columns). The package is idle: no partition owns a cluster, no key
is held, no firmware has run. -/
def State.reset : State where
  now := 0
  powered := true
  slots := []
  requesters := []
  coreBanks := []
  cores := []
  quads := []
  clusters := []
  dies := []
  partitions := []
  fabId := 0
  ports := []
  modules := []
  dieLinks := []
  mem := {}
  lineMeta := []
  keyOf := []
  keyDraws := []
  spad := {}
  saved := []
  oldCode := []
  net := []
  meets := []
  hostHeld := []
  attNonce := 0
  attReport := List.replicate 912 0
  order := 0
  cur := .slot 0
  arg := {}
  groups := none
  agenda := []
  free := 0

end Sys2Proof.Machine
end

