-- ==== Sys2Proof/Machine/Flags.lean ====
section
/-!
DEFINITION. Exact numbers, the number formats and their rounding, and every flag computation of FSTAT (R38, R83 to R90, R94 to
R112). A finite number is kept exactly as sign, m and e with value m x 2^e; `more` marks a value strictly between m and m + 1 units
(quotients, roots and special functions, which keep far more bits than any destination).
-/
namespace Sys2Proof.Machine

/-! ## Flags (R38) -/

abbrev Flags := BitVec 6
def NV : Flags := 1
def DZ : Flags := 2
def OF : Flags := 4
def UF : Flags := 8
def NX : Flags := 16
def SA : Flags := 32

/-! ## Exact numbers -/

inductive Num
  | fin (neg : Bool) (m : Nat) (e : Int) (more : Bool)
  | inf (neg : Bool)
  | nan (signal : Bool)
deriving DecidableEq, Repr

def Num.zero (neg : Bool) : Num := .fin neg 0 0 false
def Num.ofInt (i : Int) : Num := .fin (i < 0) i.natAbs 0 false

def Num.isNan : Num → Bool
  | .nan _ => true
  | _ => false
def Num.isSignal : Num → Bool
  | .nan s => s
  | _ => false
def Num.isInf : Num → Bool
  | .inf _ => true
  | _ => false
def Num.isZero : Num → Bool
  | .fin _ m _ _ => m = 0
  | _ => false
def Num.neg : Num → Bool
  | .fin n _ _ _ => n
  | .inf n => n
  | .nan _ => false
def Num.setNeg (x : Num) (n : Bool) : Num :=
  match x with
  | .fin _ m e k => .fin n m e k
  | .inf _ => .inf n
  | .nan s => .nan s
def Num.negate (x : Num) : Num := x.setNeg (!x.neg)
/-- The value times 2^k. -/
def Num.scale (x : Num) (k : Int) : Num :=
  match x with
  | .fin n m e t => .fin n m (e + k) t
  | y => y

/-- m shifted so that its unit is 2^e, for e at most its own exponent. -/
def alignNat (m : Nat) (e dest : Int) : Nat := m <<< (e - dest).toNat

/-- The signed integer of a finite number in units of 2^e. -/
def signedAt (n : Bool) (m : Nat) (e dest : Int) : Int := if n then -(alignNat m e dest : Int) else (alignNat m e dest : Int)

/-- floor(log2 |x|) of a finite non-zero number. -/
def Num.exponent : Num → Int
  | .fin _ m e _ => e + (Nat.log2 m : Int)
  | _ => 0

/-- Three-way comparison of two numbers that are no NaN: -1, 0 or 1; -0 equals +0. -/
def Num.cmp (x y : Num) : Int :=
  match x, y with
  | .inf a, .inf b => if a = b then 0 else if a then -1 else 1
  | .inf a, _ => if a then -1 else 1
  | _, .inf b => if b then 1 else -1
  | .fin a m e _, .fin b n f _ =>
    let t := min e f
    let u := signedAt a m e t
    let v := signedAt b n f t
    if u < v then -1 else if u = v then 0 else 1
  | _, _ => 0

/-! ## Exact arithmetic (R85) -/

/-- The sum; a zero sum of opposite signs is +0 in every mode but RMI (mode 2). Answers the number and the flags. -/
def numAdd (mode : Nat) (x y : Num) : Num × Flags :=
  if x.isNan || y.isNan then (.nan false, if x.isSignal || y.isSignal then NV else 0)
  else match x, y with
  | .inf a, .inf b => if a = b then (.inf a, 0) else (.nan false, NV)
  | .inf a, _ => (.inf a, 0)
  | _, .inf b => (.inf b, 0)
  | .fin a m e _, .fin b n f _ =>
    let t := min e f
    let v := signedAt a m e t + signedAt b n f t
    if v = 0 then (.zero (if a = b then a else mode = 2), 0) else (.fin (v < 0) v.natAbs t false, 0)
  | _, _ => (.nan false, 0)

def numMul (x y : Num) : Num × Flags :=
  if x.isNan || y.isNan then (.nan false, if x.isSignal || y.isSignal then NV else 0)
  else
    let s := x.neg != y.neg
    match x, y with
    | .fin _ m e _, .fin _ n f _ => (.fin s (m * n) (e + f) false, 0)
    | a, b => if a.isZero || b.isZero then (.nan false, NV) else (.inf s, 0)

/-- x times y plus z, one exact value; 0 times infinity is invalid whatever the addend. -/
def numFma (mode : Nat) (x y z : Num) : Num × Flags :=
  let p := numMul x y
  let r := numAdd mode p.1 z
  (r.1, p.2 ||| r.2)

/-- m1 / m2 with at least 110 bits. -/
def numDiv (x y : Num) : Num × Flags :=
  if x.isNan || y.isNan then (.nan false, if x.isSignal || y.isSignal then NV else 0)
  else
    let s := x.neg != y.neg
    match x, y with
    | .inf _, .inf _ => (.nan false, NV)
    | .inf _, _ => (.inf s, 0)
    | _, .inf _ => (.zero s, 0)
    | .fin _ m e _, .fin _ n f _ =>
      if n = 0 then (if m = 0 then (.nan false, NV) else (.inf s, DZ))
      else
        let k := 110 + Nat.log2 n
        let q := (m <<< k) / n
        (.fin s q (e - f - k) (q * n ≠ m <<< k), 0)
    | _, _ => (.nan false, 0)

/-- The integer square root, one bit of the result per unit of fuel. -/
def isqrtGo (n : Nat) (fuel r : Nat) : Nat :=
  match fuel with
  | 0 => r
  | k + 1 =>
    let t := r + 2 ^ k
    isqrtGo n k (if t * t ≤ n then t else r)

def isqrt (n : Nat) : Nat := isqrtGo n (Nat.log2 n / 2 + 1) 0

/-- The square root of a positive m x 2^e, with at least 100 bits. -/
def rootOf (m : Nat) (e : Int) : Num :=
  let k : Int := 220 + (if (e % 2) = 0 then 0 else 1)
  let v := m <<< k.toNat
  let r := isqrt v
  .fin false r ((e - k) / 2) (r * r ≠ v)

def numSqrt (x : Num) : Num × Flags :=
  match x with
  | .nan s => (.nan false, if s then NV else 0)
  | .inf n => if n then (.nan false, NV) else (.inf false, 0)
  | .fin n m e _ => if m = 0 then (.zero n, 0) else if n then (.nan false, NV) else (rootOf m e, 0)

/-! ## Formats (R94) -/

/-- A floating format: exponent and fraction bits, bias, whether it has infinities (all ones), how its NaNs look
(0 none, 1 as IEEE, 2 only the all-ones codes), its largest finite magnitude and its default NaN. -/
structure Fmt where
  eb : Nat
  fb : Nat
  bias : Int
  hasInf : Bool
  nans : Nat
  maxCode : Nat
  dnan : Nat
deriving DecidableEq, Repr

def fmtFP32 : Fmt := ⟨8, 23, 127, true, 1, 0x7F7FFFFF, 0x7FC00000⟩
def fmtBF16 : Fmt := ⟨8, 7, 127, true, 1, 0x7F7F, 0x7FC0⟩
def fmtFP16 : Fmt := ⟨5, 10, 15, true, 1, 0x7BFF, 0x7E00⟩
def fmtE4M3 : Fmt := ⟨4, 3, 7, false, 2, 0x7E, 0x7F⟩
def fmtE5M2 : Fmt := ⟨5, 2, 15, true, 1, 0x7B, 0x7E⟩
def fmtE3M2 : Fmt := ⟨3, 2, 3, false, 0, 0x1F, 0⟩
def fmtE2M3 : Fmt := ⟨2, 3, 1, false, 0, 0x1F, 0⟩
def fmtE2M1 : Fmt := ⟨2, 1, 1, false, 0, 0x7, 0⟩

def Fmt.bits (f : Fmt) : Nat := 1 + f.eb + f.fb
def Fmt.emin (f : Fmt) : Int := 1 - f.bias

/-- R95: the value of a code. -/
def decodeF (f : Fmt) (code : Nat) : Num :=
  let c := code % 2 ^ f.bits
  let s : Bool := 2 ^ (f.eb + f.fb) ≤ c
  let mag := c % 2 ^ (f.eb + f.fb)
  let e := mag / 2 ^ f.fb
  let fr := mag % 2 ^ f.fb
  let top := 2 ^ f.eb - 1
  if f.nans = 1 && e = top then
    (if fr = 0 then .inf s else .nan (fr < 2 ^ (f.fb - 1)))
  else if f.nans = 2 && mag = 2 ^ (f.eb + f.fb) - 1 then .nan false
  else if e = 0 then .fin s fr (f.emin - f.fb) false
  else .fin s (2 ^ f.fb + fr) ((e : Int) - f.bias - f.fb) false

/-- The weight exponent of the least significant bit of a code's format at its value. -/
def lsbOf (f : Fmt) (code : Nat) : Int :=
  let e := code % 2 ^ (f.eb + f.fb) / 2 ^ f.fb
  (if e = 0 then f.emin else (e : Int) - f.bias) - f.fb

def signBit (f : Fmt) (s : Bool) : Nat := if s then 2 ^ (f.eb + f.fb) else 0

/-! ## Rounding (R105, R106) -/

/-- How a rounding is made: the code of R39, saturation, the generator state after its step (SR), and the weight exponent of the
source format's least significant bit; none for the result of arithmetic. -/
structure Rnd where
  mode : Nat := 0
  sat : Bool := false
  rnd : BitVec 32 := 0
  lsb : Option Int := none
deriving DecidableEq, Repr

/-- The discarded bits that SR looks at: at most 32 (R105). -/
def Rnd.width (r : Rnd) (u : Int) : Nat :=
  match r.lsb with
  | none => 32
  | some l => min 32 (u - l).toNat

/-- |x| = m x 2^e as a multiple k of 2^u, rounded by the mode; answers k and whether it is inexact. -/
def roundMag (r : Rnd) (neg : Bool) (m : Nat) (e : Int) (more : Bool) (u : Int) : Nat × Bool :=
  if u ≤ e then (m <<< (e - u).toNat, more)
  else
    let sh := (u - e).toNat
    let q := m >>> sh
    let rem := m - (q <<< sh)
    let half := 1 <<< (sh - 1)
    let inexact : Bool := rem ≠ 0 || more
    let up : Bool := match r.mode with
      | 0 => half < rem || (rem = half && (more || q % 2 = 1))
      | 4 => half ≤ rem
      | 1 => false
      | 2 => neg && inexact
      | 3 => !neg && inexact
      | _ =>
        let w := r.width u
        let v := r.rnd.toNat >>> (32 - w)
        (1 <<< (sh + w)) ≤ (rem <<< w) + (v <<< sh)
    (if up then q + 1 else q, inexact)

/-- R106: whether the rounding goes toward the finite side. -/
def towardFinite (mode : Nat) (neg : Bool) : Bool := mode = 1 || (mode = 2 && !neg) || (mode = 3 && neg)

/-- An overflow: the code and the flags (R106). A format without infinity and NaN holds only its largest finite value there, which is
a saturation in every mode (log 9). -/
def overflowF (f : Fmt) (r : Rnd) (neg : Bool) : Nat × Flags :=
  let s := signBit f neg
  if r.sat || f.nans = 0 then (s + f.maxCode, SA ||| NX)
  else if towardFinite r.mode neg then (s + f.maxCode, OF ||| NX)
  else if f.hasInf then (s + (f.maxCode + 1), OF ||| NX)
  else (f.dnan, OF ||| NX)

/-- round_to of R105 for a finite number and a floating format: the code and the flags. -/
def roundFin (f : Fmt) (r : Rnd) (neg : Bool) (m : Nat) (e : Int) (more : Bool) : Nat × Flags :=
  if m = 0 && !more then (signBit f neg, 0)
  else
    let ex := max (e + (Nat.log2 m : Int)) f.emin
    let u := ex - f.fb
    let (k, inexact) := roundMag r neg m e more u
    let top := decodeF f f.maxCode
    let above : Bool := Num.cmp (.fin false k u false) top = 1
    if above then overflowF f r neg
    else
      let tiny : Bool := k < 2 ^ f.fb
      let code :=
        if k < 2 ^ f.fb then k
        else if k = 2 ^ (f.fb + 1) then (ex + f.bias + 1).toNat * 2 ^ f.fb
        else (ex + f.bias).toNat * 2 ^ f.fb + (k - 2 ^ f.fb)
      (signBit f neg + code, (if inexact then NX else 0) ||| (if inexact && tiny then UF else 0))

/-- A number into a floating format (R105 to R107). An infinity that the format does not hold is an overflow away, except under
saturation; a NaN gives the default NaN. -/
def roundF (f : Fmt) (r : Rnd) (x : Num) : Nat × Flags :=
  match x with
  | .nan s => (f.dnan, if s then NV else 0)
  | .inf n =>
    if f.hasInf then (signBit f n + (f.maxCode + 1), 0)
    else overflowF f { r with mode := 0 } n
  | .fin n m e t => roundFin f r n m e t

/-- round_fp32 under RNE (R105): the pattern and the flags. -/
def fp32 (x : Num) : Nat × Flags := roundF fmtFP32 {} x
def of32 (c : Nat) : Num := decodeF fmtFP32 c

/-- The value of a rounded code as a number again. -/
def rne (x : Num) : Num := of32 (fp32 x).1

/-! ## Integer destinations (R89, R93) -/

/-- Width and signedness of the integer codes 0x01 to 0x07 (R92). -/
def intBits (t : Nat) : Nat := match t with
  | 1 => 8 | 2 => 8 | 3 => 16 | 4 => 16 | 5 => 32 | 6 => 32 | _ => 64
def intSigned (t : Nat) : Bool := t % 2 = 1
def intMin (t : Nat) : Int := if intSigned t then -(2 ^ (intBits t - 1) : Nat) else 0
def intMax (t : Nat) : Int := if intSigned t then (2 ^ (intBits t - 1) : Nat) - 1 else (2 ^ intBits t : Nat) - 1
/-- The integer that the low bits of a value hold. -/
def intOf (t v : Nat) : Int :=
  let w := intBits t
  let u := v % 2 ^ w
  if intSigned t && 2 ^ (w - 1) ≤ u then (u : Int) - (2 ^ w : Nat) else (u : Int)
/-- The low bits of an integer, modulo 2^w. -/
def intCode (t : Nat) (i : Int) : Nat := (i % (2 ^ intBits t : Nat)).toNat

/-- A floating number rounded to an integer type: the nearest bound with NV outside the range, NaN gives 0 with NV (R89). -/
def roundInt (t : Nat) (r : Rnd) (x : Num) : Int × Flags :=
  match x with
  | .nan _ => (0, NV)
  | .inf n => (if n then intMin t else intMax t, NV)
  | .fin n m e more =>
    let (k, inexact) := roundMag r n m e more 0
    let v : Int := if n then -(k : Int) else k
    if v < intMin t then (intMin t, NV) else if intMax t < v then (intMax t, NV) else (v, if inexact then NX else 0)

/-- An integer into an integer type: the nearest bound with SA (R93). -/
def clampInt (t : Nat) (i : Int) : Int × Flags :=
  if i < intMin t then (intMin t, SA) else if intMax t < i then (intMax t, SA) else (i, 0)

/-! ## Minimum and maximum (R87, R111) -/

/-- minimum (`mx` false) or maximum of two codes' values: which operand, or a NaN; and NV for a signalling NaN. `num` selects the
Number forms. 0 the first, 1 the second, 2 the default NaN. -/
def minmaxPick (mx num : Bool) (x y : Num) : Nat × Flags :=
  let fl : Flags := if x.isSignal || y.isSignal then NV else 0
  if x.isNan && y.isNan then (2, fl)
  else if x.isNan then (if num then 1 else 2, fl)
  else if y.isNan then (if num then 0 else 2, fl)
  else
    let c := x.cmp y
    if c = 0 then
      -- equal values: −0 lies below +0
      (if mx then (if x.neg && !y.neg then 1 else 0) else (if y.neg && !x.neg then 1 else 0), fl)
    else if mx then (if c = 1 then 0 else 1, fl) else (if c = -1 then 0 else 1, fl)

def minmax32 (mx num : Bool) (a b : Nat) : Nat × Flags :=
  let p := minmaxPick mx num (of32 a) (of32 b)
  (if p.1 = 0 then a % 2 ^ 32 else if p.1 = 1 then b % 2 ^ 32 else 0x7FC00000, p.2)

/-- Minimum or maximum of two exact numbers. -/
def minmaxNum (mx num : Bool) (x y : Num) : Num × Flags :=
  let p := minmaxPick mx num x y
  (if p.1 = 0 then x else if p.1 = 1 then y else .nan false, p.2)

/-! ## Comparison (R79) -/

/-- The eight conditions of R79 and their NV. -/
def fcmp (cond : Nat) (x y : Num) : Bool × Flags :=
  let un := x.isNan || y.isNan
  let c := x.cmp y
  let r : Bool := match cond with
    | 0 => !un && c = 0
    | 1 => un || c ≠ 0
    | 2 => !un && c = -1
    | 3 => !un && c ≠ 1
    | 4 => !un && c = 1
    | 5 => !un && c ≠ -1
    | 6 => un
    | _ => !un
  let signalling : Bool := 2 ≤ cond && cond ≤ 5
  (r, if x.isSignal || y.isSignal || (signalling && un) then NV else 0)

/-- The relations of R78 on two unsigned w-bit values. -/
def icmp (cond w a b : Nat) : Bool :=
  let m := 2 ^ w
  let a := a % m
  let b := b % m
  let sg (x : Nat) : Int := if m ≤ 2 * x then (x : Int) - (m : Int) else (x : Int)
  match cond with
  | 0 => a = b
  | 1 => a ≠ b
  | 2 => sg a < sg b
  | 3 => sg b ≤ sg a
  | 4 => a < b
  | 5 => b ≤ a
  | 6 => sg a ≤ sg b
  | 7 => sg b < sg a
  | 8 => a ≤ b
  | 9 => b < a
  | 10 => a &&& b ≠ 0
  | _ => a &&& b = 0

/-! ## Special functions (R112) -/

/-- Bits of the fixed-point values below. -/
def fixP : Nat := 256

/-- 2 atanh(n / d) x 2^fixP by its series, `fuel` terms. -/
def atanhGo (z2n z2d : Nat) (fuel term k acc : Nat) : Nat :=
  match fuel with
  | 0 => acc
  | f + 1 => atanhGo z2n z2d f (term * z2n / z2d) (k + 2) (acc + term / k)

def atanh2 (n d : Nat) : Nat := 2 * atanhGo (n * n) (d * d) 180 ((n <<< fixP) / d) 1 0

/-- ln 2 x 2^fixP. -/
def ln2Fix : Nat := atanh2 1 3

/-- exp(r) x 2^fixP for r = v x 2^-fixP in [0, 1), by its series. -/
def expGo (v : Nat) (fuel k term acc : Nat) : Nat :=
  match fuel with
  | 0 => acc
  | f + 1 => let t := ((term * v) >>> fixP) / k; expGo v f (k + 1) t (acc + t)

def expFix (v : Nat) : Nat := expGo v 80 1 (1 <<< fixP) (1 <<< fixP)

/-- floor(x x 2^fixP) of a finite number. -/
def toFix (n : Bool) (m : Nat) (e : Int) : Int :=
  let s := e + fixP
  let v : Nat := if 0 ≤ s then m <<< s.toNat else m >>> (-s).toNat
  let lost : Bool := s < 0 && (m >>> (-s).toNat) <<< (-s).toNat ≠ m
  if n then -((if lost then v + 1 else v : Nat) : Int) else v

/-- 2^(f x 2^-fixP) for a fixed-point exponent. -/
def exp2Fix (f : Int) : Num :=
  let one : Int := (2 ^ fixP : Nat)
  let n := f / one
  let r := (f % one).toNat
  .fin false (expFix ((r * ln2Fix) >>> fixP)) (n - fixP) true

/-- e^(f x 2^-fixP). -/
def expOfFix (f : Int) : Num :=
  let n := f / (ln2Fix : Int)
  let r := (f % (ln2Fix : Int)).toNat
  .fin false (expFix r) (n - fixP) true

/-- A positive value too small or too large for any FP32 rounding to tell it from 0 or from infinity. -/
def tinyNum : Num := .fin false 1 (-400) true
def hugeNum : Num := .fin false 1 400 true

def numExp2 (x : Num) : Num × Flags :=
  match x with
  | .nan s => (.nan false, if s then NV else 0)
  | .inf n => (if n then .zero false else .inf false, 0)
  | .fin n m e _ =>
    if m = 0 then (.fin false 1 0 false, 0)
    else if 10 ≤ e + (Nat.log2 m : Int) then (if n then tinyNum else hugeNum, 0)
    else if 0 ≤ e || (m >>> (-e).toNat) <<< (-e).toNat = m then
      let i : Int := if 0 ≤ e then (m <<< e.toNat : Nat) else (m >>> (-e).toNat : Nat)
      (.fin false 1 (if n then -i else i) false, 0)
    else (exp2Fix (toFix n m e), 0)

def numExp (x : Num) : Num × Flags :=
  match x with
  | .nan s => (.nan false, if s then NV else 0)
  | .inf n => (if n then .zero false else .inf false, 0)
  | .fin n m e _ =>
    if m = 0 then (.fin false 1 0 false, 0)
    else if 10 ≤ e + (Nat.log2 m : Int) then (if n then tinyNum else hugeNum, 0)
    else (expOfFix (toFix n m e), 0)

/-- ln(x) x 2^fixP of a positive number: x = t x 2^k with t in [3/4, 3/2). -/
def lnFix (m : Nat) (e : Int) : Int :=
  let l := Nat.log2 m
  -- m / 2^l in [1, 2)
  let high : Bool := 3 * 2 ^ l ≤ 2 * m
  let k : Int := e + l + (if high then 1 else 0)
  let d := if high then 2 ^ (l + 1) else 2 ^ l
  let ln : Int := if d ≤ m then (atanh2 (m - d) (m + d) : Int) else -(atanh2 (d - m) (m + d) : Int)
  k * ln2Fix + ln

/-- The special cases that VLOG2 and VLOG share. -/
def numLogWith (f : Nat → Int → Num) (x : Num) : Num × Flags :=
  match x with
  | .nan s => (.nan false, if s then NV else 0)
  | .inf n => if n then (.nan false, NV) else (.inf false, 0)
  | .fin n m e _ => if m = 0 then (.inf true, DZ) else if n then (.nan false, NV) else (f m e, 0)

def fixNum (v : Int) (d : Nat) : Num :=
  -- v / d x 2^-…, kept with extra bits
  let q := (v.natAbs <<< 200) / d
  .fin (v < 0) q (-200) true

def numLog2 (x : Num) : Num × Flags :=
  numLogWith (fun m e => if m = 2 ^ Nat.log2 m then Num.ofInt (e + Nat.log2 m) else fixNum (lnFix m e) ln2Fix) x

def numLog (x : Num) : Num × Flags :=
  numLogWith (fun m e =>
    if m = 2 ^ Nat.log2 m && e + (Nat.log2 m : Int) = 0 then .zero false
    else .fin (lnFix m e < 0) (lnFix m e).natAbs (-(fixP : Int)) true) x

def numRsqrt (x : Num) : Num × Flags :=
  match x with
  | .nan s => (.nan false, if s then NV else 0)
  | .inf n => if n then (.nan false, NV) else (.zero false, 0)
  | .fin n m e _ =>
    if m = 0 then (.inf n, DZ) else if n then (.nan false, NV)
    else
      -- 1 / sqrt(m 2^e) = sqrt(2^(2k) / m) 2^(-k - e/2), e made even
      let odd : Bool := e % 2 ≠ 0
      let m' := if odd then 2 * m else m
      let e' := if odd then e - 1 else e
      let k := 120 + Nat.log2 m'
      let v := (1 <<< (2 * k)) / m'
      let r := isqrt v
      (.fin false r (-(k : Int) - e' / 2) (r * r * m' ≠ 1 <<< (2 * k)), 0)

/-- One unit below a non-zero value: for functions that lie just under their argument. -/
def justBelow (n : Bool) (m : Nat) (e : Int) : Num := .fin n ((m <<< 100) - 1) (e - 100) true

def numTanh (x : Num) : Num × Flags :=
  match x with
  | .nan s => (.nan false, if s then NV else 0)
  | .inf n => (.fin n 1 0 false, 0)
  | .fin n m e _ =>
    if m = 0 then (.zero n, 0)
    else
      let ex := e + (Nat.log2 m : Int)
      if ex < -60 then (justBelow n m e, 0)
      else if 7 ≤ ex then (justBelow n 1 0, 0)
      else
        let E := expOfFix (toFix false (2 * m) e)
        match E with
        | .fin _ em ee _ =>
          -- (E − 1) / (E + 1) with E = em 2^ee, ee < 0
          let one := 1 <<< (-ee).toNat
          (.fin n (((em - one) <<< 200) / (em + one)) (-200) true, 0)
        | y => (y, 0)

def numSigm (x : Num) : Num × Flags :=
  match x with
  | .nan s => (.nan false, if s then NV else 0)
  | .inf n => (if n then .zero false else .fin false 1 0 false, 0)
  | .fin n m e _ =>
    if m = 0 then (.fin false 1 (-1) false, 0)
    else
      let ex := e + (Nat.log2 m : Int)
      if 9 ≤ ex then (if n then tinyNum else justBelow false 1 0, 0)
      else
        -- with E = e^-|x|: 1 / (1 + E) or E / (1 + E)
        match expOfFix (toFix true m e) with
        | .fin _ em ee _ =>
          let one := 1 <<< (-ee).toNat
          let num := if n then em else one
          (.fin false ((num <<< 400) / (one + em)) (-400) true, 0)
        | y => (y, 0)

end Sys2Proof.Machine
end

