-- ==== Sys2Proof/Machine/Blocks.lean ====
section
/-!
DEFINITION. Element types and blocks: decoding of every type code of R92, BL6 (R99 to R101), MX blocks (R102 to R104) and the
conversion of one element (R107 to R109).
-/
namespace Sys2Proof.Machine

/-! ## Type codes -/

def isInt (t : Nat) : Bool := 1 ≤ t && t ≤ 7
def isFloat (t : Nat) : Bool := 0x10 ≤ t && t ≤ 0x14
def isBlock (t : Nat) : Bool := 0x20 ≤ t && t ≤ 0x26
def isType (t : Nat) : Bool := isInt t || isFloat t || isBlock t || t = 0x30
def tBL6 : Nat := 0x26
def tMXINT8 : Nat := 0x25
def tSCALE8 : Nat := 0x30
def tFP32 : Nat := 0x10

/-- Bits of one element (R92). -/
def elemBits (t : Nat) : Nat := match t with
  | 1 => 8 | 2 => 8 | 3 => 16 | 4 => 16 | 5 => 32 | 6 => 32 | 7 => 64
  | 0x10 => 32 | 0x11 => 16 | 0x12 => 16 | 0x13 => 8 | 0x14 => 8
  | 0x22 => 6 | 0x23 => 6 | 0x24 => 4 | 0x26 => 6 | _ => 8

/-- Bytes of one element of a whole-byte type. -/
def elemBytes (t : Nat) : Nat := elemBits t / 8
/-- Bytes of a block of 32 elements (R102). -/
def blockBytes (t : Nat) : Nat := elemBits t * 4

/-- The floating format of a type code, or of the elements of an MX type. -/
def fmtOf (t : Nat) : Fmt := match t with
  | 0x10 => fmtFP32 | 0x11 => fmtBF16 | 0x12 => fmtFP16 | 0x13 => fmtE4M3 | 0x14 => fmtE5M2
  | 0x20 => fmtE4M3 | 0x21 => fmtE5M2 | 0x22 => fmtE3M2 | 0x23 => fmtE2M3 | _ => fmtE2M1

/-- emax of R104. -/
def emaxOf (t : Nat) : Int := match t with
  | 0x20 => 8 | 0x21 => 15 | 0x22 => 4 | 0x25 => 0 | _ => 2

/-! ## BL6 -/

/-- BLT of R99 as FP32 patterns. -/
def bltCode (f : Nat) : Nat := match f with
  | 0 => 0x3F800000 | 1 => 0x3F9837F0 | 2 => 0x3FB504F3 | _ => 0x3FD744FD
def blt (f : Nat) : Num := of32 (bltCode f)
/-- The thresholds H0 to H3 of R101. -/
def bl6H (f : Nat) : Num := of32 (match f with
  | 0 => 0x3F8C1BF8 | 1 => 0x3FA69E72 | 2 => 0x3FC624F8 | _ => 0x3FEBA27F)

/-- R99: the value of a code. -/
def bl6Decode (c : Nat) : Num :=
  let s : Bool := c / 32 % 2 = 1
  let l := c % 32
  if l = 0 then .zero s
  else
    let t : Int := (l : Int) - 20
    ((blt (t % 4).toNat).scale (t / 4)).setNeg s

/-- R100: the product of two codes. -/
def bl6Product (x y : Nat) : Num :=
  let lx := x % 32
  let ly := y % 32
  if lx = 0 || ly = 0 then .zero false
  else
    let t : Int := (lx : Int) - 20 + ((ly : Int) - 20)
    ((blt (t % 4).toNat).scale (t / 4)).setNeg ((x / 32 % 2 = 1) != (y / 32 % 2 = 1))

/-- bl6_encode of R101; `near` for RNE and RNA, else toward zero. -/
def bl6Encode (near : Bool) (x : Num) : Nat × Flags :=
  let s := if x.neg then 32 else 0
  if x.isZero then (s, 0)
  else
    let a := x.setNeg false
    let q := a.exponent
    let m := a.scale (-q)
    let ge (t : Num) : Bool := m.cmp t ≠ -1
    let (q, f) : Int × Int :=
      if near then
        if ge (bl6H 3) then (q + 1, 0)
        else (q, if ge (bl6H 2) then 3 else if ge (bl6H 1) then 2 else if ge (bl6H 0) then 1 else 0)
      else (q, if ge (blt 3) then 3 else if ge (blt 2) then 2 else if ge (blt 1) then 1 else 0)
    let l := 4 * q + f + 20
    let (l, sat) : Int × Flags := if 31 < l then (31, SA) else (l, 0)
    let l : Int := if l < 1 then (if near && a.cmp ((blt 1).scale (-6)) ≠ -1 then 1 else 0) else l
    let c := s + l.toNat
    let fl : Flags := if l = 0 then UF ||| NX else if a.cmp (bl6Decode l.toNat) ≠ 0 then NX else 0
    (c, fl ||| sat)

/-! ## One element -/

/-- The value of an element code without its block scale (R95, R98, R99); a SCALE8 byte stands for 2^(S − 127) (R103). -/
def decodeElem (t code : Nat) : Num :=
  if isInt t then .ofInt (intOf t code)
  else if t = tBL6 then bl6Decode code
  else if t = tMXINT8 then (Num.ofInt (intOf 1 code)).scale (-6)
  else if t = tSCALE8 then (if code % 256 = 255 then .nan false else .fin false 1 ((code % 256 : Nat) - 127) false)
  else decodeF (fmtOf t) code

/-- The weight exponent of the least significant bit of the source format at a code (R105). A log code has no such bit: that of BL6 is the last bit of
the FP32 pattern of its value, that of SCALE8 the value's own power of two (a DESIGN CHOICE, log 61). -/
def elemLsb (t code : Nat) : Int :=
  if isInt t then 0
  else if t = tBL6 then (if code % 32 = 0 then 0 else ((code % 32 : Nat) - 20 : Int) / 4 - 23)
  else if t = tMXINT8 then -6
  else if t = tSCALE8 then (code % 256 : Nat) - 127
  else lsbOf (fmtOf t) code

/-- An element of a block under its scale byte (R103). -/
def decodeScaled (t code scale : Nat) : Num :=
  if scale = 255 then .nan false else (decodeElem t code).scale ((scale : Int) - 127)

/-- A value into SCALE8 (R109). -/
def toScale8 (x : Num) : Nat × Flags :=
  match x with
  | .nan s => (255, if s then NV else 0)
  | .inf _ => (255, 0)
  | .fin _ m e t =>
    if m = 0 && !t then (0, 0)
    else
      let v := x.exponent + 127
      let c : Nat := if v < 0 then 0 else if 254 < v then 254 else v.toNat
      (c, if (Num.fin false m e t).cmp (.fin false 1 ((c : Int) - 127) false) = 0 then 0 else NX)

/-- A value into a type of whole elements, blocks apart: integers, floating types, SCALE8 (R93, R105 to R109). `int` says that the
source is an integer. -/
def convertElem (t : Nat) (r : Rnd) (int : Bool) (x : Num) : Nat × Flags :=
  if isInt t then
    (if int then
      match x with
      | .fin n m _ _ => let p := clampInt t (if n then -(m : Int) else m); (intCode t p.1, p.2)
      | _ => (0, NV)
    else let p := roundInt t r x; (intCode t p.1, p.2))
  else if t = tSCALE8 then toScale8 x
  else roundF (fmtOf t) r x

/-! ## Blocks (R104) -/

/-- One element of an MX block: the scaled value into its element type. -/
def blockElem (t : Nat) (r : Rnd) (y : Num) : Nat × Flags :=
  if t = tBL6 then bl6Encode (r.mode = 0 || r.mode = 4) y
  else if t = tMXINT8 then
    match y with
    | .fin n m e more =>
      let (k, inexact) := roundMag { r with lsb := r.lsb.map (· + 6) } n m (e + 6) more 0
      if 127 < k then (if n then 0x81 else 127, SA ||| NX)
      else (intCode 1 (if n then -(k : Int) else k), (if inexact then NX else 0) ||| (if inexact && k = 0 then UF else 0))
    | _ => (0, 0)
  else roundF (fmtOf t) r y

/-- quantise_block: the scale byte, the element codes and the flags. Each value comes with its rounding. -/
def quantiseBlock (t : Nat) (xs : List (Num × Rnd)) : Nat × List Nat × Flags :=
  if xs.any (fun p => p.1.isNan || p.1.isInf) then
    (255, xs.map fun _ => 0, if xs.any (fun p => p.1.isSignal) then NV else 0)
  else
    let nz := xs.filter fun p => !p.1.isZero
    match nz.map fun p => p.1.exponent with
    | [] => (0, xs.map fun _ => 0, 0)
    | h :: rest =>
      let top := rest.foldl max h
      let X : Int := max (-127) (min 127 (top - emaxOf t))
      let rs := xs.map fun p => blockElem t { p.2 with lsb := p.2.lsb.map (· - X) } (p.1.scale (-X))
      ((X + 127).toNat, rs.map Prod.fst, rs.foldl (fun a p => a ||| p.2) 0)

/-- The bytes of a block from its 32 codes: code `i` in bits [w i + w − 1 : w i] (R102). -/
def packBlock (t : Nat) (codes : List Nat) : List Byte :=
  let w := elemBits t
  leBytes' (blockBytes t) (codes.foldr (fun c acc => acc * 2 ^ w + c % 2 ^ w) 0)
where
  /-- lowest byte first -/
  leBytes' (n v : Nat) : List Byte :=
    match n with
    | 0 => []
    | k + 1 => BitVec.ofNat 8 v :: leBytes' k (v / 256)

/-- Code `i` of a block held as a number. -/
def blockCode (t v i : Nat) : Nat := v / 2 ^ (elemBits t * i) % 2 ^ elemBits t

end Sys2Proof.Machine
end

