-- ==== Sys2Proof/Decode.lean ====
section
/-!
DEFINITION. Decoding (R43 to R54): what each opcode accepts in its fields, the decoder of instruction words, the decoder of
command records (R284), and the encoder written from the same tables.
-/
namespace Sys2Proof

/-- What a register field of word 0 stands for. -/
inductive Role
  /-- must be zero (R22, R52) -/
  | none
  /-- a source register; a queue is popped (R25) -/
  | src
  /-- a destination register; a queue is pushed (R25) -/
  | dst
  /-- read and written: a queue raises ILLEGAL_REGISTER (R67) -/
  | rw
  /-- a register that may not be a queue (R127, R255) -/
  | reg
  /-- a register group of four (R23) -/
  | group
  /-- two consecutive registers, no queue (R139) -/
  | pair
  /-- two consecutive registers from an even number, no queue (R188) -/
  | evenPair
  /-- a predicate in bits [2:0], bits [4:3] zero -/
  | pred
  /-- a tile in bits [1:0], bits [4:2] zero (R301) -/
  | tile
  /-- a shape register in bits [3:0], bit 4 zero (R150) -/
  | shape
deriving DecidableEq, Repr

/-- What the literal of an L form stands for (R50). -/
inductive Lit
  | none
  | b
  | imm
deriving DecidableEq, Repr

/-- What an entry accepts: the roles of d, a and b, the register that ext names (VSEL), whether ext, sub-operation and imm16
are among the listed values, whether a type code is accepted, and the literal form. -/
structure Spec where
  d : Role
  a : Role
  b : Role
  e : Bool := false
  field : Bool
  typ : Option Bool := Option.none
  lit : Lit := .none
deriving DecidableEq, Repr

/-- R83: the rounding code is a code when EX = 1 and zero when EX = 0. -/
def roundExtOk (ext : BitVec 5) : Bool :=
  if ext.getLsbD 3 then (ext.setWidth 3).toNat < 6 else ext.setWidth 3 = (0 : BitVec 3)

/-- The type codes of R92. -/
def isTypeCode (t : BitVec 8) : Bool :=
  (1 ≤ t.toNat && t.toNat ≤ 7) || (0x10 ≤ t.toNat && t.toNat ≤ 0x14) || (0x20 ≤ t.toNat && t.toNat ≤ 0x26) || t = 0x30

def isIntCode (t : BitVec 8) : Bool := 1 ≤ t.toNat && t.toNat ≤ 7

/-- Every code of R92 except SCALE8. -/
def isDataCode (t : BitVec 8) : Bool := isTypeCode t && t ≠ 0x30

def moOrd (t : BitVec 8) : Nat := t.toNat % 4
def moScope (t : BitVec 8) : Nat := t.toNat / 4 % 8
def moW64 (t : BitVec 8) : Bool := t.getLsbD 5

/-- R253: SCOPE 0 to 4 and bits [7:6] zero. -/
def moOk (t : BitVec 8) : Bool := moScope t < 5 && t.toNat < 64

/-- R254: the width codes of loads. -/
def loadWidthOk (e : BitVec 5) : Bool := e.toNat ≤ 4 || (8 ≤ e.toNat && e.toNat ≤ 10)

def specInt3 (f : MForm) : Spec :=
  { d := .dst, a := .src, b := .src, field := f.ext.toNat < 4 && f.typ = 0 && f.imm = 0, lit := .b }

def spec0 (op : Nat) (f : MForm) : Option Spec :=
  if op < 12 then some (specInt3 f)
  else match op with
  | 12 => some { d := .dst, a := .src, b := .none, field := (f.ext = 0 || f.ext = 2) && f.typ = 0 && f.imm = 0 }
  | 13 => some { d := .dst, a := .src, b := .none, field := (f.ext = 0 || f.ext = 2) && f.typ = 0 && f.imm = 0 }
  | 14 => some { d := .dst, a := .src, b := .src, field := f.ext.toNat < 4 && f.typ = 0 && f.imm.toNat < 8, lit := .b }
  | 15 => some { d := .dst, a := .src, b := .none, field := f.ext.toNat < 4 && f.typ = 0 && f.imm = 0 }
  | 16 => some { d := .dst, a := .none, b := .none, field := f.ext = 0 && f.typ = 0, lit := .imm }
  | 17 => some { d := .dst, a := .src, b := .none, field := f.ext = 0 && f.typ = 0, lit := .imm }
  | _ => Option.none

/-- R73: lsb + len is at most 64, and imm16[15:12] is zero. -/
def bitFieldOk (imm : BitVec 16) : Bool := imm.toNat < 4096 && imm.toNat % 64 + imm.toNat / 64 % 64 + 1 ≤ 64

def spec1 (op : Nat) (f : MForm) : Option Spec :=
  if op < 4 then some (specInt3 f)
  else if op = 4 then some { specInt3 f with d := .rw }
  else if op < 10 then
    some { d := .dst, a := .src, b := .none, field := f.ext.toNat < 4 && f.typ = 0 && f.imm = 0 }
  else match op with
  | 10 => some { d := .dst, a := .src, b := .none, field := f.ext.toNat < 2 && f.typ = 0 && bitFieldOk f.imm }
  | 11 => some { d := .rw, a := .src, b := .none, field := f.ext = 0 && f.typ = 0 && bitFieldOk f.imm }
  | _ => Option.none

def spec2 (op : Nat) (f : MForm) : Option Spec :=
  let z := f.ext = 0 && f.typ = 0 && f.imm = 0
  if op < 4 then some { d := .dst, a := .src, b := .none, field := z }
  else if op < 9 then some { d := .dst, a := .src, b := .src, field := z, lit := .b }
  else match op with
  | 9 => some { d := .dst, a := .src, b := .none, field := z }
  | 10 => some { d := .dst, a := .src, b := .src, field := z }
  | 11 => some { d := .dst, a := .src, b := .none, field := z }
  | _ => Option.none

def spec3 (op : Nat) (f : MForm) : Option Spec :=
  let z := f.typ = 0 && f.imm = 0
  match op with
  | 0 => some { d := .pred, a := .src, b := .src, field := f.ext.toNat % 16 < 12 && z, lit := .b }
  | 1 => some { d := .pred, a := .src, b := .src, field := f.ext.toNat < 8 && z }
  | 2 => some { d := .pred, a := .pred, b := .pred, field := f.ext.toNat < 4 && z }
  | 3 => some { d := .pred, a := .pred, b := .pred, field := f.ext.toNat < 4 && z }
  | 4 => some { d := .pred, a := .pred, b := .pred, field := f.ext.toNat < 4 && z }
  | 5 => some { d := .pred, a := .pred, b := .none, field := f.ext = 0 && z }
  | 6 => some { d := .dst, a := .none, b := .none, field := f.ext = 0 && z }
  | 7 => some { d := .none, a := .src, b := .none, field := f.ext = 0 && f.typ = 0 && f.imm.toNat < 256 }
  | _ => Option.none

def spec4 (op : Nat) (f : MForm) : Option Spec :=
  let z := f.ext = 0 && f.typ = 0
  match op with
  | 0 => some { d := .none, a := .none, b := .none, field := z, lit := .imm }
  | 1 => some { d := .none, a := .src, b := .none, field := z }
  | 2 => some { d := .none, a := .none, b := .none, field := z, lit := .imm }
  | 3 => some { d := .none, a := .src, b := .none, field := z && f.imm = 0 }
  | 4 => some { d := .none, a := .none, b := .none, field := z && f.imm = 0 }
  | 5 => some { d := .rw, a := .none, b := .none, field := z && f.d ≠ 0, lit := .imm }
  | 6 => some { d := .none, a := .none, b := .none, field := z && f.imm = 0 }
  | _ => Option.none

def spec5 (op : Nat) (f : MForm) : Option Spec :=
  let z := f.typ = 0 && f.imm = 0
  let r := roundExtOk f.ext
  if op < 3 || op = 4 then some { d := .dst, a := .src, b := .src, field := r && z, lit := .b }
  else if op = 3 then some { d := .rw, a := .src, b := .src, field := r && z, lit := .b }
  else if op = 5 then some { d := .dst, a := .src, b := .none, field := r && z }
  else if op < 10 then some { d := .dst, a := .src, b := .src, field := f.ext = 0 && z, lit := .b }
  else match op with
  | 10 => some { d := .dst, a := .src, b := .none, field := f.ext = 0 && z }
  | 11 => some { d := .dst, a := .src, b := .none, field := f.ext = 0 && z }
  | 12 => some { d := .dst, a := .src, b := .none, field := (f.imm = 0 && r) || (f.imm = 1 && f.ext = 0),
                 typ := some (0x11 ≤ f.typ.toNat && f.typ.toNat ≤ 0x14) }
  | 13 => some { d := .dst, a := .src, b := .none, field := r && !f.ext.getLsbD 4 && f.imm = 0, typ := some (isIntCode f.typ) }
  | 14 => some { d := .dst, a := .src, b := .none, field := r && !f.ext.getLsbD 4 && f.imm = 0, typ := some (isIntCode f.typ) }
  | 15 => some { d := .dst, a := .src, b := .none, field := f.ext = 0 && z }
  | _ => Option.none

def spec6 (op : Nat) (f : MForm) : Option Spec :=
  let z := f.ext = 0 && f.typ = 0
  match op with
  | 0 => some { d := .dst, a := .reg, b := .none, lit := .imm,
                field := loadWidthOk f.ext && moOk f.typ && !moW64 f.typ &&
                  (moOrd f.typ = 1 || (moOrd f.typ = 0 && moScope f.typ = 0)) }
  | 1 => some { d := .none, a := .reg, b := .src, lit := .b,
                field := f.ext.toNat ≤ 4 && !(f.lit.isSome && f.ext = 4) && moOk f.typ && !moW64 f.typ &&
                  (moOrd f.typ = 2 || (moOrd f.typ = 0 && moScope f.typ = 0)) }
  | 2 => some { d := .reg, a := .reg, b := .none, field := z }
  | 3 => some { d := .none, a := .reg, b := .src, field := z }
  | 4 => some { d := .dst, a := .reg, b := .none, field := loadWidthOk f.ext && f.typ = 0 }
  | 5 => some { d := .group, a := .reg, b := .none, field := z }
  | 6 => some { d := .none, a := .reg, b := .group, field := z }
  | 7 => some { d := .dst, a := .reg, b := .none, field := z }
  | 8 => some { d := .dst, a := .reg, b := .none, field := z }
  | 9 => some { d := .none, a := .reg, b := .src, field := z }
  | 10 => some { d := .none, a := .reg, b := .src, field := z }
  | 11 => some { d := .none, a := .reg, b := .none, field := f.ext.toNat < 2 && f.typ = 0 }
  | 12 => some { d := .dst, a := .reg, b := .none, field := z }
  | 13 => some { d := .none, a := .reg, b := .none, field := f.ext.toNat < 2 && f.typ = 0 }
  | 14 => some { d := .none, a := .reg, b := .none, field := z }
  | 15 => some { d := .none, a := .reg, b := .none, field := z }
  | _ => Option.none

def spec7 (op : Nat) (f : MForm) : Option Spec :=
  match op with
  | 0 => some { d := .dst, a := .reg, b := .src, field := f.ext.toNat < 9 && moOk f.typ, lit := .b }
  | 1 => some { d := .rw, a := .reg, b := .src, field := f.ext.toNat < 8 && moOk f.typ }
  | 2 => some { d := .dst, a := .reg, b := .src, field := f.ext.toNat < 5 && moOk f.typ && !moW64 f.typ }
  | 3 => some { d := .none, a := .reg, b := .src, lit := .b,
                field := (f.ext.toNat < 8 || (9 ≤ f.ext.toNat && f.ext.toNat ≤ 11 && !moW64 f.typ)) && moOk f.typ && moOrd f.typ = 0 }
  | 4 => some { d := .none, a := .none, b := .none,
                field := f.ext.toNat < 3 && moOk f.typ && moOrd f.typ = 0 && !moW64 f.typ && f.imm = 0 }
  | 5 => some { d := .none, a := .none, b := .none, field := f.ext = 0 && f.typ = 0 && f.imm = 0 }
  | 6 => some { d := .pred, a := .reg, b := .src, field := f.ext = 0 && f.typ = 0 }
  | _ => Option.none

/-- The safe point of a wait marked suspend (R182). -/
def suspImmOk (f : MForm) : Bool := if f.ext.getLsbD 2 then f.imm.toNat < 4096 else f.imm = 0

def spec8 (op : Nat) (f : MForm) : Option Spec :=
  let z := f.typ = 0 && f.imm = 0
  match op with
  | 0 => some { d := if f.ext = 1 then .src else .none, a := .src, b := .evenPair,
                field := f.ext.toNat < 2 && f.typ = 0 && f.imm.toNat < 16 }
  | 1 => some { d := .none, a := .none, b := .none, field := f.ext = 0 && z }
  | 2 => some { d := .none, a := .none, b := .none, field := f.ext = 0 && z }
  | 3 => some { d := .none, a := if f.ext = 1 then .src else .none, b := .none, field := f.ext.toNat < 2 && f.typ = 0 }
  | 4 => some { d := .none, a := .src, b := .src, field := f.ext.toNat < 2 && f.typ = 0 && f.imm.toNat < 4096, lit := .b }
  | 5 => some { d := .none, a := .src, b := .none, field := f.ext = 0 && z }
  | 6 => some { d := .dst, a := .none, b := .none, field := f.ext.toNat < 4 && z }
  | 7 => some { d := .none, a := .src, b := .none, field := f.ext.toNat < 8 && f.typ = 0 && suspImmOk f }
  | 8 => if f.typ = 0 then some { d := .dst, a := .src, b := .src, field := f.ext = 0 && f.imm = 0 }
         else if f.typ = 1 then some { d := .pred, a := .src, b := .none, field := f.ext.toNat < 4 && f.imm = 0 }
         else some { d := .pred, a := .none, b := .none, field := f.typ = 2 && f.ext.toNat < 4 && f.imm = 0 }
  | 9 => some { d := .dst, a := .src, b := .none, field := f.ext = 0 && z }
  | 10 => some { d := .none, a := .src, b := .src, field := (f.ext = 0 || f.ext = 4) && f.typ = 0 && suspImmOk f }
  | 11 => some { d := .none, a := .src, b := .none, field := f.ext = 0 && z }
  | 12 => some { d := .reg, a := if f.ext = 1 then .reg else .none, b := .none,
                 field := f.typ = 0 && (if f.ext = 1 then f.imm = 0 else f.ext = 0 && f.imm.toNat < 16) }
  | _ => Option.none

/-- R127: X, when the entry does not name it, and imm16[3:2] are zero; SB = 1 leaves the shape field of b zero. -/
def vecImmOk (f : MForm) : Bool := f.imm.toNat / 2 % 8 = 0 && (!f.imm.getLsbD 0 || f.imm.toNat / 16 % 16 = 0)

def vecUnaryImmOk (f : MForm) : Bool := f.imm.toNat % 256 = 0

def spec9 (op : Nat) (f : MForm) : Option Spec :=
  let t := some (isDataCode f.typ)
  let bR : Role := if f.imm.getLsbD 0 then .src else .reg
  if op < 9 then some { d := .reg, a := .reg, b := bR, field := roundExtOk f.ext && vecImmOk f, typ := t }
  else if op < 11 then some { d := .reg, a := .reg, b := .none, field := roundExtOk f.ext && vecUnaryImmOk f, typ := t }
  else if op = 11 then some { d := .reg, a := .reg, b := .pair, field := roundExtOk f.ext && vecUnaryImmOk f, typ := t }
  else if op = 12 then some { d := .reg, a := .reg, b := bR, e := true, field := vecImmOk f, typ := t }
  else if op = 13 then
    some { d := .reg, a := .reg, b := bR, typ := t,
           field := vecImmOk f && f.ext.toNat < (if isTypeCode f.typ && !isIntCode f.typ then 8 else 12) }
  else if op < 19 then
    some { d := .reg, a := .reg, b := bR, field := f.ext = 0 && vecImmOk f, typ := some (isIntCode f.typ) }
  else Option.none

/-- The field codes of SHSET (R150). -/
def shsetFieldOk (f : MForm) : Bool :=
  f.typ.toNat ≤ 2 || (4 ≤ f.typ.toNat && f.typ.toNat ≤ 12) || (f.typ = 0x0F && f.imm = 0)

def specA (op : Nat) (f : MForm) : Option Spec :=
  let u := vecUnaryImmOk f
  if op < 9 then
    some { d := .reg, a := .reg, b := .none, field := (if op = 4 || op = 6 then roundExtOk f.ext else f.ext = 0) && u,
           typ := some (0x10 ≤ f.typ.toNat && f.typ.toNat ≤ 0x12) }
  else match op with
  | 9 => some { d := .reg, a := .reg, b := .none, field := roundExtOk f.ext && u, typ := some (isTypeCode f.typ) }
  | 10 => some { d := .reg, a := .reg, b := if f.imm.getLsbD 1 then .reg else .none,
                 field := roundExtOk f.ext && (if f.imm.getLsbD 1 then f.imm.toNat % 16 = 2 else f.imm.toNat % 256 = 0),
                 typ := some (0x20 ≤ f.typ.toNat && f.typ.toNat ≤ 0x26) }
  | 11 => some { d := .reg, a := .reg, b := .none,
                 field := roundExtOk f.ext && f.imm.toNat % 16 = 0 && f.imm.toNat / 16 % 16 < 5, typ := some (isDataCode f.typ) }
  | 12 => some { d := .reg, a := .reg, b := .none, typ := some (isDataCode f.typ),
                 field := roundExtOk f.ext && (f.imm.toNat % 16 = 0 || f.imm.toNat % 16 = 2) && f.imm.toNat / 16 % 16 < 5 }
  | 13 => some { d := .reg, a := .reg, b := .reg, field := f.ext = 0 && (f.imm.toNat % 16 = 0 || f.imm.toNat % 16 = 2),
                 typ := some (isTypeCode f.typ) }
  | 14 => some { d := .reg, a := .reg, b := .reg, field := f.ext = 0 && f.imm.toNat % 16 = 0, typ := some (isTypeCode f.typ) }
  | 15 => some { d := .reg, a := .reg, b := .none, field := f.ext = 0 && u, typ := some (isTypeCode f.typ) }
  | 16 => some { d := .reg, a := .src, b := .none, field := roundExtOk f.ext && f.imm.toNat % 4096 = 0, typ := some (isTypeCode f.typ) }
  | 17 => some { d := .reg, a := .none, b := .none, field := f.ext = 0 && f.imm.toNat % 4096 = 0,
                 typ := some (f.typ = 5 || f.typ = 6 || f.typ = 0x10) }
  | 18 => some { d := .shape, a := .reg, b := .none, field := f.ext = 0 && f.typ = 0 }
  | 19 => some { d := .none, a := .reg, b := .shape, field := f.ext = 0 && f.typ = 0 }
  | 20 => some { d := .shape, a := if f.typ = 0x0F then .none else .src, b := .none, field := f.ext = 0 && shsetFieldOk f }
  | _ => Option.none

def specB (op : Nat) (f : MForm) : Option Spec :=
  let z := f.ext = 0 && f.typ = 0
  match op with
  | 0 => some { d := .dst, a := .none, b := .group, field := z && f.imm = 0 }
  | 1 => some { d := .dst, a := .reg, b := .src, field := z, lit := .b }
  | 2 => some { d := .dst, a := .reg, b := .none, field := f.ext.toNat < 2 && f.typ = 0 }
  | 3 => some { d := .dst, a := .reg, b := .none, field := f.ext.toNat < 2 && f.typ = 0 }
  | 4 => some { d := .none, a := .reg, b := .none, field := f.ext = 0 && f.typ.toNat < 5 }
  | 5 => some { d := .tile, a := .none, b := .src, field := z && f.imm = 0, lit := .b }
  | 6 => some { d := .dst, a := .tile, b := .none, field := z && f.imm = 0 }
  | _ => Option.none

/-- imm16 of a status destination pk (R436): [2:0] k, [3] S, S = 1 with k = 0 reserved. -/
def statusImmOk (f : MForm) : Bool := f.imm.toNat < 16 && f.imm ≠ 8

def specC (op : Nat) (f : MForm) : Option Spec :=
  let z := f.ext = 0 && f.typ = 0 && f.imm = 0
  match op with
  | 0 => some { d := .dst, a := .reg, b := .none,
                field := loadWidthOk f.ext && moOk f.typ && !moW64 f.typ && moOrd f.typ < 2 && statusImmOk f }
  | 1 => some { d := .none, a := .reg, b := .src,
                field := f.ext.toNat % 16 < 7 && moOk f.typ && !moW64 f.typ && (moOrd f.typ = 0 || moOrd f.typ = 2) && f.imm = 0 }
  | 2 => some { d := .dst, a := .reg, b := .src, field := f.ext.toNat < 9 && moOk f.typ && statusImmOk f }
  | 3 => some { d := .rw, a := .reg, b := .src,
                field := f.ext = 0 && moOk f.typ && f.imm.toNat < 128 && !(f.imm.getLsbD 3 && f.imm.toNat / 16 = 0) }
  | 4 => some { d := .none, a := .none, b := .none, field := z }
  | 5 => some { d := .dst, a := .none, b := .none, field := z }
  | 6 => some { d := .dst, a := .none, b := .group, field := z }
  | 7 => some { d := .dst, a := .src, b := .group, field := f.ext = 0 && f.typ = 0 && statusImmOk f }
  | _ => Option.none

def specD (op : Nat) (f : MForm) : Option Spec :=
  let z := f.ext = 0 && f.typ = 0
  match op with
  | 0 => some { d := .none, a := .none, b := .none, field := z }
  | 1 => some { d := .none, a := .src, b := .none, field := z && f.imm = 0 }
  | 2 => some { d := .dst, a := .none, b := .none, field := z && f.imm.toNat < 4096 }
  | 3 => some { d := .none, a := .src, b := .none, field := z && f.imm.toNat < 4096 }
  | 4 => some { d := .dst, a := .src, b := .none, field := z && f.imm.toNat < 4096 }
  | 5 => some { d := .none, a := .none, b := .none, field := z && f.imm = 0 }
  | 6 => some { d := .none, a := .none, b := .none, field := z && f.imm = 0 }
  | 7 => some { d := .none, a := .none, b := .none, field := f.ext.toNat < 4 && f.typ = 0 && f.imm = 0 }
  | 8 => some { d := .none, a := .src, b := .none, field := z && f.imm = 0 }
  | 9 => some { d := .dst, a := .none, b := .none, field := z && f.imm.toNat < 64 }
  | 10 => some { d := .none, a := if f.ext = 1 then .none else .src, b := .none,
                 field := f.ext.toNat < 2 && f.typ.toNat < 4 && f.imm = 0 }
  | _ => Option.none

def specE (op : Nat) (f : MForm) : Option Spec :=
  match op with
  | 0 => some { d := .dst, a := .none, b := .none, field := f.ext.toNat < 2 && f.typ = 0 && f.imm = 0 }
  | 1 => some { d := .dst, a := .src, b := .none, field := f.ext = 0 && f.typ = 0 && f.imm = 0 }
  | 2 => some { d := .none, a := .src, b := .none, field := f.ext = 0 && f.typ = 0 && f.imm = 0 }
  | 3 => some { d := .none, a := .none, b := .none, field := f.ext = 0 && f.typ = 0 && f.imm = 0 }
  | 4 => some { d := .none, a := .none, b := .none, field := f.ext = 0 && f.typ = 0 && f.imm.toNat < 4096 }
  | _ => Option.none

/-- What the opcode `op` = class x 0x40 + operation accepts (R51); none where R51 has no cell. -/
def specOf (op : Nat) (f : MForm) : Option Spec :=
  match op / 64 with
  | 0 => spec0 (op % 64) f
  | 1 => spec1 (op % 64) f
  | 2 => spec2 (op % 64) f
  | 3 => spec3 (op % 64) f
  | 4 => spec4 (op % 64) f
  | 5 => spec5 (op % 64) f
  | 6 => spec6 (op % 64) f
  | 7 => spec7 (op % 64) f
  | 8 => spec8 (op % 64) f
  | 9 => spec9 (op % 64) f
  | 10 => specA (op % 64) f
  | 11 => specB (op % 64) f
  | 12 => specC (op % 64) f
  | 13 => specD (op % 64) f
  | 14 => specE (op % 64) f
  | _ => Option.none

/-- A register field obeys its role as far as the word alone shows. -/
def Role.wordOk (r : Role) (v : BitVec 5) : Bool :=
  match r with
  | .none => v = 0
  | .pred => v.toNat < 8
  | .tile => v.toNat < 4
  | .shape => v.toNat < 16
  | _ => true

/-- R50: an L form only where the entry lists one; field b is zero; where the literal takes the role of imm16, imm16 is zero. -/
def litOk (s : Spec) (f : MForm) : Bool :=
  match f.lit with
  | Option.none => true
  | some _ => match s.lit with
    | .none => false
    | .b => f.b = 0
    | .imm => f.b = 0 && f.imm = 0

/-- The role of field b: must-be-zero in an L form (R50). -/
def Spec.bRole (s : Spec) (f : MForm) : Role := if f.lit.isSome then .none else s.b

/-- The checks of R54, steps 2 to 4, of an M or L form: opcode; must-be-zero fields, ext, sub-operation and rounding; type. -/
def formCheck (op : Nat) (f : MForm) : Option Reject :=
  match specOf op f with
  | Option.none => some .opcode
  | some s =>
    if !(s.d.wordOk f.d && s.a.wordOk f.a && (s.bRole f).wordOk f.b && s.field && litOk s f) then some .field
    else if s.typ = some false then some (.typeCode op f)
    else Option.none

/-- The constructors of class 0x0 by operation number (R51). -/
def mk0 (op : Nat) (f : MForm) : Option Instr :=
  match op with
  | 0 => some (.add f)
  | 1 => some (.sub f)
  | 2 => some (.and f)
  | 3 => some (.or f)
  | 4 => some (.xor f)
  | 5 => some (.andn f)
  | 6 => some (.shl f)
  | 7 => some (.shr f)
  | 8 => some (.sar f)
  | 9 => some (.rot f)
  | 10 => some (.min f)
  | 11 => some (.max f)
  | 12 => some (.abs f)
  | 13 => some (.neg f)
  | 14 => some (.sel f)
  | 15 => some (.mov f)
  | 16 => some (.ldi f)
  | 17 => some (.ldhi f)
  | _ => none

/-- The constructors of class 0x1 by operation number (R51). -/
def mk1 (op : Nat) (f : MForm) : Option Instr :=
  match op with
  | 0 => some (.mul f)
  | 1 => some (.mulh f)
  | 2 => some (.div f)
  | 3 => some (.rem f)
  | 4 => some (.madd f)
  | 5 => some (.clz f)
  | 6 => some (.ctz f)
  | 7 => some (.popc f)
  | 8 => some (.brev f)
  | 9 => some (.bswap f)
  | 10 => some (.bfx f)
  | 11 => some (.bfi f)
  | _ => none

/-- The constructors of class 0x2 by operation number (R51). -/
def mk2 (op : Nat) (f : MForm) : Option Instr :=
  match op with
  | 0 => some (.cbase f)
  | 1 => some (.clen f)
  | 2 => some (.cperm f)
  | 3 => some (.ctag f)
  | 4 => some (.cbnd f)
  | 5 => some (.cbndx f)
  | 6 => some (.cinc f)
  | 7 => some (.cset f)
  | 8 => some (.cand f)
  | 9 => some (.cclr f)
  | 10 => some (.csub f)
  | 11 => some (.cmov f)
  | _ => none

/-- The constructors of class 0x3 by operation number (R51). -/
def mk3 (op : Nat) (f : MForm) : Option Instr :=
  match op with
  | 0 => some (.cmp f)
  | 1 => some (.fcmp f)
  | 2 => some (.pand f)
  | 3 => some (.por f)
  | 4 => some (.pxor f)
  | 5 => some (.pnot f)
  | 6 => some (.pget f)
  | 7 => some (.pfrom f)
  | _ => none

/-- The constructors of class 0x4 by operation number (R51). -/
def mk4 (op : Nat) (f : MForm) : Option Instr :=
  match op with
  | 0 => some (.bra f)
  | 1 => some (.jmp f)
  | 2 => some (.call f)
  | 3 => some (.callr f)
  | 4 => some (.ret f)
  | 5 => some (.loop f)
  | 6 => some (.nop f)
  | _ => none

/-- The constructors of class 0x5 by operation number (R51). -/
def mk5 (op : Nat) (f : MForm) : Option Instr :=
  match op with
  | 0 => some (.fadd f)
  | 1 => some (.fsub f)
  | 2 => some (.fmul f)
  | 3 => some (.ffma f)
  | 4 => some (.fdiv f)
  | 5 => some (.fsqrt f)
  | 6 => some (.fmin f)
  | 7 => some (.fmax f)
  | 8 => some (.fminn f)
  | 9 => some (.fmaxn f)
  | 10 => some (.fabs f)
  | 11 => some (.fneg f)
  | 12 => some (.fcvt f)
  | 13 => some (.fcvti f)
  | 14 => some (.icvtf f)
  | 15 => some (.fclass f)
  | _ => none

/-- The constructors of class 0x6 by operation number (R51). -/
def mk6 (op : Nat) (f : MForm) : Option Instr :=
  match op with
  | 0 => some (.ld f)
  | 1 => some (.st f)
  | 2 => some (.ldc f)
  | 3 => some (.stc f)
  | 4 => some (.ldlu f)
  | 5 => some (.ld64 f)
  | 6 => some (.st64 f)
  | 7 => some (.ldfe f)
  | 8 => some (.ldff f)
  | 9 => some (.stfe f)
  | 10 => some (.stff f)
  | 11 => some (.feset f)
  | 12 => some (.feget f)
  | 13 => some (.pref f)
  | 14 => some (.wbl f)
  | 15 => some (.invl f)
  | _ => none

/-- The constructors of class 0x7 by operation number (R51). -/
def mk7 (op : Nat) (f : MForm) : Option Instr :=
  match op with
  | 0 => some (.amo f)
  | 1 => some (.cas f)
  | 2 => some (.famo f)
  | 3 => some (.red f)
  | 4 => some (.fence f)
  | 5 => some (.drainst f)
  | 6 => some (.waita f)
  | _ => none

/-- The constructors of class 0x8 by operation number (R51). -/
def mk8 (op : Nat) (f : MForm) : Option Instr :=
  match op with
  | 0 => some (.spawn f)
  | 1 => some (.endStrand f)
  | 2 => some (.yield f)
  | 3 => some (.suspend f)
  | 4 => some (.rfork f)
  | 5 => some (.join f)
  | 6 => some (.arrive f)
  | 7 => some (.waitb f)
  | 8 => if f.typ = 0 then some (.domsetNew f) else if f.typ = 1 then some (.domsetEnter f)
      else if f.typ = 2 then some (.domsetLeave f) else none
  | 9 => some (.ticket f)
  | 10 => some (.waittk f)
  | 11 => some (.serve f)
  | 12 => some (.qmap f)
  | _ => none

/-- The constructors of class 0x9 by operation number (R51). -/
def mk9 (op : Nat) (f : MForm) : Option Instr :=
  match op with
  | 0 => some (.vadd f)
  | 1 => some (.vsub f)
  | 2 => some (.vmul f)
  | 3 => some (.vfma f)
  | 4 => some (.vdiv f)
  | 5 => some (.vmin f)
  | 6 => some (.vmax f)
  | 7 => some (.vminn f)
  | 8 => some (.vmaxn f)
  | 9 => some (.vabs f)
  | 10 => some (.vneg f)
  | 11 => some (.vclamp f)
  | 12 => some (.vsel f)
  | 13 => some (.vcmp f)
  | 14 => some (.vand f)
  | 15 => some (.vor f)
  | 16 => some (.vxor f)
  | 17 => some (.vshl f)
  | 18 => some (.vshr f)
  | _ => none

/-- The constructors of class 0xA by operation number (R51). -/
def mkA (op : Nat) (f : MForm) : Option Instr :=
  match op with
  | 0 => some (.vexp2 f)
  | 1 => some (.vexp f)
  | 2 => some (.vlog2 f)
  | 3 => some (.vlog f)
  | 4 => some (.vrcp f)
  | 5 => some (.vrsqrt f)
  | 6 => some (.vsqrt f)
  | 7 => some (.vtanh f)
  | 8 => some (.vsigm f)
  | 9 => some (.vcvt f)
  | 10 => some (.vquant f)
  | 11 => some (.vreduce f)
  | 12 => some (.vscan f)
  | 13 => some (.vgather f)
  | 14 => some (.vscatter f)
  | 15 => some (.vcopy f)
  | 16 => some (.vfill f)
  | 17 => some (.vrand f)
  | 18 => some (.shld f)
  | 19 => some (.shst f)
  | 20 => some (.shset f)
  | _ => none

/-- The constructors of class 0xB by operation number (R51). -/
def mkB (op : Nat) (f : MForm) : Option Instr :=
  match op with
  | 0 => some (.sendcmd f)
  | 1 => some (.tlwait f)
  | 2 => some (.tlread f)
  | 3 => some (.tlsig f)
  | 4 => some (.tlclr f)
  | 5 => some (.mtcw f)
  | 6 => some (.mtcr f)
  | _ => none

/-- The constructors of class 0xC by operation number (R51). -/
def mkC (op : Nat) (f : MForm) : Option Instr :=
  match op with
  | 0 => some (.rld f)
  | 1 => some (.rst f)
  | 2 => some (.ramo f)
  | 3 => some (.rcas f)
  | 4 => some (.rack f)
  | 5 => some (.rstat f)
  | 6 => some (.coll f)
  | 7 => some (.launch f)
  | _ => none

/-- The constructors of class 0xD by operation number (R51). -/
def mkD (op : Nat) (f : MForm) : Option Instr :=
  match op with
  | 0 => some (.trap f)
  | 1 => some (.eret f)
  | 2 => some (.csrr f)
  | 3 => some (.csrw f)
  | 4 => some (.csrx f)
  | 5 => some (.stretry f)
  | 6 => some (.stdrop f)
  | 7 => some (.killdom f)
  | 8 => some (.seedw f)
  | 9 => some (.seedr f)
  | 10 => some (.tlbinv f)
  | _ => none

/-- The constructors of class 0xE by operation number (R51). -/
def mkE (op : Nat) (f : MForm) : Option Instr :=
  match op with
  | 0 => some (.tsread f)
  | 1 => some (.perfrd f)
  | 2 => some (.tracev f)
  | 3 => some (.brk f)
  | 4 => some (.logmark f)
  | _ => none

/-- The M or L instruction with the 10-bit opcode `op` (R47, R51). -/
def mkM (op : Nat) (f : MForm) : Option Instr :=
  match op / 64 with
  | 0 => mk0 (op % 64) f
  | 1 => mk1 (op % 64) f
  | 2 => mk2 (op % 64) f
  | 3 => mk3 (op % 64) f
  | 4 => mk4 (op % 64) f
  | 5 => mk5 (op % 64) f
  | 6 => mk6 (op % 64) f
  | 7 => mk7 (op % 64) f
  | 8 => mk8 (op % 64) f
  | 9 => mk9 (op % 64) f
  | 10 => mkA (op % 64) f
  | 11 => mkB (op % 64) f
  | 12 => mkC (op % 64) f
  | 13 => mkD (op % 64) f
  | 14 => mkE (op % 64) f
  | _ => none

/-- The opcode and the fields of an M or L instruction (R47). -/
def Instr.form : Instr → Option (Nat × MForm)
  | .add f => some (0x000, f)
  | .sub f => some (0x001, f)
  | .and f => some (0x002, f)
  | .or f => some (0x003, f)
  | .xor f => some (0x004, f)
  | .andn f => some (0x005, f)
  | .shl f => some (0x006, f)
  | .shr f => some (0x007, f)
  | .sar f => some (0x008, f)
  | .rot f => some (0x009, f)
  | .min f => some (0x00A, f)
  | .max f => some (0x00B, f)
  | .abs f => some (0x00C, f)
  | .neg f => some (0x00D, f)
  | .sel f => some (0x00E, f)
  | .mov f => some (0x00F, f)
  | .ldi f => some (0x010, f)
  | .ldhi f => some (0x011, f)
  | .mul f => some (0x040, f)
  | .mulh f => some (0x041, f)
  | .div f => some (0x042, f)
  | .rem f => some (0x043, f)
  | .madd f => some (0x044, f)
  | .clz f => some (0x045, f)
  | .ctz f => some (0x046, f)
  | .popc f => some (0x047, f)
  | .brev f => some (0x048, f)
  | .bswap f => some (0x049, f)
  | .bfx f => some (0x04A, f)
  | .bfi f => some (0x04B, f)
  | .cbase f => some (0x080, f)
  | .clen f => some (0x081, f)
  | .cperm f => some (0x082, f)
  | .ctag f => some (0x083, f)
  | .cbnd f => some (0x084, f)
  | .cbndx f => some (0x085, f)
  | .cinc f => some (0x086, f)
  | .cset f => some (0x087, f)
  | .cand f => some (0x088, f)
  | .cclr f => some (0x089, f)
  | .csub f => some (0x08A, f)
  | .cmov f => some (0x08B, f)
  | .cmp f => some (0x0C0, f)
  | .fcmp f => some (0x0C1, f)
  | .pand f => some (0x0C2, f)
  | .por f => some (0x0C3, f)
  | .pxor f => some (0x0C4, f)
  | .pnot f => some (0x0C5, f)
  | .pget f => some (0x0C6, f)
  | .pfrom f => some (0x0C7, f)
  | .bra f => some (0x100, f)
  | .jmp f => some (0x101, f)
  | .call f => some (0x102, f)
  | .callr f => some (0x103, f)
  | .ret f => some (0x104, f)
  | .loop f => some (0x105, f)
  | .nop f => some (0x106, f)
  | .fadd f => some (0x140, f)
  | .fsub f => some (0x141, f)
  | .fmul f => some (0x142, f)
  | .ffma f => some (0x143, f)
  | .fdiv f => some (0x144, f)
  | .fsqrt f => some (0x145, f)
  | .fmin f => some (0x146, f)
  | .fmax f => some (0x147, f)
  | .fminn f => some (0x148, f)
  | .fmaxn f => some (0x149, f)
  | .fabs f => some (0x14A, f)
  | .fneg f => some (0x14B, f)
  | .fcvt f => some (0x14C, f)
  | .fcvti f => some (0x14D, f)
  | .icvtf f => some (0x14E, f)
  | .fclass f => some (0x14F, f)
  | .ld f => some (0x180, f)
  | .st f => some (0x181, f)
  | .ldc f => some (0x182, f)
  | .stc f => some (0x183, f)
  | .ldlu f => some (0x184, f)
  | .ld64 f => some (0x185, f)
  | .st64 f => some (0x186, f)
  | .ldfe f => some (0x187, f)
  | .ldff f => some (0x188, f)
  | .stfe f => some (0x189, f)
  | .stff f => some (0x18A, f)
  | .feset f => some (0x18B, f)
  | .feget f => some (0x18C, f)
  | .pref f => some (0x18D, f)
  | .wbl f => some (0x18E, f)
  | .invl f => some (0x18F, f)
  | .amo f => some (0x1C0, f)
  | .cas f => some (0x1C1, f)
  | .famo f => some (0x1C2, f)
  | .red f => some (0x1C3, f)
  | .fence f => some (0x1C4, f)
  | .drainst f => some (0x1C5, f)
  | .waita f => some (0x1C6, f)
  | .vadd f => some (0x240, f)
  | .vsub f => some (0x241, f)
  | .vmul f => some (0x242, f)
  | .vfma f => some (0x243, f)
  | .vdiv f => some (0x244, f)
  | .vmin f => some (0x245, f)
  | .vmax f => some (0x246, f)
  | .vminn f => some (0x247, f)
  | .vmaxn f => some (0x248, f)
  | .vabs f => some (0x249, f)
  | .vneg f => some (0x24A, f)
  | .vclamp f => some (0x24B, f)
  | .vsel f => some (0x24C, f)
  | .vcmp f => some (0x24D, f)
  | .vand f => some (0x24E, f)
  | .vor f => some (0x24F, f)
  | .vxor f => some (0x250, f)
  | .vshl f => some (0x251, f)
  | .vshr f => some (0x252, f)
  | .vexp2 f => some (0x280, f)
  | .vexp f => some (0x281, f)
  | .vlog2 f => some (0x282, f)
  | .vlog f => some (0x283, f)
  | .vrcp f => some (0x284, f)
  | .vrsqrt f => some (0x285, f)
  | .vsqrt f => some (0x286, f)
  | .vtanh f => some (0x287, f)
  | .vsigm f => some (0x288, f)
  | .vcvt f => some (0x289, f)
  | .vquant f => some (0x28A, f)
  | .vreduce f => some (0x28B, f)
  | .vscan f => some (0x28C, f)
  | .vgather f => some (0x28D, f)
  | .vscatter f => some (0x28E, f)
  | .vcopy f => some (0x28F, f)
  | .vfill f => some (0x290, f)
  | .vrand f => some (0x291, f)
  | .shld f => some (0x292, f)
  | .shst f => some (0x293, f)
  | .shset f => some (0x294, f)
  | .spawn f => some (0x200, f)
  | .endStrand f => some (0x201, f)
  | .yield f => some (0x202, f)
  | .suspend f => some (0x203, f)
  | .rfork f => some (0x204, f)
  | .join f => some (0x205, f)
  | .arrive f => some (0x206, f)
  | .waitb f => some (0x207, f)
  | .domsetNew f => some (0x208, f)
  | .domsetEnter f => some (0x208, f)
  | .domsetLeave f => some (0x208, f)
  | .ticket f => some (0x209, f)
  | .waittk f => some (0x20A, f)
  | .serve f => some (0x20B, f)
  | .qmap f => some (0x20C, f)
  | .sendcmd f => some (0x2C0, f)
  | .tlwait f => some (0x2C1, f)
  | .tlread f => some (0x2C2, f)
  | .tlsig f => some (0x2C3, f)
  | .tlclr f => some (0x2C4, f)
  | .mtcw f => some (0x2C5, f)
  | .mtcr f => some (0x2C6, f)
  | .rld f => some (0x300, f)
  | .rst f => some (0x301, f)
  | .ramo f => some (0x302, f)
  | .rcas f => some (0x303, f)
  | .rack f => some (0x304, f)
  | .rstat f => some (0x305, f)
  | .coll f => some (0x306, f)
  | .launch f => some (0x307, f)
  | .trap f => some (0x340, f)
  | .eret f => some (0x341, f)
  | .csrr f => some (0x342, f)
  | .csrw f => some (0x343, f)
  | .csrx f => some (0x344, f)
  | .stretry f => some (0x345, f)
  | .stdrop f => some (0x346, f)
  | .killdom f => some (0x347, f)
  | .seedw f => some (0x348, f)
  | .seedr f => some (0x349, f)
  | .tlbinv f => some (0x34A, f)
  | .tsread f => some (0x380, f)
  | .perfrd f => some (0x381, f)
  | .tracev f => some (0x382, f)
  | .brk f => some (0x383, f)
  | .logmark f => some (0x384, f)
  | _ => none

/-- A machine event: a row without an encoding that the outside world or a unit brings about. -/
def Instr.isEvent : Instr → Bool
  | .storeTranslate => true
  | .storeFaultTrap => true
  | .waitaWake => true
  | .waitComplete => true
  | .parkedRecordRelease => true
  | .migrationAtSafepoint => true
  | .stagePick => true
  | .watchdogExpire => true
  | .combineWindowClose => true
  | .timelineAdvance => true
  | .dispatchIngress => true
  | .tileControlApply => true
  | .matrixSlice => true
  | .collParticipantArrive => true
  | .collectiveExpire => true
  | .ownerReceive => true
  | .replyReceive => true
  | .requestRetransmit => true
  | .busyRetry => true
  | .ackSend => true
  | .readRetransmit => true
  | .markForget => true
  | .replayAdmit => true
  | .sweeperVisit => true
  | .launchPacketWrite => true
  | .launchTagWrite => true
  | .hostAckmarkWrite => true
  | .peerLaunchReceive => true
  | .launchHeaderCheck => true
  | .launchDequeue => true
  | .coreWake => true
  | .launchComplete => true
  | .hostMemAccess => true
  | .flitReceive => true
  | .twinCompare => true
  | .twinTimeout => true
  | .coreStop => true
  | .coresvcGo => true
  | .migreqWrite => true
  | .swapFast => true
  | .swapEntry => true
  | .swapSlow => true
  | .clusterPrepare => true
  | .pgclrGo => true
  | .pgclrDone => true
  | .pkeyDraw => true
  | .pkeyDestroy => true
  | .dbgctlHalt => true
  | .dbgctlResume => true
  | .dbgdataWrite => true
  | .portdigClear => true
  | .attestRequest => true
  | .csrWrite => true
  | .perBankRefresh => true
  | .forcedRefresh => true
  | .coldReset => true
  | .warmReset => true
  | .peerReset => true
  | .linkLost => true
  | .junctionAlert => true
  | .junctionTrip => true
  | .uncorrectableError => true
  | .cxlCacheSnoop => true
  | .linkTrain => true
  | .stageSchedulerRebalance => true
  | _ => false
/-- What decoding answers: an instruction with its length in bytes, a rejection by name, or too few bytes. -/
inductive Decoded
  | ok (i : Instr) (len : Nat)
  | reject (r : Reject) (len : Nat)
  | short
deriving DecidableEq, Repr

/-- R44, R45: an S form. Fields that the table does not use are zero. -/
def decodeS (w : BitVec 32) : Except Reject Instr :=
  let op := (w.extractLsb' 2 7).toNat
  let d : BitVec 5 := w.extractLsb' 9 5
  let a : BitVec 5 := w.extractLsb' 14 5
  let b : BitVec 5 := w.extractLsb' 19 5
  let imm : BitVec 8 := w.extractLsb' 24 8
  let need (c : Bool) (i : Instr) : Except Reject Instr := if c then .ok i else .error .sField
  match op with
  | 0x00 => need (d = 0 && a = 0 && b = 0 && imm = 0) .nopS
  | 0x01 => need (imm = 0) (.addS d a b)
  | 0x02 => need (imm = 0) (.subS d a b)
  | 0x03 => need (imm = 0) (.andS d a b)
  | 0x04 => need (imm = 0) (.orS d a b)
  | 0x05 => need (imm = 0) (.xorS d a b)
  | 0x06 => need (imm = 0) (.shlS d a b)
  | 0x07 => need (imm = 0) (.shrS d a b)
  | 0x08 => need (imm = 0) (.sarS d a b)
  | 0x09 => need (b = 0 && imm = 0) (.movS d a)
  | 0x0A => need (b = 0) (.addiS d a imm)
  | 0x0B => need (d.toNat < 8 && imm.toNat < 32 && imm.toNat % 16 < 12) (.cmpS (d.setWidth 3) a b (imm.setWidth 5))
  | 0x0C => need (b = 0) (.cincS d a imm)
  | 0x0D => need (b = 0) (.ldDwordS d a imm)
  | 0x0E => need (d = 0) (.stDwordS a b imm)
  | 0x0F => need (b = 0) (.ldWordS d a imm)
  | 0x10 => need (d = 0) (.stWordS a b imm)
  | 0x11 => need (!w.getLsbD 9) (.braS (w.extractLsb' 10 22))
  | 0x12 => need (d = 0 && a = 0 && b = 0 && imm = 0) .retS
  | 0x13 => need (d = 0 && a = 0 && b = 0 && imm = 0) .yieldS
  | 0x14 => need (d = 0 && a = 0 && b = 0 && imm = 0) .endS
  | _ => .error .sOpcode

/-- The fields of words 0 and 1 and the literal (R47, R48, R50). -/
def mFields (w0 w1 : BitVec 32) (lit : Option (BitVec 32)) : MForm where
  ext := w0.extractLsb' 27 5
  b := w0.extractLsb' 22 5
  a := w0.extractLsb' 17 5
  d := w0.extractLsb' 12 5
  typ := w1.extractLsb' 8 8
  imm := w1.extractLsb' 16 16
  cold := w1.getLsbD 5
  yield := w1.getLsbD 4
  neg := w1.getLsbD 3
  pred := w1.extractLsb' 0 3
  lit := lit

/-- R47 to R54: an M or L form from its words. -/
def decodeM (w0 w1 : BitVec 32) (lit : Option (BitVec 32)) : Except Reject Instr :=
  let op := (w0.extractLsb' 2 10).toNat
  let f := mFields w0 w1 lit
  match specOf op f with
  | none => .error .opcode
  | some _ =>
    if w1.extractLsb' 6 2 ≠ (0 : BitVec 2) then .error .field
    else match formCheck op f with
      | some r => .error r
      | none => match mkM op f with
        | some i => .ok i
        | none => .error .opcode

/-- Four bytes, little-endian (R3). -/
def le32 (b0 b1 b2 b3 : Byte) : BitVec 32 := b3 ++ b2 ++ b1 ++ b0

def Decoded.of (r : Except Reject Instr) (len : Nat) : Decoded :=
  match r with
  | .ok i => .ok i len
  | .error e => .reject e len

/-- R43: the length code of word 0 says how many words follow. Total on any bytes. -/
def decode (bs : List Byte) : Decoded :=
  match bs with
  | b0 :: b1 :: b2 :: b3 :: rest =>
    let w0 := le32 b0 b1 b2 b3
    match (w0.setWidth 2).toNat with
    | 0 => .of (decodeS w0) 4
    | 1 => match rest with
      | c0 :: c1 :: c2 :: c3 :: _ => .of (decodeM w0 (le32 c0 c1 c2 c3) none) 8
      | _ => .short
    | 2 => match rest with
      | c0 :: c1 :: c2 :: c3 :: e0 :: e1 :: e2 :: e3 :: _ =>
        .of (decodeM w0 (le32 c0 c1 c2 c3) (some (le32 e0 e1 e2 e3))) 12
      | _ => .short
    | _ => .reject .lengthCode 4
  | _ => .short

/-- The length in bytes that the length code of a first word gives, which is the size of the fetch check (R43, R36). -/
def lengthOf (w0 : BitVec 32) : Nat :=
  match (w0.setWidth 2).toNat with
  | 1 => 8
  | 2 => 12
  | _ => 4

/-- The bytes of a number, lowest first (R3). -/
def bytesOf (n w : Nat) : List Byte :=
  match n with
  | 0 => []
  | k + 1 => BitVec.ofNat 8 w :: bytesOf k (w / 256)

/-- The instruction that the decoder reads from the bits `w` of an opcode-table row, numbered as the table numbers them. -/
def decodeTableWord (_nbits w : Nat) : Option Instr :=
  match decode (bytesOf 12 w) with
  | .ok i _ => some i
  | _ => none

/-! ## Records -/

def Record.bits (g : Cap) (lo n : Nat) : Nat := (g.val.extractLsb' lo n).toNat

/-- The command of a record by its opcode (R284), its sub-operation (R352) or its mode (R332). -/
def decodeRecord (r : Record) : Option Instr :=
  match Record.bits r.g0 0 8 with
  | 0x10 => some (.mzero r)
  | 0x11 => some (.mwload r)
  | 0x12 => some (.mma r)
  | 0x13 => some (.mmat r)
  | 0x14 => some (.mldt r)
  | 0x15 => some (.mstt r)
  | 0x16 => some (.mlda r)
  | 0x17 => match Record.bits r.g0 99 2 with
    | 1 => some (.mdrainEval r)
    | 2 => some (.mdrainApply r)
    | _ => some (.mdrain r)
  | 0x18 => some (.madj r)
  | 0x19 => some (.msig r)
  | 0x20 => some (.cpy r)
  | 0x21 => some (.cpyx r)
  | 0x22 => some (.gath r)
  | 0x23 => some (.scat r)
  | 0x24 => some (.dispatch r)
  | 0x30 => match Record.bits r.g0 40 2 with
    | 0 => some (.mktcfgSetup r)
    | 1 => some (.mktcfgCaps r)
    | 2 => some (.mktcfgBuffers r)
    | _ => some (.mktcfgRelease r)
  | 0x31 => some (.mktsub r)
  | 0x32 => some (.auct r)
  | 0x33 => some (.mktnorm r)
  | 0x34 => some (.mktwrp r)
  | 0x35 => some (.mktrdp r)
  | 0x36 => some (.mktstat r)
  | 0x40 => some (.allred r)
  | 0x41 => some (.redscat r)
  | 0x42 => some (.allgath r)
  | 0x43 => some (.reshard r)
  | 0x44 => some (.bcast r)
  | 0x45 => some (.rsred r)
  | _ => none

/-! ## Encoding -/

def sWord (op : BitVec 7) (d a b : BitVec 5) (imm : BitVec 8) : BitVec 32 :=
  imm ++ b ++ a ++ d ++ op ++ (0 : BitVec 2)

def mWord0 (op : Nat) (f : MForm) : BitVec 32 :=
  f.ext ++ f.b ++ f.a ++ f.d ++ BitVec.ofNat 10 op ++ (if f.lit.isSome then 0b10 else 0b01 : BitVec 2)

def mWord1 (f : MForm) : BitVec 32 :=
  f.imm ++ f.typ ++ (0 : BitVec 2) ++ BitVec.ofBool f.cold ++ BitVec.ofBool f.yield ++ BitVec.ofBool f.neg ++ f.pred

/-- The words of an M or L form (R47, R48, R50). -/
def mWords (op : Nat) (f : MForm) : List (BitVec 32) :=
  mWord0 op f :: mWord1 f :: f.lit.toList

/-- The words of a strand instruction; none for what is no instruction of a strand. -/
def encode (i : Instr) : Option (List (BitVec 32)) :=
  match i with
  | .nopS => some [sWord 0x00 0 0 0 0]
  | .addS d a b => some [sWord 0x01 d a b 0]
  | .subS d a b => some [sWord 0x02 d a b 0]
  | .andS d a b => some [sWord 0x03 d a b 0]
  | .orS d a b => some [sWord 0x04 d a b 0]
  | .xorS d a b => some [sWord 0x05 d a b 0]
  | .shlS d a b => some [sWord 0x06 d a b 0]
  | .shrS d a b => some [sWord 0x07 d a b 0]
  | .sarS d a b => some [sWord 0x08 d a b 0]
  | .movS d a => some [sWord 0x09 d a 0 0]
  | .addiS d a imm => some [sWord 0x0A d a 0 imm]
  | .cmpS d a b c => some [sWord 0x0B (d.setWidth 5) a b (c.setWidth 8)]
  | .cincS d a imm => some [sWord 0x0C d a 0 imm]
  | .ldDwordS d a imm => some [sWord 0x0D d a 0 imm]
  | .stDwordS a b imm => some [sWord 0x0E 0 a b imm]
  | .ldWordS d a imm => some [sWord 0x0F d a 0 imm]
  | .stWordS a b imm => some [sWord 0x10 0 a b imm]
  | .braS off => some [off ++ (0 : BitVec 1) ++ (0x11 : BitVec 7) ++ (0 : BitVec 2)]
  | .retS => some [sWord 0x12 0 0 0 0]
  | .yieldS => some [sWord 0x13 0 0 0 0]
  | .endS => some [sWord 0x14 0 0 0 0]
  | i => i.form.map fun (op, f) => mWords op f

/-- The words as bytes, each word little-endian (R43). -/
def wordBytes (ws : List (BitVec 32)) : List Byte := ws.flatMap fun w => bytesOf 4 w.toNat

/-- The first rule of the encoding that an instruction breaks: an M or L form breaks the checks of its opcode, an S form CMP names
a reserved condition (R78), a command is not what its record says (R284); a rejected encoding is no well-formed term. -/
def wfCheck (i : Instr) : Option Reject :=
  match i with
  | .illegalEncoding r => some r
  | .cmpS _ _ _ c => if c.toNat % 16 < 12 then none else some .sField
  | .mzero r | .mwload r | .mma r | .mmat r | .mldt r | .mstt r | .mlda r | .mdrain r | .mdrainEval r | .mdrainApply r
  | .madj r | .msig r | .cpy r | .cpyx r | .gath r | .scat r | .dispatch r | .mktcfgSetup r | .mktcfgCaps r
  | .mktcfgBuffers r | .mktcfgRelease r | .mktsub r | .auct r | .mktnorm r | .mktwrp r | .mktrdp r | .mktstat r
  | .allred r | .redscat r | .allgath r | .reshard r | .bcast r | .rsred r =>
    if decodeRecord r = some i then none else some .opcode
  | i => match i.form with
    | some (op, f) =>
      match formCheck op f with
      | some e => some e
      | none => if mkM op f = some i then none else some .opcode
    | none => none

end Sys2Proof
end

