-- ==== Sys2Proof/Machine/Maps.lean ====
section
/-!
DEFINITION. Sparse maps and sets in their one canonical form (keys strictly rising), and the accessors of the state: every read
and write of a unit of the package goes through them.
-/
namespace Sys2Proof.Machine

/-! ## Sparse maps and sets -/

/-- The value under a key. -/
def look {α : Type} (m : SMap α) (k : Nat) : Option α :=
  match m with
  | [] => none
  | (j, v) :: r => if j = k then some v else if k < j then none else look r k

/-- The map with `v` under `k`. -/
def put {α : Type} (m : SMap α) (k : Nat) (v : α) : SMap α :=
  match m with
  | [] => [(k, v)]
  | (j, w) :: r => if j = k then (k, v) :: r else if k < j then (k, v) :: (j, w) :: r else (j, w) :: put r k v

/-- The map without the key `k`. -/
def del {α : Type} (m : SMap α) (k : Nat) : SMap α :=
  match m with
  | [] => []
  | (j, w) :: r => if j = k then r else if k < j then (j, w) :: r else (j, w) :: del r k

/-- A strictly rising list of numbers with `k` in it. -/
def addTo (m : List Nat) (k : Nat) : List Nat :=
  match m with
  | [] => [k]
  | j :: r => if j = k then j :: r else if k < j then k :: j :: r else j :: addTo r k

/-- A strictly rising list of numbers with `k` in it or not, as `b` says. -/
def setIn (m : List Nat) (k : Nat) (b : Bool) : List Nat := if b then addTo m k else m.filter (· ≠ k)

/-- The elements of a list at the places below `n`, and what follows. -/
def listSet {α : Type} (l : List α) (i : Nat) (v : α) : List α := l.set i v

def listDel {α : Type} (l : List α) (i : Nat) : List α := l.eraseIdx i

/-- 0, 1, …, n − 1. -/
def upTo (n : Nat) : List Nat := List.range n

/-! ## Units -/

def State.slotAt (s : State) (k : Nat) : Slot := (look s.slots k).getD Slot.reset
def State.setSlotAt (s : State) (k : Nat) (v : Slot) : State := { s with slots := put s.slots k v }
def State.modSlotAt (s : State) (k : Nat) (f : Slot → Slot) : State := s.setSlotAt k (f (s.slotAt k))

def State.requester (s : State) (id : Nat) : Requester := (look s.requesters id).getD {}
def State.setRequester (s : State) (id : Nat) (v : Requester) : State := { s with requesters := put s.requesters id v }

/-- The ID of a requester (R423). -/
def reqId (eng : Bool) (num part : Nat) : Nat := num % 2 ^ 17 + (if eng then 2 ^ 17 else 0) + (part % 64) * 2 ^ 18

/-- An operation waits at the interface of a requester. -/
def State.enqueue (s : State) (id : Nat) (q : NetOp) : State :=
  let r := s.requester id
  s.setRequester id { r with queue := r.queue ++ [q] }

/-- The operations of a requester without a final reply, oldest first: those sent, then those that wait. -/
def Requester.open_ (r : Requester) : List NetOp := r.table.map (fun e => e.toNetOp) ++ r.queue

def State.coreBank (s : State) (k : Nat) : CoreBank := (look s.coreBanks k).getD CoreBank.reset
def State.setCoreBank (s : State) (k : Nat) (v : CoreBank) : State := { s with coreBanks := put s.coreBanks k v }
def State.modCoreBank (s : State) (k : Nat) (f : CoreBank → CoreBank) : State := s.setCoreBank k (f (s.coreBank k))

def State.core (s : State) (n : Nat) : Core := (look s.cores n).getD {}
def State.setCore (s : State) (n : Nat) (v : Core) : State := { s with cores := put s.cores n v }
def State.modCore (s : State) (n : Nat) (f : Core → Core) : State := s.setCore n (f (s.core n))

def State.quad (s : State) (n : Nat) : Quad := (look s.quads n).getD {}
def State.modQuad (s : State) (n : Nat) (f : Quad → Quad) : State := { s with quads := put s.quads n (f (s.quad n)) }

def State.cluster (s : State) (n : Nat) : Cluster := (look s.clusters n).getD {}
def State.setCluster (s : State) (n : Nat) (v : Cluster) : State := { s with clusters := put s.clusters n v }
def State.modCluster (s : State) (n : Nat) (f : Cluster → Cluster) : State := s.setCluster n (f (s.cluster n))

def State.die (s : State) (n : Nat) : Die := (look s.dies n).getD {}
def State.setDie (s : State) (n : Nat) (v : Die) : State := { s with dies := put s.dies n v }
def State.modDie (s : State) (n : Nat) (f : Die → Die) : State := s.setDie n (f (s.die n))

def State.part (s : State) (n : Nat) : Partition := (look s.partitions n).getD {}
def State.setPart (s : State) (n : Nat) (v : Partition) : State := { s with partitions := put s.partitions n v }
def State.modPart (s : State) (n : Nat) (f : Partition → Partition) : State := s.setPart n (f (s.part n))

def State.port (s : State) (n : Nat) : Port := (look s.ports n).getD {}
def State.modPort (s : State) (n : Nat) (f : Port → Port) : State := { s with ports := put s.ports n (f (s.port n)) }

def Partition.timeline (p : Partition) (i : Nat) : Timeline := (look p.tl i).getD {}
def Partition.entry (p : Partition) (i : Nat) : Entry := (look p.entries i).getD {}
def State.modTimeline (s : State) (p i : Nat) (f : Timeline → Timeline) : State :=
  s.modPart p fun q => { q with tl := put q.tl i (f (q.timeline i)) }
def State.entry (s : State) (l : Nat × Nat) : Entry := (s.part l.1).entry l.2
def State.modEntry (s : State) (l : Nat × Nat) (f : Entry → Entry) : State :=
  s.modPart l.1 fun q => { q with entries := put q.entries l.2 (f (q.entry l.2)) }

def Die.lot (d : Die) (i : Nat) : Lot := (look d.lots i).getD {}
def State.modLot (s : State) (d i : Nat) (f : Lot → Lot) : State :=
  s.modDie d fun x => { x with lots := put x.lots i (f (x.lot i)) }

/-- A supervisor CSR of a die. -/
def State.csr (s : State) (d n : Nat) : Word := (look (s.die d).csr n).getD 0
def State.setCsr (s : State) (d n : Nat) (v : Word) : State := s.modDie d fun x => { x with csr := put x.csr n v }

/-- The row and the column of a die in the 2 x 4 arrangement (R10). -/
def dieRow (d : Nat) : Nat := d / 4
def dieCol (d : Nat) : Nat := d % 4

/-- Dies beside each other in a row or a column: a link joins them (R9, R10). -/
def neighbours (a b : Nat) : Bool :=
  (dieRow a = dieRow b && (dieCol a + 1 = dieCol b || dieCol b + 1 = dieCol a)) || (dieCol a = dieCol b && dieRow a ≠ dieRow b)

def linkKey (a b : Nat) : Nat := 8 * min a b + max a b

/-- A link between neighbour dies works unless it has been lost (R9, R420). -/
def State.dieLinkUp (s : State) (a b : Nat) : Bool := (look s.dieLinks (linkKey a b)).getD true
/-- The lanes a UCIe module has trained at: 64, 32, or 0 when it is down (R444). -/
def State.lanes (s : State) (m : Nat) : Nat := (look s.modules m).getD 64

/-- The links of a way from die `a` to die `b`: along the row of `a`, then down or up the column of `b`. -/
def dieRoute (fuel a b : Nat) : List (Nat × Nat) :=
  match fuel with
  | 0 => []
  | k + 1 =>
    let next := if dieCol a < dieCol b then a + 1 else if dieCol b < dieCol a then a - 1 else b
    if a = b then [] else (a, next) :: dieRoute k next b

/-- Whether the links work that a message between two dies needs. The spec gives no routing over the 2 x 4 array: that the way starts in the row of
the lower-numbered die, in both directions, is a DESIGN CHOICE (log 55). -/
def State.pathUp (s : State) (a b : Nat) : Bool := (dieRoute 4 (min a b) (max a b)).all fun l => s.dieLinkUp l.1 l.2

/-! ## Numbers of units (R10, R11) -/

def clusterOf (core : Nat) : Nat := core / 48
def dieOf (core : Nat) : Nat := core / 2304
def quadOf (core : Nat) : Nat := core / 4

/-- The key of a bank of a unit. -/
def bankKey (n bank : Nat) : Nat := 2 * n + bank

def State.liveBank (s : State) (core : Nat) : Nat := (s.core core).liveBank
/-- The key of the live bank of a slot, and of a core. -/
def State.slotKey (s : State) (slot : Nat) : Nat := bankKey slot (s.liveBank (slot / 4))
def State.coreKey (s : State) (core : Nat) : Nat := bankKey core (s.liveBank core)
def State.liveSlot (s : State) (slot : Nat) : Slot := s.slotAt (s.slotKey slot)

/-- The partition of a bank of a cluster (R401, R403). -/
def Cluster.ctx (c : Cluster) (bank : Nat) : Option Nat := if bank = 0 then c.ctx0 else c.ctx1
def Cluster.setCtx (c : Cluster) (bank : Nat) (p : Option Nat) : Cluster :=
  if bank = 0 then { c with ctx0 := p } else { c with ctx1 := p }

/-! ## The slot whose step it is -/

/-- The key of the slot whose step it is. -/
def State.me (s : State) : Nat :=
  match s.cur with
  | .slot k => k
  | _ => 0

def State.sl (s : State) : Slot := s.slotAt s.me
def State.setSl (s : State) (v : Slot) : State := s.setSlotAt s.me v
def State.modSl (s : State) (f : Slot → Slot) : State := s.setSl (f s.sl)

/-- Its slot number, core, bank, cluster and die. -/
def State.mySlot (s : State) : Nat := s.me / 2
def State.myBank (s : State) : Nat := s.me % 2
def State.myCore (s : State) : Nat := s.me / 8
def State.myCoreKey (s : State) : Nat := bankKey s.myCore s.myBank
def State.myCluster (s : State) : Nat := clusterOf s.myCore
def State.myDie (s : State) : Nat := dieOf s.myCore

/-- The launch of the slot whose step it is, and its partition: that of the launch, else that of its bank of the cluster. -/
def State.myLaunch (s : State) : Nat × Nat := s.sl.launch.getD (0, 0)
def State.myPart (s : State) : Nat :=
  match s.sl.launch with
  | some l => l.1
  | none => ((s.cluster s.myCluster).ctx s.myBank).getD 0

/-- A kernel header of no launch: 32 registers, no handler, no stage, no safe point. -/
def Header.none_ : Header := ⟨Cap.zero, 0, 32, false, 0, 0, 0, [], []⟩
def State.myHeader (s : State) : Header := ((s.entry s.myLaunch).hdr).getD Header.none_

/-! ## Free values -/

/-- The next free value of 64 bits, and the state that has drawn it. -/
def State.draw (s : State) : Word × State := (Config.freeWord s.free, { s with free := s.free + 1 })

end Sys2Proof.Machine
end

