-- ==== Sys2Proof/Machine/MemOps.lean ====
section
/-!
DEFINITION. Memory: byte stores, homes and keys of physical lines, the L1 of a core with its dirty bytes and update-only partials,
and scratchpads (R202 to R207, R213 to R217, R221, R236, R239).
-/
namespace Sys2Proof.Machine

/-! ## Byte stores -/

/-- A byte that is not listed reads 0 (log 1). -/
def Mem.get (m : Mem) (a : Nat) : Byte := (look m.cells a).getD 0

/-- Writing what an unlisted byte reads as removes the entry. -/
def Mem.set (m : Mem) (a : Nat) (v : Byte) : Mem :=
  { m with cells := if v = 0 then del m.cells a else put m.cells a v }

/-- `n` bytes from `a`. -/
def Mem.bytes (m : Mem) (a n : Nat) : List Byte :=
  match n with
  | 0 => []
  | k + 1 => m.get a :: m.bytes (a + 1) k

/-- The bytes `bs` written from `a`. -/
def Mem.store (m : Mem) (a : Nat) (bs : List Byte) : Mem :=
  match bs with
  | [] => m
  | b :: r => (m.set a b).store (a + 1) r

/-- The tag of granule `g` (R215). -/
def Mem.tag (m : Mem) (g : Nat) : Bool := m.tags.contains g
def Mem.setTag (m : Mem) (g : Nat) (t : Bool) : Mem := { m with tags := setIn m.tags g t }

/-- The tags of every granule that `n` bytes from `a` touch, cleared (R33). -/
def Mem.clearTags (m : Mem) (a n : Nat) : Mem :=
  if n = 0 then m else { m with tags := m.tags.filter fun g => g < a / 16 || (a + n - 1) / 16 < g }

def Mem.setPoison (m : Mem) (u : Nat) (p : Bool) : Mem := { m with poison := setIn m.poison u p }

/-- Keys strictly rising. -/
def risingFrom {α : Type} (lo : Nat) (m : SMap α) : Bool :=
  match m with
  | [] => true
  | (k, _) :: r => lo ≤ k && risingFrom (k + 1) r

def risingNat (lo : Nat) (m : List Nat) : Bool :=
  match m with
  | [] => true
  | k :: r => lo ≤ k && risingNat (k + 1) r

/-- The canonical form: addresses strictly rising, no entry equal to what an unlisted address reads as, tags and poison
strictly rising. -/
def Mem.wf (m : Mem) : Bool :=
  risingFrom 0 m.cells && m.cells.all (fun c => c.2 ≠ 0) && risingNat 0 m.tags && risingNat 0 m.poison

/-! ## Numbers and bytes -/

/-- The little-endian number of some bytes (R3). -/
def leNat (bs : List Byte) : Nat :=
  match bs with
  | [] => 0
  | b :: r => b.toNat + 256 * leNat r

/-- The lowest `n` bytes of a number, lowest first (R3). -/
def leBytes (n v : Nat) : List Byte :=
  match n with
  | 0 => []
  | k + 1 => BitVec.ofNat 8 v :: leBytes k (v / 256)

/-- One bit of the CRC with polynomial 0x42F0E1EBA9EA3693, most significant bit first. -/
def crcBit (c : Word) : Word := if c.getLsbD 63 then (c <<< 1) ^^^ 0x42F0E1EBA9EA3693 else c <<< 1

def crcByte (c : Word) (b : Byte) : Word :=
  let c := c ^^^ (b.setWidth 64 <<< 56)
  crcBit (crcBit (crcBit (crcBit (crcBit (crcBit (crcBit (crcBit c)))))))

/-- CRC-64 (ECMA-182) of some bytes (R390, R447, R457, R477). -/
def crc64 (bs : List Byte) : Word := bs.foldl crcByte 0

/-- Bytes `i` to `i + n − 1` of a line. -/
def lineBytes (d : BitVec 512) (i n : Nat) : List Byte := leBytes n (d.toNat >>> (8 * i))

/-- A line with the bytes `bs` from offset `i`. -/
def lineSet (d : BitVec 512) (i : Nat) (bs : List Byte) : BitVec 512 :=
  let mask : BitVec 512 := (BitVec.ofNat 512 (2 ^ (8 * bs.length) - 1)) <<< (8 * i)
  (d &&& ~~~mask) ||| ((BitVec.ofNat 512 (leNat bs)) <<< (8 * i))

/-- `n` ones from bit `i`, of 64. -/
def ones64 (i n : Nat) : BitVec 64 := BitVec.ofNat 64 ((2 ^ n - 1) <<< i)

/-- A line whose bytes under the mask `m` come from `a`, the others from `b`. -/
def lineMerge (m : BitVec 64) (a b : BitVec 512) : BitVec 512 :=
  BitVec.ofNat 512 (leNat ((upTo 64).map fun i =>
    if m.getLsbD i then BitVec.ofNat 8 (a.toNat >>> (8 * i)) else BitVec.ofNat 8 (b.toNat >>> (8 * i))))

/-! ## Homes (R205, R206) -/

def hostBase : Nat := 2 ^ 51

/-- R205: whether a physical address is backed. -/
def backed (pa : Nat) : Bool :=
  if pa < 2 ^ 40 then pa % 2 ^ 36 / 2 ^ 18 < 244140 else hostBase ≤ pa && pa < 2 ^ 52

/-- The home die of a physical address (R206). -/
def homeDie (pa : Nat) : Nat := if hostBase ≤ pa then (if pa / 2 ^ 18 % 2 = 0 then 0 else 4) else pa / 2 ^ 36 / 2

/-- The L2 slice of a physical address within its home die (R206). -/
def sliceOf (pa : Nat) : Nat := (pa / 64 % 64) ^^^ (pa / 4096 % 64)

/-- The channel of an HBM4E stack and the pseudo-channel of the channel (R206). -/
def channelOf (pa : Nat) : Nat := pa / 128 % 32
def pseudoOf (pa : Nat) : Nat := pa / 64 % 2

/-- The pseudo-channel of an HBM line among the 128 of its home die: its stack of the two, its channel, its pseudo-channel (R206). -/
def pcOf (pa : Nat) : Nat := 64 * (pa / 2 ^ 36 % 2) + 2 * channelOf pa + pseudoOf pa

/-- The owner of a global line: its home L2 slice (R421). -/
def sliceOwner (pa : Nat) : Nat := homeDie pa * 64 + sliceOf pa

/-! ## Lines at their home -/

def State.metaOf (s : State) (line : Nat) : LineMeta := (look s.lineMeta line).getD ⟨7, 0, 0⟩

/-- A release, an atomic or a RED writes the three fields for its agent (R215). -/
def State.setMeta (s : State) (line scope die cluster : Nat) : State :=
  let m : LineMeta := ⟨BitVec.ofNat 3 scope, BitVec.ofNat 3 die, BitVec.ofNat 6 cluster⟩
  { s with lineMeta := if m = ⟨7, 0, 0⟩ then del s.lineMeta line else put s.lineMeta line m }

/-- How often a key ID has been drawn. -/
def State.drawsOf (s : State) (key : BitVec 6) : Nat := (look s.keyDraws key.toNat).getD 0

/-- A line that was written under another key, or an earlier draw of the key, decrypts to bytes that nothing fixes (R221);
its stamp is the key and the draw. Host memory is not encrypted. -/
def State.keyFits (s : State) (line : Nat) (key : BitVec 6) : Bool :=
  hostBase ≤ line * 64 ||
  match look s.keyOf line with
  | none => true
  | some st => st = (key.toNat, s.drawsOf key)

def State.lineGarbled (s : State) (line : Nat) (key : BitVec 6) : BitVec 512 :=
  Config.garbled line ((look s.keyOf line).getD (0, 0)).2 (s.drawsOf key)

/-- `n` bytes of one line at the home, as the key reads them. -/
def State.homeBytes (s : State) (key : BitVec 6) (pa n : Nat) : List Byte :=
  if s.keyFits (pa / 64) key then s.mem.bytes pa n else lineBytes (s.lineGarbled (pa / 64) key) (pa % 64) n

/-- A write of any agent that performs on a line wakes the monitors of the line (R272). -/
def State.touch (s : State) (line : Nat) (spad : Bool) : State :=
  (s.clusters.flatMap fun c => c.2.monitors.filter fun m => m.line = line && m.spad = spad).foldl
    (fun t m => t.modSlotAt m.slotKey fun sl => { sl with armed := sl.armed.map fun _ => true }) s

/-- A write that performs on a line which the host may hold sends it a Back-Invalidate (R444). -/
def State.invalidateHost (s : State) (line : Nat) : State :=
  if s.hostHeld.contains line then { s with hostHeld := s.hostHeld.filter (· ≠ line), net := s.net ++ [.backInval line] } else s

/-- The words that a store replaces stay fetchable until the launches of its time end (R55). -/
def State.noteWords (s : State) (ws : List Nat) : State :=
  ws.foldl (fun t w => { t with oldCode := put t.oldCode w (BitVec.ofNat 32 (leNat (s.mem.bytes (4 * w) 4)), t.order) }) s

/-- The 4-byte words that `n` bytes from `pa` touch. -/
def touchedWords (pa n : Nat) : List Nat := (upTo ((pa % 4 + n + 3) / 4)).map fun i => pa / 4 + i

/-- Bytes stored within one line at its home. `tag` is the tag given to the granule of a tagged store. -/
def State.homeStore (s : State) (key : BitVec 6) (pa : Nat) (bs : List Byte) (tag : Bool) : State :=
  let line := pa / 64
  let m := if s.keyFits line key then s.mem
    else s.mem.store (64 * line) (lineBytes (s.lineGarbled line key) 0 64)
  let m := (m.store pa bs).clearTags pa bs.length
  let m := if tag then m.setTag (pa / 16) true else m
  let m := if bs.length = 64 then m.setPoison line false else m
  ({ s with mem := m,
            keyOf := if hostBase ≤ pa then s.keyOf else put s.keyOf line (key.toNat, s.drawsOf key) }).touch line false |>.invalidateHost line

/-- Bytes written within one line at its home (R224). -/
def State.homeWrite (s : State) (key : BitVec 6) (pa : Nat) (bs : List Byte) (tag : Bool) : State :=
  (s.noteWords (touchedWords pa bs.length)).homeStore key pa bs tag

/-- Runs of bytes written within one line at its home as one write (R224): each word that they touch is noted once, and a write of the whole
line clears its poison (R217). -/
def State.homeRuns (s : State) (key : BitVec 6) (line : Nat) (runs : List (Nat × List Byte × Bool)) (poison : Bool) : State :=
  let s := s.noteWords ((runs.flatMap fun r => touchedWords (64 * line + r.1) r.2.1.length).eraseDups)
  let s := runs.foldl (fun t r => t.homeStore key (64 * line + r.1) r.2.1 r.2.2) s
  if poison then { s with mem := s.mem.setPoison line true }
  else if (runs.map fun r => r.2.1.length).sum = 64 then { s with mem := s.mem.setPoison line false } else s

/-- A whole line at the home. -/
def State.homeLine (s : State) (key : BitVec 6) (line : Nat) : BitVec 512 :=
  BitVec.ofNat 512 (leNat (s.homeBytes key (64 * line) 64))

def State.homeTags (s : State) (line : Nat) : BitVec 4 :=
  BitVec.ofNat 4 (((upTo 4).map fun g => if s.mem.tag (4 * line + g) then 2 ^ g else 0).sum)

/-! ## Reductions (R265, R268) -/

/-- The integer operations of R265 on `n` bytes: 0 ADD, 1 AND, 2 OR, 3 XOR, 4 MIN, 5 MAX, 6 MINU, 7 MAXU, 8 SWAP. -/
def intOp (op n old b : Nat) : Nat :=
  let m := 2 ^ (8 * n)
  let o := old % m
  let v := b % m
  let sg (x : Nat) : Int := if 2 * x < m then (x : Int) else (x : Int) - (m : Int)
  match op with
  | 0 => (o + v) % m
  | 1 => o &&& v
  | 2 => o ||| v
  | 3 => o ^^^ v
  | 4 => if sg o ≤ sg v then o else v
  | 5 => if sg v ≤ sg o then o else v
  | 6 => if o ≤ v then o else v
  | 7 => if v ≤ o then o else v
  | _ => v

end Sys2Proof.Machine
end

