-- ==== Sys2Proof/Machine/Lines.lean ====
section
/-!
DEFINITION. Lines: update-only partials and their combination at the home (R239, R240, R268), the L1 of a core bank with byte-wise
validity and dirtiness (R207, R236), the actions of acquire and release (R236), the scope checker (R237), the merge points of the
record log (R479).
-/
namespace Sys2Proof.Machine

/-! ## Operations on memory words -/

def add32 (a b : Nat) : Nat × Flags :=
  let r := numAdd 0 (of32 a) (of32 b)
  let p := fp32 r.1
  (p.1, r.2 ||| p.2)

/-- The operations of RED (R268): 0 to 7 integer, 9 FADD, 10 FMIN, 11 FMAX. -/
def redApply (op n old v : Nat) : Nat :=
  match op with
  | 9 => (add32 old v).1
  | 10 => (minmax32 false false old v).1
  | 11 => (minmax32 true false old v).1
  | o => intOp o n old v

/-- The identity at which a partial starts (R268). -/
def redIdentity (op n : Nat) : Nat :=
  let m := 2 ^ (8 * n)
  match op with
  | 1 => m - 1
  | 4 => m / 2 - 1
  | 5 => m / 2
  | 6 => m - 1
  | 9 => 0x80000000
  | 10 => 0x7F800000
  | 11 => 0xFF800000
  | _ => 0

/-- The operations of FAMO (R267) with the flags they raise. -/
def famoApply (op old v : Nat) : Nat × Flags :=
  match op with
  | 0 => add32 old v
  | 1 => minmax32 false false old v
  | 2 => minmax32 true false old v
  | 3 => minmax32 false true old v
  | _ => minmax32 true true old v

/-! ## Homes that an agent reaches -/

/-- Whether the home of `pa` lies on another die than the agent's: what performs there is a remote operation (R421). -/
def offDie (ad pa : Nat) : Bool := homeDie pa ≠ ad

/-- Whether a read of an agent on die `ad` leaves the mesh of that die: over a die link, or over the host attach (R420). -/
def crosses (ad pa : Nat) : Bool := offDie ad pa || hostBase ≤ pa

/-- Whether the host attach works: traffic uses the modules that are up (R444). -/
def State.attachUp (s : State) : Bool := (upTo 4).any fun m => s.lanes m ≠ 0

/-- Whether the links on the way to the data of `pa` work: the die links (R9), and the host attach for host memory (R10, R444). -/
def State.homeUp (s : State) (ad pa : Nat) : Bool := s.pathUp ad (homeDie pa) && (pa < hostBase || s.attachUp)

/-! ## The core's own writes on their way to another die (R422) -/

/-- The requester of a core's write-backs and partials: slot 0 in the context whose SRAM half holds the line (R422). -/
def State.bankPart (s : State) (ck : Nat) : Nat :=
  match (s.coreBank ck).launch with
  | some l => l.1
  | none => ((s.cluster (clusterOf (ck / 2))).ctx (ck % 2)).getD 0
def State.coreReq (s : State) (ck slot : Nat) : Nat := reqId false (4 * (ck / 2) + slot) (s.bankPart ck)

/-- The line of another die that an operation of R422 writes. -/
def RemOp.onLine (op : RemOp) (line : Nat) : Bool := match op with
  | .line l _ _ _ _ _ => l = line
  | .parts l _ _ _ _ => l = line
  | _ => false

/-- The writes of the core's four slots and of its L1 to a line that have not performed. -/
def State.flight (s : State) (ck line : Nat) : List RemOp :=
  if offDie (dieOf (ck / 2)) (64 * line) then
    ((upTo 4).flatMap fun i => ((s.requester (s.coreReq ck i)).open_.map NetOp.op).filter fun op => op.onLine line) ++
      ((s.coreBank ck).skidOut.map fun m => m.op.op).filter fun op => op.onLine line
  else []

/-- A line's bytes, tags and poison with one write over them. -/
def overLine (d : BitVec 512 × BitVec 4 × Bool) (op : RemOp) : BitVec 512 × BitVec 4 × Bool :=
  match op with
  | .line _ _ _ runs poison _ =>
    runs.foldl (fun (x : BitVec 512 × BitVec 4 × Bool) r =>
      let g := ones64 (r.1 / 16) ((r.1 % 16 + r.2.1.length + 15) / 16)
      (lineSet x.1 r.1 r.2.1, (x.2.1 &&& ~~~(g.setWidth 4)) ||| (if r.2.2 then g.setWidth 4 else 0), x.2.2)) (d.1, d.2.1, d.2.2 || poison)
  | _ => d

/-- A line as its home holds it, with the core's own writes that have not performed yet: the strands of a core observe its stores before the
home does (R224). -/
def State.seenLine (s : State) (ck : Nat) (key : BitVec 6) (line : Nat) : BitVec 512 × BitVec 4 × Bool :=
  (s.flight ck line).foldl overLine (s.homeLine key line, s.homeTags line, s.mem.poison.contains line)

/-! ## Merge points and the record log (R479) -/

def rlogSize : Nat := 2097152

/-- An entry of the record log of a die, which grows from RLOGCTL.FRAME on in the order of the arrivals; the index that gives each entry its merge
point has no layout in the spec and stands beside it (log 57). -/
def State.logEntry (s : State) (d point : Nat) (w : Word) : State :=
  let pa := (s.csr d 0x4CB).extractLsb' 18 34
  let pa := pa.toNat * 2 ^ 18 + 8 * (s.die d).rlog.length
  let s := s.modDie d fun x => { x with rlog := x.rlog ++ [(point, w)] }
  if backed pa then { s with mem := (s.mem.store pa (leBytes 8 w.toNat)).clearTags pa 8 }.touch (pa / 64) false |>.invalidateHost (pa / 64)
  else s

/-- An arrival at the merge point `point` of a die from `source`. None: it is held (STALL with a full log, or a replay in which another
arrival of the log comes first). Otherwise the state with the entry logged, the replay advanced or DIVERGED set. -/
def State.merge (s : State) (d point source : Nat) : Option State :=
  let ctl := s.csr d 0x4CB
  match (ctl.extractLsb' 0 2).toNat with
  | 1 =>
    if (s.die d).rlog.length < rlogSize && s.csr d 0x4CC = 0 then
      some (s.logEntry d point ((s.now &&& 0xFFFFFFFF) ||| (BitVec.ofNat 64 source <<< 32)))
    else if ctl.getLsbD 2 then some (if s.csr d 0x4CC = 0 then s.setCsr d 0x4CC s.now else s)
    else none
  | 2 =>
    let at_ := (look (s.die d).rlogAt point).getD 0
    let seen (s : State) (n : Nat) : State := s.modDie d fun x => { x with rlogAt := put x.rlogAt point n }
    -- a point that has diverged admits arrivals in its own order
    if rlogSize ≤ at_ then some s
    else match ((s.die d).rlog.filter fun e => e.1 = point).drop at_ with
      | e :: more =>
        if (e.2 >>> 32).toNat = source then some (seen s (at_ + 1))
        else if more.any fun e => (e.2 >>> 32).toNat = source then none
        else some (seen (s.setCsr d 0x4CB (ctl ||| 8)) rlogSize)
      | [] => some (seen (s.setCsr d 0x4CB (ctl ||| 8)) rlogSize)
  | _ => some s

/-- The arrival of an L1's partials at their home: it is logged, and held by no policy, since the home recalls them for an access that waits (R239;
log 57). -/
def State.mergeParts (s : State) (core line : Nat) : State :=
  let pa := 64 * line
  (s.merge (homeDie pa) (sliceOf pa) (4 * core)).getD s

/-- The numbers of merge points: a home slice, a scratchpad word, a domain cell, a ticket pair, a stage queue, a collective node. -/
def pointSlice (pa : Nat) : Nat := sliceOf pa
def pointWord (core w : Nat) : Nat := 2 ^ 20 + core * 12288 + w
def pointCell (handle : Nat) : Nat := 2 ^ 30 + handle
def pointPair (cluster pair : Nat) : Nat := 2 ^ 31 + cluster * 64 + pair
def pointStage (cluster stage : Nat) : Nat := 2 ^ 32 + cluster * 16 + stage
def pointColl : Nat := 2 ^ 33

/-! ## Partials (R239, R240) -/

/-- One application at the home, with the metadata of its agent (R215). -/
def State.homeRed (s : State) (key : BitVec 6) (core pa n op v scope : Nat) : State :=
  let old := leNat (s.homeBytes key pa n)
  (s.homeWrite key pa (leBytes n (redApply op n old v)) false).setMeta (pa / 64) scope (dieOf core) (clusterOf core % 48)

def State.setL1 (s : State) (ck line : Nat) (v : Option L1Line) : State :=
  s.modCoreBank ck fun b => { b with l1 := match v with
    | some x => put b.l1 line x
    | none => del b.l1 line }

/-- Partials applied at the home of their line, with the poison that travels with them (R217). -/
def State.homeParts (s : State) (key : BitVec 6) (core line : Nat) (ps : List Partial) (poison : Bool) : State :=
  let s := ps.foldl (fun t p => t.homeRed key core (64 * line + p.off) p.size p.op p.value.toNat p.scope) s
  if poison then { s with mem := s.mem.setPoison line true } else s

/-- The operation that carries a write or a partial of an L1 to a home on another die (R422). -/
def homeOp (line : Nat) (op : RemOp) : NetOp :=
  { owner := sliceOwner (64 * line), op := op, va := 64 * line, home := true, line := some line }

/-- The partials of a core's U line go home and the line leaves the state U. -/
def State.sendParts (s : State) (ck line : Nat) : State :=
  match look (s.coreBank ck).l1 line with
  | none => s
  | some l =>
    if l.parts = [] then s
    else if offDie (dieOf (ck / 2)) (64 * line) then
      (s.setL1 ck line none).enqueue (s.coreReq ck 0) (homeOp line (.parts line l.key (l.mode = .so) l.parts l.poison))
    else ((s.mergeParts (ck / 2) line).homeParts l.key (ck / 2) line l.parts l.poison).setL1 ck line none

/-- The home combines a line before it serves an access other than a RED (R239 item 3), in ascending order of the cores. A recall is one step
with the access that waits for it, over a die link too (log 53). -/
def State.combine (s : State) (line : Nat) : State :=
  s.coreBanks.foldl (fun t c =>
    match look c.2.l1 line with
    | some l => if l.parts = [] then t else ((t.mergeParts (c.1 / 2) line).homeParts l.key (c.1 / 2) line l.parts l.poison).setL1 c.1 line none
    | none => t) s

/-! ## The L1 (R207, R236) -/

/-- Whether the core holds lines of the page in its L1 (R204, R207). -/
def State.cached (s : State) (ck : Nat) (pg : Page) : Bool := pg.c && (s.coreBank ck).l1Bytes ≠ 0

/-- The dirty bytes of a line as maximal runs within granules, lowest first: offset and bytes. -/
def dirtyRuns (l : L1Line) : List (Nat × List Byte × Bool) :=
  (upTo 4).flatMap fun g =>
    let whole := (upTo 16).all fun i => l.dirty.getLsbD (16 * g + i)
    if whole then [(16 * g, lineBytes l.data (16 * g) 16, l.tags.getLsbD g)]
    else (upTo 16).flatMap fun i =>
      if l.dirty.getLsbD (16 * g + i) then [(16 * g + i, lineBytes l.data (16 * g + i) 1, false)] else []

/-- The dirty bytes of a line go to its home, with their tags and poison (R217); the line stays valid and clean. To another die they go as a
stamped write (R422). -/
def State.writeBack (s : State) (ck line : Nat) : State :=
  match look (s.coreBank ck).l1 line with
  | none => s
  | some l =>
    if l.dirty = 0 then s
    else
      let t := s.setL1 ck line (some { l with dirty := 0 })
      if offDie (dieOf (ck / 2)) (64 * line) then
        t.enqueue (s.coreReq ck 0) (homeOp line (.line line l.key false (dirtyRuns l) l.poison none))
      else (t.combine line).homeRuns l.key line (dirtyRuns l) l.poison

/-- WBL (R263): dirty bytes and partials go home. -/
def State.flushLine (s : State) (ck line : Nat) : State := (s.sendParts ck line).writeBack ck line

/-- INVL and eviction: as WBL, then the line is invalid. -/
def State.dropLine (s : State) (ck line : Nat) : State := (s.flushLine ck line).setL1 ck line none

/-- Every line of the L1 goes home and leaves it (R204). -/
def State.emptyL1 (s : State) (ck : Nat) : State :=
  (s.coreBank ck).l1.foldl (fun t l => t.dropLine ck l.1) s

/-- A store to an SO page removes every L1 copy of the line (R235). -/
def State.removeCopies (s : State) (line : Nat) : State :=
  { s with coreBanks := s.coreBanks.map fun c => (c.1, { c.2 with l1 := del c.2.l1 line }) }

/-- A write of the host or of a peer, which comes through no page, removes the copies that the L1s hold of the line as one of an SO page (R235). -/
def State.removeSo (s : State) (line : Nat) : State :=
  { s with coreBanks := s.coreBanks.map fun c =>
      (c.1, { c.2 with l1 := c.2.l1.filter fun l => !(l.1 = line && l.2.mode = .so) }) }

/-- Room for one more line: replacement is not architectural (R206); the first line leaves. -/
def State.makeRoom (s : State) (ck line : Nat) : State :=
  let b := s.coreBank ck
  if (look b.l1 line).isSome || 64 * b.l1.length < b.l1Bytes then s
  else match b.l1 with
    | (k, _) :: _ => s.dropLine ck k
    | [] => s

def State.countMiss (s : State) (ck : Nat) : State :=
  s.modCore (ck / 2) fun c => { c with counters := c.counters.set 8 (c.counters[8] + 1) }

/-- The line as the core holds it after a fill: missing bytes come from the home and merge with the dirty ones. -/
def State.fill (s : State) (ck line : Nat) (pg : Page) : State :=
  match look (s.coreBank ck).l1 line with
  | some l =>
    if l.parts = [] && l.valid = BitVec.allOnes 64 then s
    else
      let s := (s.countMiss ck).combine line
      let (data, home, poison) := s.seenLine ck pg.key line
      match look (s.coreBank ck).l1 line with
      | some l =>
        let tags := BitVec.ofNat 4 (((upTo 4).map fun g =>
          let dirty := (upTo 16).any fun i => l.dirty.getLsbD (16 * g + i)
          if (if dirty then l.tags.getLsbD g else home.getLsbD g) then 2 ^ g else 0).sum)
        s.setL1 ck line (some { l with
          data := lineMerge l.valid l.data data, valid := BitVec.allOnes 64, tags := tags, poison := l.poison || poison })
      | none => s.setL1 ck line (some ⟨pg.mode, data, BitVec.allOnes 64, 0, home, poison, pg.key, []⟩)
  | none =>
    let s := ((s.countMiss ck).makeRoom ck line).combine line
    let (data, home, poison) := s.seenLine ck pg.key line
    s.setL1 ck line (some ⟨pg.mode, data, BitVec.allOnes 64, 0, home, poison, pg.key, []⟩)

/-- The copy of a line that the core holds, brought up to what its home gives, with the dirty bytes of the copy over it (R236). -/
def L1Line.refresh (l : L1Line) (home : BitVec 512 × BitVec 4 × Bool) : L1Line :=
  { l with
    data := lineMerge l.dirty l.data home.1, valid := BitVec.allOnes 64, poison := l.poison || home.2.2
    tags := BitVec.ofNat 4 (((upTo 4).map fun g =>
      let own := (upTo 16).any fun i => l.dirty.getLsbD (16 * g + i)
      if (if own then l.tags.getLsbD g else home.2.1.getLsbD g) then 2 ^ g else 0).sum) }

/-- A read of `n` bytes within one global line by the core. `atHome` for an acquire, which the home serves (R236); the core's own earlier
stores stand over what the home gives, and perform for others only when they reach it (R224, R245). -/
def State.readGlobal (s : State) (ck : Nat) (pg : Page) (pa n : Nat) (atHome : Bool) : Got × State :=
  let line := pa / 64
  if s.cached ck pg && !atHome then
    let s := s.fill ck line pg
    match look (s.coreBank ck).l1 line with
    | some l => (⟨lineBytes l.data (pa % 64) n, l.tags.getLsbD (pa % 64 / 16), l.poison⟩, s)
    | none => (⟨s.homeBytes pg.key pa n, s.mem.tag (pa / 16), s.mem.poison.contains line⟩, s)
  else
    let s := s.combine line
    match look (s.coreBank ck).l1 line, s.flight ck line with
    | none, [] => (⟨s.homeBytes pg.key pa n, s.mem.tag (pa / 16), s.mem.poison.contains line⟩, s)
    | none, _ =>
      let d := s.seenLine ck pg.key line
      (⟨lineBytes d.1 (pa % 64) n, d.2.1.getLsbD (pa % 64 / 16), d.2.2⟩, s)
    | some l, _ =>
      let l := l.refresh (s.seenLine ck pg.key line)
      (⟨lineBytes l.data (pa % 64) n, l.tags.getLsbD (pa % 64 / 16), l.poison⟩, s.setL1 ck line (some l))

/-- A store of bytes within one global line by the core (R207, R33). -/
def State.writeGlobal (s : State) (ck : Nat) (pg : Page) (pa : Nat) (bs : List Byte) (tag : Bool) : State :=
  let line := pa / 64
  if s.cached ck pg && pg.mode ≠ .so then
    let s := ((s.sendParts ck line).makeRoom ck line)
    let o := pa % 64
    let l := (look (s.coreBank ck).l1 line).getD ⟨pg.mode, 0, 0, 0, 0, false, pg.key, []⟩
    let m := ones64 o bs.length
    let touched := BitVec.ofNat 4 (((upTo 4).map fun g => if o / 16 ≤ g && g ≤ (o + bs.length - 1) / 16 then 2 ^ g else 0).sum)
    let tags := (l.tags &&& ~~~touched) ||| (if tag then touched else 0)
    s.setL1 ck line (some { l with
      mode := pg.mode, data := lineSet l.data o bs, valid := l.valid ||| m, dirty := l.dirty ||| m, tags := tags,
      poison := l.poison && bs.length ≠ 64 })
  else
    let s := if pg.mode = .so then s.combine line |>.removeCopies line else s.combine line
    s.homeWrite pg.key pa bs tag

/-- RED on a global line (R239): a partial in the L1, or the location itself for an SO or uncached page. -/
def State.redGlobal (s : State) (ck : Nat) (pg : Page) (pa n op v scope : Nat) : State :=
  let line := pa / 64
  if s.cached ck pg && pg.mode ≠ .so then
    let s := match look (s.coreBank ck).l1 line with
      | some l => if l.parts = [] then s.dropLine ck line else s
      | none => s.makeRoom ck line
    let l := (look (s.coreBank ck).l1 line).getD ⟨pg.mode, 0, 0, 0, 0, false, pg.key, []⟩
    let fresh : Bool := l.parts.all fun p => !(p.off = pa % 64 && p.size = n && p.op = op)
    let clash : Bool := l.parts.any fun p => !(p.off = pa % 64 && p.size = n && p.op = op) &&
      p.off < pa % 64 + n && pa % 64 < p.off + p.size
    if clash then
      -- another operation or width on the same bytes: the older partial goes home first
      let s := s.sendParts ck line
      s.setL1 ck line (some ⟨pg.mode, 0, 0, 0, 0, false, pg.key,
        [⟨pa % 64, n, op, scope, BitVec.ofNat 64 (redApply op n (redIdentity op n) v)⟩]⟩)
    else if fresh then
      s.setL1 ck line (some { l with
        parts := l.parts ++ [⟨pa % 64, n, op, scope, BitVec.ofNat 64 (redApply op n (redIdentity op n) v)⟩] })
    else
      s.setL1 ck line (some { l with parts := l.parts.map fun p =>
        if p.off = pa % 64 && p.size = n && p.op = op
        then { p with scope := scope, value := BitVec.ofNat 64 (redApply op n p.value.toNat v) } else p })
  else
    let s := (s.combine line)
    let s := if pg.mode = .so then s.removeCopies line else s
    s.homeRed pg.key (ck / 2) pa n op v scope

/-! ## Acquire and release (R236) -/

/-- The release actions of cluster scope or wider on one core: dirty RC lines and all partials go home; UO lines too for FENCE ALL. -/
def State.releaseL1 (s : State) (ck : Nat) (all : Bool) : State :=
  (s.coreBank ck).l1.foldl (fun t l =>
    if l.2.mode = .rc || all then t.flushLine ck l.1 else t.sendParts ck l.1) s

/-- The acquire actions of cluster scope or wider: clean RC lines are invalidated, clean bytes of dirty ones discarded. -/
def State.acquireL1 (s : State) (ck : Nat) (all : Bool) : State :=
  s.modCoreBank ck fun b => { b with l1 := b.l1.filterMap fun l =>
    if l.2.parts ≠ [] || !(l.2.mode = .rc || all) then some l
    else if l.2.dirty = 0 then none else some (l.1, { l.2 with valid := l.2.dirty }) }

/-- Actions at a scope: core scope has none on the L1. -/
def State.releaseAt (s : State) (ck scope : Nat) (all : Bool := false) : State := if scope = 0 then s else s.releaseL1 ck all
def State.acquireAt (s : State) (ck scope : Nat) (all : Bool := false) : State := if scope = 0 then s else s.acquireL1 ck all

/-! ## The scope checker (R237) -/

/-- Whether the position (die, cluster within the die) lies in the scope-`sc` instance of another. -/
def scopeOk (sc d1 c1 d2 c2 : Nat) : Bool := 3 ≤ sc || (d1 = d2 && (sc = 2 || c1 = c2))

/-- Whether an acquire of the core at scope `sc` passes against the metadata of the line. -/
def State.scopeCheck (s : State) (line core sc : Nat) : Bool :=
  let m := s.metaOf line
  let d := dieOf core
  let c := clusterOf core % 48
  m.scope = 7 ||
    (scopeOk m.scope.toNat d c m.odie.toNat m.oclus.toNat && scopeOk sc m.odie.toNat m.oclus.toNat d c)

end Sys2Proof.Machine
end

