-- ==== Sys2Proof/Machine/Translate.lean ====
section
/-!
DEFINITION. Addresses: the windows (R201 to R203, R280, R288), the page walk and the TLBs (R208 to R212), keys (R487), straddles
(R213), and the pieces that an access performs on.
-/
namespace Sys2Proof.Machine

/-- The access kinds of R210. -/
inductive Access
  | load
  | store
  | fetch
  | amo
  | stcTagged
deriving DecidableEq, Repr

/-- How resolving an address fails: ALIGNMENT of R213 across regions, PAGE_NOT_PRESENT, PAGE_PERMISSION, and two pages whose attributes
differ (R213). -/
inductive PFault
  | align
  | notPresent
  | permission
  | attr
deriving DecidableEq, Repr

/-! ## Page-table entries (R209) -/

def pteV (e : Word) : Bool := e.getLsbD 0
def pteB (e : Word) : Bool := e.getLsbD 1
def pteModeBits (e : Word) : Nat := (e.extractLsb' 2 2).toNat
def pteMode (e : Word) : PageMode := match pteModeBits e with
  | 0 => .so
  | 1 => .rc
  | _ => .uo
def pteKey (e : Word) : BitVec 6 := e.extractLsb' 11 6
def pteFrame (e : Word) : Nat := (e.extractLsb' 18 34).toNat
def ptePage (e : Word) : Page := ⟨pteKey e, pteMode e, e.getLsbD 4, e.getLsbD 9⟩
/-- The attribute bits that R213 compares: MODE, C, RD, WR, EX, TG, KEY. -/
def pteAttrs (e : Word) : Word := e &&& 0x1FBDC

/-- The rights of R210. -/
def pteAllows (e : Word) (acc : Access) : Bool :=
  let rd := e.getLsbD 6
  let wr := e.getLsbD 7
  match acc with
  | .load => rd
  | .store => wr
  | .fetch => e.getLsbD 8
  | .amo => rd && wr
  | .stcTagged => wr && e.getLsbD 9

/-! ## Walk (R210, R212) -/

/-- On whose behalf an access is made: the cluster whose TLB it uses (none for the engines of a die), the die, the core bank whose
windows it names, the partition, and whether it goes through the L1 of the core. -/
structure Via where
  cl : Option Nat
  die : Nat
  ck : Nat
  part : Nat
  l1 : Bool
deriving DecidableEq, Repr

def TlbEntry.covers (e : TlbEntry) (part va : Nat) : Bool :=
  e.part = part && (if e.block then va / 2 ^ 33 = e.vpn else va / 2 ^ 18 = e.vpn)

def TlbEntry.pa (e : TlbEntry) (va : Nat) : Nat :=
  if e.block then pteFrame e.entry / 2 ^ 15 * 2 ^ 33 + va % 2 ^ 33 else pteFrame e.entry * 2 ^ 18 + va % 2 ^ 18

/-- Whether a key ID is held by every base die (R487). -/
def State.keyHeld (s : State) (key : BitVec 6) : Bool := (upTo 8).all fun d => (s.die d).keys.getLsbD key.toNat

/-- phys_load64 at the home L2 of the table; none where the table is unbacked or its home is out of reach (R422). -/
def State.physLoad64 (s : State) (ad pa : Nat) : Option Word × State :=
  if backed pa && s.homeUp ad pa then
    let s := s.combine (pa / 64)
    (some (BitVec.ofNat 64 (leNat (s.mem.bytes pa 8))), s)
  else (none, s)

def State.ptWalk (s : State) (ad part va : Nat) : Option TlbEntry × State :=
  let base := (s.part part).ptBase
  match s.physLoad64 ad (pteFrame base * 2 ^ 18 + va / 2 ^ 33 % 2 ^ 15 * 8) with
  | (none, s) => (none, s)
  | (some e1, s) =>
    if !pteV e1 then (none, s)
    else if pteB e1 then (some ⟨part, va / 2 ^ 33, true, e1⟩, s)
    else match s.physLoad64 ad (pteFrame e1 * 2 ^ 18 + va / 2 ^ 18 % 2 ^ 15 * 8) with
      | (none, s) => (none, s)
      | (some e, s) => if pteV e then (some ⟨part, va / 2 ^ 18, false, e⟩, s) else (none, s)

/-- A TLB takes an entry; the oldest leaves when it is full. -/
def tlbAdd (size : Nat) (t : List TlbEntry) (e : TlbEntry) : List TlbEntry :=
  (if t.length < size then t else t.drop 1) ++ [e]

/-- The valid entry for an address through the TLBs; a failed walk is not cached (R212). -/
def State.walk (s : State) (v : Via) (va : Nat) : Option TlbEntry × State :=
  let hit (t : List TlbEntry) := t.find? fun e => e.covers v.part va
  match v.cl.bind fun c => hit (s.cluster c).tlb with
  | some e => (some e, s)
  | none =>
    let s := match v.cl with
      | some c => s.modCluster c fun x => { x with counters := x.counters.set 0 (x.counters[0] + 1) }
      | none => s
    let r : Option TlbEntry × State := match hit (s.die v.die).tlb with
      | some e => (some e, s)
      | none =>
        match s.ptWalk v.die v.part va with
        | (some e, s) =>
          if pteModeBits e.entry = 3 || !backed (e.pa va) then (none, s)
          else (some e, s.modDie v.die fun x => { x with tlb := tlbAdd 4096 x.tlb e })
        | (none, s) => (none, s)
    match r.1, v.cl with
    | some e, some c => (some e, r.2.modCluster c fun x => { x with tlb := tlbAdd 512 x.tlb e })
    | o, _ => (o, r.2)

/-- The entry that an access to `va` uses, before the checks of key and rights: none for PAGE_NOT_PRESENT (R210, R211, R487). -/
def State.entryFor (s : State) (v : Via) (va : Nat) : Option TlbEntry × State :=
  if !(s.part v.part).ptBase.getLsbD 0 then (none, s)
  else
    match s.walk v va with
    | (some e, s) => (if backed (e.pa va) && s.keyHeld (pteKey e.entry) then some e else none, s)
    | (none, s) => (none, s)

/-- The last checks of R210. -/
def State.permits (s : State) (part : Nat) (e : TlbEntry) (acc : Access) : Bool :=
  pteKey e.entry = (s.part part).pkeyId && pteAllows e.entry acc

/-- translate of R210 for one address. -/
def State.translate (s : State) (v : Via) (va : Nat) (acc : Access) : Except PFault (Nat × Page) × State :=
  match s.entryFor v va with
  | (none, s) => (.error .notPresent, s)
  | (some e, s) => (if s.permits v.part e acc then .ok (e.pa va, ptePage e.entry) else .error .permission, s)

/-! ## Windows (R201 to R203, R280, R288) -/

def localBase : Nat := 0xFF0000000000
def clusterBase : Nat := 0xFF0100000000
def engineBase : Nat := 0xFF0200000000
def setBase : Nat := 0xFF0200010000
def sliceSize : Nat := 0x18000

/-- The region of R201 that holds an address. -/
inductive Region
  | memory
  | localW
  | clusterW
  | engine
  | reserved
deriving DecidableEq, Repr

def regionOf (va : Nat) : Region :=
  if va < localBase then .memory
  else if va < localBase + sliceSize then .localW
  else if clusterBase ≤ va && va < clusterBase + 48 * sliceSize then .clusterW
  else if engineBase ≤ va && va < engineBase + 2 ^ 16 * 2 ^ 16 then .engine
  else .reserved

/-- `n` bytes at offset `o` of the scratchpad of a core, as the context in bank `bank` finds them from core `from_`: none for
PAGE_NOT_PRESENT (R203, R387, R390). -/
def State.window (s : State) (bank from_ core o n : Nat) : Option Nat :=
  let b := s.coreBank (bankKey core bank)
  let c := s.core core
  let hidden : Bool := match c.twin with
    | some (p, false) => from_ ≠ core && from_ ≠ p
    | _ => false
  if b.launch = none || b.spad < o + n || c.stopped || hidden then none
  else some (core * sliceSize + b.spadBase + o)

/-- The fault of an access of the engine windows that is no load of the timeline set and no command (R280, R281, R288). -/
def engineFault (va size : Nat) : PFault :=
  if va + size ≤ engineBase + 64 then .permission
  else if setBase ≤ va && va + size ≤ setBase + 0x8008 then .permission
  else .notPresent

/-- The first byte's piece and the rest, cut at a 64-byte line. -/
def cutLine (va size : Nat) : List (Nat × Nat) :=
  let n := 64 - va % 64
  if size ≤ n then [(va, size)] else [(va, n), (va + n, size - n)]

/-- Pieces of an access within the windows; every part is checked before any performs (R213). -/
def State.windowPieces (s : State) (bank from_ : Nat) (parts : List (Nat × Nat × Nat)) : Except PFault (List Piece) :=
  match parts with
  | [] => .ok []
  | (core, o, n) :: r =>
    match s.window bank from_ core o n, s.windowPieces bank from_ r with
    | some a, .ok ps => .ok (⟨.spad a, n⟩ :: ps)
    | _, _ => .error .notPresent

/-- An access of at most 64 bytes: the pieces it performs on, in ascending order, or the fault (R201, R210, R213). -/
def State.resolve (s : State) (v : Via) (va size : Nat) (acc : Access) : Except PFault (List Piece) × State :=
  let core := v.ck / 2
  let bank := v.ck % 2
  let last := va + size - 1
  if regionOf va ≠ regionOf last then (.error .align, s)
  else match regionOf va with
    | .reserved => (.error .notPresent, s)
    | .engine => (.error (engineFault va size), s)
    | .localW =>
      (s.windowPieces bank core ((cutLine va size).map fun p => (core, p.1 - localBase, p.2)), s)
    | .clusterW =>
      let first := clusterOf core * 48
      (s.windowPieces bank core ((cutLine va size).map fun p =>
        (first + (p.1 - clusterBase) / sliceSize, (p.1 - clusterBase) % sliceSize, p.2)), s)
    | .memory =>
      if va / 2 ^ 18 = last / 2 ^ 18 then
        match s.translate v va acc with
        | (.error e, s) => (.error e, s)
        | (.ok (pa, pg), s) => (.ok ((cutLine va size).map fun p => ⟨.mem (pa + (p.1 - va)) pg, p.2⟩), s)
      else
        match s.entryFor v va with
        | (none, s) => (.error .notPresent, s)
        | (some e1, s) =>
          match s.entryFor v last with
          | (none, s) => (.error .notPresent, s)
          | (some e2, s) =>
            let n := 64 - va % 64
            if pteAttrs e1.entry ≠ pteAttrs e2.entry then (.error .attr, s)
            else if !s.permits v.part e1 acc then (.error .permission, s)
            else (.ok [⟨.mem (e1.pa va) (ptePage e1.entry), n⟩, ⟨.mem (e2.pa (va + n)) (ptePage e2.entry), size - n⟩], s)

/-! ## Performing on pieces -/

/-- Whether a read of the pieces leaves the die: an L1 that holds the bytes serves them (R422). -/
def State.readCrosses (s : State) (v : Via) (ps : List Piece) (atHome : Bool) : Bool :=
  ps.any fun p => match p.loc with
    | .spad _ => false
    | .mem pa pg =>
      crosses v.die pa &&
      !(v.l1 && !atHome && s.cached v.ck pg && (match look (s.coreBank v.ck).l1 (pa / 64) with
        | some l => l.parts = [] && l.valid = BitVec.allOnes 64
        | none => false))

/-- Whether the homes of the pieces are in reach. -/
def State.piecesUp (s : State) (v : Via) (ps : List Piece) : Bool :=
  ps.all fun p => match p.loc with
    | .spad _ => true
    | .mem pa _ => s.homeUp v.die pa

def State.spadPoisoned (s : State) (a n : Nat) : Bool := s.spad.poison.any fun w => a / 8 ≤ w && w ≤ (a + n - 1) / 8

/-- A read of one piece. -/
def State.readPiece (s : State) (v : Via) (p : Piece) (atHome : Bool) : Got × State :=
  match p.loc with
  | .spad a => (⟨s.spad.bytes a p.n, s.spad.tag (a / 16), s.spadPoisoned a p.n⟩, s)
  | .mem pa pg =>
    if v.l1 then s.readGlobal v.ck pg pa p.n atHome
    else
      let s := s.combine (pa / 64)
      (⟨s.homeBytes pg.key pa p.n, s.mem.tag (pa / 16), s.mem.poison.contains (pa / 64)⟩, s)

/-- Bytes written in a scratchpad; a write that covers a whole word clears its poison (R217). -/
def State.spadWrite (s : State) (a : Nat) (bs : List Byte) (tag : Bool) : State :=
  let m := (s.spad.store a bs).clearTags a bs.length
  let m := if tag then m.setTag (a / 16) true else m
  let m := { m with poison := m.poison.filter fun w => !(a ≤ 8 * w && 8 * w + 8 ≤ a + bs.length) }
  ({ s with spad := m }).touch (a / 64) true

/-- The twin that also receives what `writer` sends to the scratchpad of `core`: what reaches a primary from outside its pair reaches
both (R390). -/
def State.mirror (s : State) (writer core : Nat) : Option Nat :=
  match (s.core core).twin with
  | some (t, true) => if writer = core || writer = t then none else some t
  | _ => none

/-- A write of core `writer` in a scratchpad. -/
def State.spadWriteFrom (s : State) (writer a : Nat) (bs : List Byte) (tag : Bool) : State :=
  let s' := s.spadWrite a bs tag
  match s.mirror writer (a / sliceSize) with
  | some t => s'.spadWrite (t * sliceSize + a % sliceSize) bs tag
  | none => s'

/-- A write of one piece. -/
def State.writePiece (s : State) (v : Via) (p : Piece) (bs : List Byte) (tag : Bool) : State :=
  match p.loc with
  | .spad a => s.spadWriteFrom (v.ck / 2) a bs tag
  | .mem pa pg =>
    if v.l1 then s.writeGlobal v.ck pg pa bs tag
    else
      let s := s.combine (pa / 64)
      let s := if pg.mode = .so then s.removeCopies (pa / 64) else s
      s.homeWrite pg.key pa bs tag

def State.readPieces (s : State) (v : Via) (ps : List Piece) (atHome : Bool) : Got × State :=
  match ps with
  | [] => (⟨[], false, false⟩, s)
  | p :: r =>
    let (g, s) := s.readPiece v p atHome
    let (h, s) := s.readPieces v r atHome
    (⟨g.bytes ++ h.bytes, g.tag, g.poison || h.poison⟩, s)

def State.writePieces (s : State) (v : Via) (ps : List Piece) (bs : List Byte) (tag : Bool) : State :=
  match ps with
  | [] => s
  | p :: r => (s.writePiece v p (bs.take p.n) tag).writePieces v r (bs.drop p.n) tag

end Sys2Proof.Machine
end

