-- ==== Sys2Proof/Machine/Operands.lean ====
section
/-!
DEFINITION. Operands: register views (R19, R20), queue registers (R24 to R26), predicates and guards (R28), capabilities (R29 to R35,
R74, R75), offsets and literals (R50), the register checks (R22, R23, R67) and what instructions wait for before they act
(R386, R228 note 6).
-/
namespace Sys2Proof

/-! ## Capabilities (R29, R30, R32, R74, R75) -/

def Cap.base (c : Cap) : Nat := (c.val.extractLsb' 48 48).toNat
def Cap.len (c : Cap) : Nat := (c.val.extractLsb' 96 20).toNat * 2 ^ (c.val.extractLsb' 116 5).toNat
def Cap.top (c : Cap) : Nat := c.base + c.len
def Cap.perm (c : Cap) : BitVec 7 := c.val.extractLsb' 121 7
def Cap.cursor (c : Cap) : Nat := (c.val.extractLsb' 0 48).toNat
/-- The capability with another cursor, modulo 2^48; the tag is kept (R31). -/
def Cap.setCursor (c : Cap) (v : BitVec 48) : Cap := { c with val := c.val.extractLsb' 48 80 ++ v }
def Cap.withCursor (c : Cap) (i : Int) : Cap := c.setCursor (BitVec.ofInt 48 i)

/-- A capability from its fields (R29). -/
def mkCap (tag : Bool) (perm : BitVec 7) (e : BitVec 5) (m : BitVec 20) (base cursor : BitVec 48) : Cap :=
  ⟨perm ++ e ++ m ++ base ++ cursor, tag⟩

/-! ## Offsets and lengths of forms -/

/-- The signed offset of an entry whose literal replaces imm16 (R50). -/
def MForm.off (f : MForm) : Int :=
  match f.lit with
  | some l => l.toInt
  | none => f.imm.toInt

/-- The signed imm16 where a literal replaces b. -/
def MForm.immOff (f : MForm) : Int := f.imm.toInt

def MForm.len (f : MForm) : Nat := if f.lit.isSome then 12 else 8

/-- An M form with nothing but its registers: what an S form aliases (R44). -/
def MForm.plain (ext d a b : BitVec 5) : MForm := ⟨ext, b, a, d, 0, 0, false, false, false, 0, none⟩

end Sys2Proof

namespace Sys2Proof.Machine

/-! ## Registers and predicates -/

/-- g0 reads as the untagged zero (R20). -/
def Slot.reg (sl : Slot) (r : BitVec 5) : Cap := if r = 0 then Cap.zero else sl.regs.get r.toFin

/-- A write to g0 is discarded (R20). -/
def Slot.setReg (sl : Slot) (r : BitVec 5) (v : Cap) : Slot :=
  if r = 0 then sl else { sl with regs := sl.regs.set r.toNat v r.isLt }

/-- p0 reads as true (R28). -/
def Slot.pred (sl : Slot) (k : BitVec 3) : Bool := k = 0 || sl.preds.getLsbD k.toNat

/-- A write to p0 is discarded (R28). -/
def Slot.setPred (sl : Slot) (k : BitVec 3) (v : Bool) : Slot :=
  if k = 0 then sl
  else { sl with preds := if v then sl.preds ||| ((1 : BitVec 8) <<< k.toNat) else sl.preds &&& ~~~((1 : BitVec 8) <<< k.toNat) }

def State.reg (s : State) (r : BitVec 5) : Cap := s.sl.reg r
def State.setReg (s : State) (r : BitVec 5) (v : Cap) : State := s.modSl fun sl => sl.setReg r v
def State.setPred (s : State) (k : BitVec 3) (v : Bool) : State := s.modSl fun sl => sl.setPred k v
/-- Sticky flags: hardware sets and never clears them (R38). -/
def State.addFlags (s : State) (f : Flags) : State := s.modSl fun sl => { sl with fstat := sl.fstat ||| f }

/-- The guard of word 1 (R28, R49). -/
def State.guard (s : State) (f : MForm) : Bool := s.sl.pred f.pred != f.neg

/-! ## Checks of capabilities (R32, R75) -/

/-- Permission bits, as perm(c) numbers them: 6 L, 5 S, 4 LC, 3 SC, 2 X, 1 E, 0 F (R29, R76). -/
def pL : BitVec 7 := 64
def pS : BitVec 7 := 32
def pLC : BitVec 7 := 16
def pSC : BitVec 7 := 8
def pX : BitVec 7 := 4
def pE : BitVec 7 := 2
def pF : BitVec 7 := 1

/-- encode_len of R75: the smallest e with ceil(L / 2^e) at most 0xFFFFF. -/
def encodeLenGo (len : Nat) (fuel e : Nat) : Option (Nat × Nat) :=
  match fuel with
  | 0 => none
  | k + 1 =>
    let m := (len + 2 ^ e - 1) / 2 ^ e
    if m ≤ 0xFFFFF then some (m, e) else encodeLenGo len k (e + 1)

def encodeLen (len : Nat) : Option (Nat × Nat) := encodeLenGo len 32 0

/-- Trap causes (R380). -/
def cIllegal : Nat := 0x01
def cRegister : Nat := 0x02
def cTag : Nat := 0x03
def cBounds : Nat := 0x04
def cPerm : Nat := 0x05
def cMonotonic : Nat := 0x06
def cAlign : Nat := 0x07
def cNotPresent : Nat := 0x08
def cPermission : Nat := 0x09
def cStoreFault : Nat := 0x0A
def cScope : Nat := 0x0B
def cType : Nat := 0x0C
def cSoftware : Nat := 0x10
def cBreak : Nat := 0x11
def cWatchdog : Nat := 0x12
def cUnknown : Nat := 0x13

/-- cap_check of R32: the cause of the trap, if any. -/
def capCheck (c : Cap) (ea : Int) (size : Nat) (perm : BitVec 7) : Option Nat :=
  if !c.tag then some cTag
  else if c.perm &&& perm ≠ perm then some cPerm
  else if ea < c.base || (c.top : Int) < ea + size then some cBounds
  else none

/-- The value that a trap record's ADDR or an address computation keeps of an unbounded ea. -/
def eaNat (ea : Int) : Nat := (ea % (2 ^ 64 : Nat)).toNat

/-! ## Queues (R24, R25) -/

/-- The register count that the kernel header declares (R22, R157). -/
def State.regCount (s : State) : Nat := s.myHeader.regs

/-- Whether a register number names an enabled queue (R24). -/
def Slot.isQueue (sl : Slot) (r : BitVec 5) : Bool := 28 ≤ r.toNat && sl.qmap.getLsbD (r.toNat - 28)

def State.queue (s : State) (ck q : Nat) : List QEnt := (s.coreBank ck).queues[q % 4]'(Nat.mod_lt _ (by decide))
def State.setQueue (s : State) (ck q : Nat) (v : List QEnt) : State :=
  s.modCoreBank ck fun b => { b with queues := b.queues.set (q % 4) v (Nat.mod_lt _ (by decide)) }

/-- A queue number when the field is a source that names an enabled queue. -/
def Slot.popOf (sl : Slot) (role : Role) (r : BitVec 5) : List Nat :=
  if role = .src && sl.isQueue r then [r.toNat - 28] else []

/-- The roles of the fields of an opcode. -/
def rolesOf (op : Nat) (f : MForm) : Spec := (specOf op f).getD { d := .none, a := .none, b := .none, field := false }

/-- The queues an instruction pops: a, then b (R25). That a d which is a source pops last is a DESIGN CHOICE: R25 does not place it (log 58). -/
def Slot.pops (sl : Slot) (op : Nat) (f : MForm) : List Nat :=
  let r := rolesOf op f
  sl.popOf r.a f.a ++ sl.popOf (r.bRole f) f.b ++ sl.popOf r.d f.d

/-- The queue an instruction pushes. -/
def Slot.push (sl : Slot) (op : Nat) (f : MForm) : Option Nat :=
  if (rolesOf op f).d = .dst && sl.isQueue f.d then some (f.d.toNat - 28) else none

def countOf (q : Nat) (l : List Nat) : Nat := (l.filter (· = q)).length

/-- R25 item 3: every popped queue holds enough entries, and every pushed queue has a free entry after the pops. A reserved place is no
entry to pop until its value has come. -/
def State.queuesReady (s : State) (pops : List Nat) (push : Option Nat) : Bool :=
  pops.all (fun q => countOf q pops ≤ ((s.queue s.myCoreKey q).takeWhile fun e => e.owner = none).length) &&
  (match push with
   | some q => (s.queue s.myCoreKey q).length - countOf q pops < 8
   | none => true)

/-- Whether an entry to be popped is poisoned: the core consumes it into a register (R216, R217). -/
def State.popsPoison (s : State) (pops : List Nat) : Bool :=
  pops.any fun q => ((s.queue s.myCoreKey q).take (countOf q pops)).any fun e => e.poison

/-- The entries leave their queues in order (R26). -/
def State.popQueues (s : State) (ck : Nat) (pops : List Nat) : State :=
  pops.foldl (fun t q => t.setQueue ck q ((t.queue ck q).drop 1)) s

/-- An instruction that issues and then waits: its pops take effect, and its push reserves a place (R25 item 4). -/
def State.issueQueues (s : State) (ck : Nat) (pops : List Nat) (push : Option Nat) : State :=
  let taken := pops.foldl (fun (r : List (Nat × Cap) × State) q =>
    (r.1 ++ [(q, (((r.2.queue ck q).head?).map QEnt.cap).getD Cap.zero)], r.2.setQueue ck q ((r.2.queue ck q).drop 1))) ([], s)
  let t := taken.2
  let t := match push with
    | some q => t.setQueue ck q (t.queue ck q ++ [(⟨Cap.zero, some s.me, false⟩ : QEnt)])
    | none => t
  t.modSl fun sl => { sl with issued := true, popped := taken.1 }

/-- A precise trap, or the end of the strand, leaves every queue unchanged: entries popped by the waiting instruction of a slot return to the
front, and its reserved place goes (R25 item 4). -/
def State.giveBack (s : State) (k : Nat) : State :=
  let sl := s.slotAt k
  if !sl.issued then s
  else
    let ck := bankKey (k / 8) (k % 2)
    let t := sl.popped.reverse.foldl (fun (t : State) e => t.setQueue ck e.1 ((⟨e.2, none, false⟩ : QEnt) :: t.queue ck e.1)) s
    let t := (upTo 4).foldl (fun (t : State) q => t.setQueue ck q ((t.queue ck q).filter fun e => e.owner ≠ some k)) t
    t.modSlotAt k fun sl => { sl with issued := false, popped := [] }

/-- The n-th entry that the instruction pops from queue `q`: one taken at issue, or one at the front of the queue. -/
def State.entryAt (s : State) (q n : Nat) : Cap :=
  if s.sl.issued then ((s.sl.popped.filter fun e => e.1 = q)[n]?.map Prod.snd).getD Cap.zero
  else ((s.queue s.myCoreKey q)[n]?.map QEnt.cap).getD Cap.zero

/-- The value of a field: a register, or the entry of a queue after those that earlier fields pop. -/
def State.fieldValue (s : State) (before : List Nat) (role : Role) (r : BitVec 5) : Cap :=
  if role = .src && s.sl.isQueue r then s.entryAt (r.toNat - 28) (countOf (r.toNat - 28) before)
  else s.reg r

/-- What an instruction reads: a, b (or the literal that replaces it), and the old d. -/
structure Opnds where
  a : Cap
  b : Cap
  d : Cap
deriving DecidableEq, Repr

/-- The literal that replaces b: sign-extended (R50). -/
def litCap (l : BitVec 32) : Cap := Cap.ofWord (l.signExtend 64)

def State.operands (s : State) (op : Nat) (f : MForm) : Opnds :=
  let r := rolesOf op f
  let pa := s.sl.popOf r.a f.a
  let pb := s.sl.popOf (r.bRole f) f.b
  { a := s.fieldValue [] r.a f.a
    b := match f.lit, r.lit with
      | some l, .b => litCap l
      | _, _ => s.fieldValue pa (r.bRole f) f.b
    d := s.fieldValue (pa ++ pb) r.d f.d }

/-- The value of a source field as the decode checks may read it: nothing where the register does not exist or its queue has no entry for
the instruction yet (R22, R25). -/
def State.knownField (s : State) (before : List Nat) (role : Role) (r : BitVec 5) : Option Cap :=
  let q := r.toNat - 28
  if role = .src && s.sl.isQueue r then
    if s.sl.issued then ((s.sl.popped.filter fun e => e.1 = q)[countOf q before]?).map Prod.snd
    else (((s.queue s.myCoreKey q).takeWhile fun e => e.owner = none)[countOf q before]?).map QEnt.cap
  else if s.regCount ≤ r.toNat then none
  else some (s.reg r)

/-- What is known of a, of b and of a d that is a source, each by itself: a check of R183, R37 or R307 on one field does not wait on the
register check of another (R42). -/
def State.knownA (s : State) (op : Nat) (f : MForm) : Option Cap := s.knownField [] (rolesOf op f).a f.a
def State.knownB (s : State) (op : Nat) (f : MForm) : Option Cap :=
  let r := rolesOf op f
  match f.lit, r.lit with
  | some l, .b => some (litCap l)
  | _, _ => s.knownField (s.sl.popOf r.a f.a) (r.bRole f) f.b
def State.knownD (s : State) (op : Nat) (f : MForm) : Option Cap :=
  let r := rolesOf op f
  s.knownField (s.sl.popOf r.a f.a ++ s.sl.popOf (r.bRole f) f.b) r.d f.d

/-- A result into d: a register, or a push of an enabled queue (R19, R25). -/
def State.writeD (s : State) (d : BitVec 5) (v : Cap) : State :=
  if s.sl.isQueue d then
    let q := s.queue s.myCoreKey (d.toNat - 28)
    s.setQueue s.myCoreKey (d.toNat - 28)
      (if q.any fun e => e.owner = some s.me then q.map fun e => if e.owner = some s.me then ⟨v, none, false⟩ else e
       else q ++ [⟨v, none, false⟩])
  else s.setReg d v

/-- write_data of R66. -/
def State.writeData (s : State) (d : BitVec 5) (v : Word) : State := s.writeD d (Cap.ofWord v)

/-! ## Register checks (R42 item 4) -/

/-- Whether a field breaks R22, R23, R67, R127, R139, R188 or R255. -/
def Slot.badReg (sl : Slot) (count : Nat) (role : Role) (r : BitVec 5) : Bool :=
  let n := r.toNat
  let q (i : Nat) : Bool := 28 ≤ i && sl.qmap.getLsbD (i - 28)
  match role with
  | .src => !q n && count ≤ n
  | .dst => !q n && count ≤ n
  | .rw => q n || count ≤ n
  | .reg => q n || count ≤ n
  | .group => n % 4 ≠ 0 || count ≤ n + 3 || q n || q (n + 1) || q (n + 2) || q (n + 3)
  | .pair => q n || q (n + 1) || count ≤ n + 1
  | .evenPair => n % 2 = 1 || q n || q (n + 1) || count ≤ n + 1
  | _ => false

/-- Whether an instruction raises ILLEGAL_REGISTER. -/
def State.regBad (s : State) (op : Nat) (f : MForm) : Bool :=
  let r := rolesOf op f
  let bad (role : Role) (x : BitVec 5) : Bool := s.sl.badReg s.regCount role x
  bad r.d f.d || bad r.a f.a || bad (r.bRole f) f.b || (r.e && bad .reg f.ext)

/-! ## What an instruction waits for (R386, R228 note 6) -/

def moOrdF (f : MForm) : Nat := moOrd f.typ
def moScopeF (f : MForm) : Nat := moScope f.typ

/-- Releases of R227 and R228 note 6: they wait for the translation of the slot's earlier stores and for the replies to its remote
operations. -/
def isRelease (op : Nat) (f : MForm) : Bool :=
  match op with
  | 0x181 => moOrdF f = 2                       -- ST with release
  | 0x189 => true                               -- STFE
  | 0x18A => true                               -- STFF
  | 0x18B => true                               -- FESET
  | 0x1C0 => 2 ≤ moOrdF f                       -- AMO, CAS, FAMO with release
  | 0x1C1 => 2 ≤ moOrdF f
  | 0x1C2 => 2 ≤ moOrdF f
  | 0x1C4 => f.ext ≠ 1                          -- FENCE ALL, REL
  | 0x200 => true                               -- SPAWN
  | 0x201 => true                               -- END
  | 0x203 => true                               -- SUSPEND
  | 0x204 => true                               -- RFORK
  | 0x205 => true                               -- JOIN
  | 0x206 => true                               -- ARRIVE
  | 0x208 => f.typ = 2                          -- DOMSET.LEAVE
  | 0x20B => true                               -- SERVE
  | 0x2C3 => true                               -- TLSIG
  | 0x301 => moOrdF f = 2                       -- RST, RAMO, RCAS with release
  | 0x302 => 2 ≤ moOrdF f
  | 0x303 => 2 ≤ moOrdF f
  | 0x304 => true                               -- RACK
  | 0x305 => true                               -- RSTAT
  | 0x34A => true                               -- TLBINV, which acts as FENCE ALL first
  | _ => false

/-- The instructions of R386 that wait until every earlier store of the slot has passed translation. -/
def drainsStores (op : Nat) (f : MForm) : Bool :=
  isRelease op f ||
  match op with
  | 0x1C5 => true                               -- DRAINST
  | 0x2C0 => true                               -- SENDCMD
  | 0x306 => true                               -- COLL
  | 0x307 => true                               -- LAUNCH
  | _ => (op / 64 = 9) || (op / 64 = 10 && op % 64 < 18)   -- vector instructions write memory (R133)

end Sys2Proof.Machine
end

