-- ==== Sys2Proof/Machine/Units.lean ====
section
/-!
DEFINITION. The units beside the strands: felling record (R480), requesters (R423, R425, R427), timelines (R290), error records
(R293 to R295), domain cells (R175 to R177, R192), continuation records and stage queues (R164, R167, R169, R170).
-/
namespace Sys2Proof.Machine

/-! ## Records as bytes -/

def recordBytes (r : Record) : List Byte :=
  leBytes 16 r.g0.val.toNat ++ leBytes 16 r.g1.val.toNat ++ leBytes 16 r.g2.val.toNat ++ leBytes 16 r.g3.val.toNat

def recTags (r : Record) : Nat :=
  (if r.g0.tag then 1 else 0) + (if r.g1.tag then 2 else 0) + (if r.g2.tag then 4 else 0) + (if r.g3.tag then 8 else 0)

/-! ## Felling record (R480) -/

/-- An entry in the order of TIME, and of source numbers among equal times (R455). -/
def fellInsert (l : List Felling) (f : Felling) : List Felling :=
  let after (g : Felling) : Bool := g.time = f.time && f.source < g.source
  l.filter (fun g => !after g) ++ [f] ++ l.filter after

/-- The last 4,096 events of a die, in their order. An ARG that no rule states is a free value (log 4). -/
def State.fell (s : State) (d code : Nat) (arg : Option Nat) (source : Nat) : State :=
  let (v, s) : BitVec 16 × State := match arg with
    | some a => (BitVec.ofNat 16 a, s)
    | none => (s.draw.1.setWidth 16, s.draw.2)
  s.modDie d fun x =>
    let l := fellInsert x.felling ⟨s.now, source, code, v⟩
    { x with felling := l.drop (l.length - 4096) }

/-- The source number of a strand slot, and of unit `u` of a die (R455). -/
def unitSource (d u : Nat) : Nat := 73728 + d * 4096 + u

/-- A die whose firmware check failed answers no launch (R484). -/
def State.bootFailed (s : State) (d : Nat) : Bool := (s.die d).boot matches .failed _

/-! ## Requesters (R423, R425, R427) -/

/-- The requester ID of the slot whose step it is. -/
def State.myReq (s : State) : Nat := reqId false s.mySlot s.myPart

/-- DONE moves over the serials that already have their final reply. -/
def doneGo (fuel : Nat) (done : BitVec 32) (early : List (BitVec 32)) : BitVec 32 × List (BitVec 32) :=
  match fuel with
  | 0 => (done, early)
  | k + 1 => if early.contains (done + 1) then doneGo k (done + 1) (early.filter (· ≠ done + 1)) else (done, early)

/-- The entry of a serial ends with a final reply. -/
def Requester.finish (r : Requester) (serial : BitVec 32) : Requester :=
  let p := doneGo (r.early.length + 1) r.done (r.early ++ [serial])
  { r with table := r.table.filter (fun e => e.serial ≠ serial), done := p.1, early := p.2 }

/-- A packet that a strand of die 0 hands to its own die takes a serial for its SERIAL field, and no stamp (R421, R450). -/
def State.takeSerial (s : State) (id : Nat) : State :=
  let r := s.requester id
  s.setRequester id ({ r with next := r.next + 1 }.finish r.next)

/-- Serials are compared modulo 2^32: s precedes t (R426). -/
def precedes (s t : BitVec 32) : Bool := s ≠ t && (t - s).toNat < 2 ^ 31

/-! ## Timelines (R290) -/

/-- A position is taken. -/
def State.takePos (s : State) (p i : Nat) : Nat × State :=
  let pos := ((s.part p).timeline i).issued + 1
  (pos.toNat, s.modTimeline p i fun t => { t with issued := pos })

/-- The holder of a position has finished; TIMELINE_ADVANCE makes the advance in position order. -/
def State.finishPos (s : State) (p i pos : Nat) (err : Bool) (heldBy : Option Nat := none) : State :=
  s.modTimeline p i fun t => { t with finished := t.finished ++ [⟨pos, err, heldBy⟩] }

/-- TL[i] as a word (R289). -/
def Timeline.tlWord (t : Timeline) : Word := BitVec.ofBool t.err ++ t.count
/-- TC[i] as 128 bits (R289). -/
def Timeline.tcWide (t : Timeline) : BitVec 128 :=
  (0 : BitVec 40) ++ t.ownGen ++ t.owner ++ t.scope ++ (0 : BitVec 1) ++ t.issued

/-! ## Error records (R293 to R295) -/

def eMalformed : Nat := 0x01
def eCapFault : Nat := 0x02
def eTranslation : Nat := 0x03
def eUncorrectable : Nat := 0x04
def eTargetFull : Nat := 0x05
def eLinkDown : Nat := 0x06
def eParked : Nat := 0x07
def eFallback : Nat := 0x08
def eExpired : Nat := 0x09
def eRestarted : Nat := 0x0A
/-- Status codes never set ERR (R292). -/
def isStatus (code : Nat) : Bool := code = eParked || code = eFallback

/-- The 32 bytes of an error record (R293); `owner` and `gen` as the timeline gives them. -/
def errBits (tlidx engine opcode code : Nat) (owner : BitVec 5) (gen : BitVec 16) (count : Word) (addr : Nat) (now : Word) :
    BitVec 256 :=
  now ++ BitVec.ofNat 64 addr ++ count ++ (0 : BitVec 3) ++ gen ++ owner ++ BitVec.ofNat 8 code ++ BitVec.ofNat 8 opcode ++
    BitVec.ofNat 8 engine ++ BitVec.ofNat 16 tlidx

/-- A record into the supervisor queue (R295). -/
def State.supervisorRecord (s : State) (p : Nat) (r : BitVec 256) : State :=
  let q := s.part p
  let s := s.setPart p { q with eeqCount := q.eeqCount + 1 }
  if q.eeqBase.getLsbD 0 then
    let pa := (q.eeqBase.extractLsb' 13 39).toNat * 2 ^ 13 + 32 * (q.eeqCount.toNat % 256)
    if backed pa then (s.combine (pa / 64)).homeWrite q.pkeyId pa (leBytes 32 r.toNat) false else s
  else s

/-- Delivery of an error record (R294); a TLIDX outside the set goes to the supervisor queue (R160). -/
def State.errRecord (s : State) (p tlidx engine opcode code addr : Nat) : State :=
  if 1024 ≤ tlidx then s.supervisorRecord p (errBits tlidx engine opcode code 0x1F 0 0 addr s.now)
  else
    let q := s.part p
    let t := q.timeline tlidx
    let r := errBits tlidx engine opcode code t.owner t.ownGen t.tlWord addr s.now
    let e := q.entry t.owner.toNat
    if t.owner.toNat < 16 && e.st ≠ .empty && e.gen = t.ownGen then
      s.setPart p { q with errQ := put q.errQ (q.eqCount.toNat % 256) r, eqCount := q.eqCount + 1 }
    else s.supervisorRecord p r

/-- A record of the synchronisation unit always goes to the engine error queue (R164, R191). -/
def State.syncError (s : State) (p tlidx addr : Nat) : State :=
  let q := s.part p
  let t := q.timeline tlidx
  let r := errBits tlidx 7 0 eMalformed t.owner t.ownGen t.tlWord addr s.now
  s.setPart p { q with errQ := put q.errQ (q.eqCount.toNat % 256) r, eqCount := q.eqCount + 1 }

/-! ## Launches -/

/-- Fields of a launch packet (R160). -/
def pktFirst (r : Record) : Nat := Record.bits r.g2 0 15
def pktCount (r : Record) : Nat := Record.bits r.g2 16 15
def pktTlidx (r : Record) : Nat := Record.bits r.g2 32 16
def pktNowait (r : Record) : Bool := r.g2.val.getLsbD 48
def pktZerosp (r : Record) : Bool := r.g2.val.getLsbD 49
def pktSerial (r : Record) : BitVec 32 := r.g2.val.extractLsb' 64 32

def State.header (s : State) (l : Nat × Nat) : Header := (s.entry l).hdr.getD Header.none_

/-- Cores that a launch takes (R160, R389). -/
def State.launchCores (s : State) (l : Nat × Nat) : Nat × Nat :=
  let p := (s.entry l).packet
  (pktFirst p, if (s.header l).twin then 2 * pktCount p else pktCount p)

/-- Whether a core, and whether a cluster, belongs to the range of a launch. -/
def State.inRange (s : State) (l : Nat × Nat) (core : Nat) : Bool :=
  let r := s.launchCores l
  r.1 ≤ core && core < r.1 + r.2
def State.clusterInRange (s : State) (l : Nat × Nat) (c : Nat) : Bool :=
  let r := s.launchCores l
  r.2 ≠ 0 && clusterOf r.1 ≤ c && c ≤ clusterOf (r.1 + r.2 - 1)

def State.setAbnormal (s : State) (l : Nat × Nat) : State := s.modEntry l fun e => { e with abnormal := true }

/-- Whether a cluster is assigned to a partition, in either bank (R403). -/
def State.ownsCluster (s : State) (p c : Nat) : Bool :=
  (s.cluster c).ctx0 = some p || (s.cluster c).ctx1 = some p

/-! ## Continuation records (R164) -/

def recStage (r : Record) : Nat := Record.bits r.g3 0 4
def recSafept (r : Record) : Nat := Record.bits r.g3 8 16
def recPred (r : Record) : BitVec 7 := r.g3.val.extractLsb' 25 7
def recDom (r : Record) (k : Nat) : BitVec 16 := r.g3.val.extractLsb' (32 + 16 * k) 16

def mkRecord (code frame : Cap) (d0 d1 : Word) (stage : BitVec 4) (sp : BitVec 16) (pred : BitVec 7)
    (dom : Vector (BitVec 16) 4) (req : BitVec 24) : Record :=
  ⟨code, frame, ⟨d1 ++ d0, false⟩,
   ⟨(0 : BitVec 8) ++ req ++ dom[3] ++ dom[2] ++ dom[1] ++ dom[0] ++ pred ++ (0 : BitVec 1) ++ sp ++ (0 : BitVec 4) ++ stage, false⟩⟩

/-! ## Domain cells (R175 to R177) -/

def hKind (h : BitVec 16) : Nat := (h.extractLsb' 13 3).toNat
def hUnit (h : BitVec 16) : Nat := (h.extractLsb' 4 9).toNat
def hCell (h : BitVec 16) : Nat := (h.extractLsb' 0 4).toNat

def mkHandle (kind unit cell : Nat) : BitVec 16 := BitVec.ofNat 3 kind ++ BitVec.ofNat 9 unit ++ BitVec.ofNat 4 cell

/-- The scope of a domain (R176). -/
def kindScope (k : Nat) : Nat := match k with
  | 1 => 0
  | 2 => 1
  | 5 => 1
  | 3 => 2
  | _ => 3

def State.cellMap (s : State) (kind unit : Nat) : SMap DomCell :=
  match kind with
  | 3 => (s.die unit).cells
  | 4 => (s.die 0).pkgCells
  | _ => (s.cluster unit).cells

def State.setCellMap (s : State) (kind unit : Nat) (m : SMap DomCell) : State :=
  match kind with
  | 3 => s.modDie unit fun d => { d with cells := m }
  | 4 => s.modDie 0 fun d => { d with pkgCells := m }
  | _ => s.modCluster unit fun c => { c with cells := m }

/-- The cell a handle names, when it is allocated with that kind. -/
def State.cellOf (s : State) (h : BitVec 16) : Option DomCell :=
  match look (s.cellMap (hKind h) (hUnit h)) (hCell h) with
  | some c => if c.kind = hKind h then some c else none
  | none => none

def State.setCell (s : State) (h : BitVec 16) (c : DomCell) : State :=
  s.setCellMap (hKind h) (hUnit h) (put (s.cellMap (hKind h) (hUnit h)) (hCell h) c)

/-- Whether a core lies inside a domain: its core, its cluster, its masked cores, its die (R167, R192). -/
def State.coreInside (s : State) (core : Nat) (h : BitVec 16) : Bool :=
  match hKind h with
  | 0 => true
  | 1 => (match s.cellOf h with | some c => c.core = core | none => true)
  | 2 => clusterOf core = hUnit h
  | 5 => clusterOf core = hUnit h && (match s.cellOf h with | some c => c.mask.getLsbD (core % 48) | none => true)
  | 3 => dieOf core = hUnit h
  | _ => true

/-- The last arrival, or a LEAVE in its place, completes a phase. -/
def DomCell.complete (c : DomCell) : DomCell := { c with phase := c.phase + 1, arrived := 0 }

/-- LEAVE of R192 on the cell: the member count falls, and the phase completes when at least one arrival has been counted and the
count is then at least the member count. Answers whether it completed. -/
def DomCell.leave (c : DomCell) : DomCell × Bool :=
  let c := { c with members := c.members - 1 }
  if 1 ≤ c.arrived && c.members ≤ c.arrived then (c.complete, true) else (c, false)

/-! ## Stage queues (R169 to R171) -/

def emptyQueues (l : Nat × Nat) : StageQueues := ⟨l, Vector.replicate 16 [], Vector.replicate 16 0⟩

def Cluster.queuesOf (c : Cluster) (l : Nat × Nat) : StageQueues :=
  (c.queues.find? fun q => q.launch = l).getD (emptyQueues l)

/-- The queues of a launch, kept only while a queue or an age of it is not empty. -/
def Cluster.setQueues (c : Cluster) (q : StageQueues) : Cluster :=
  let rest := c.queues.filter fun x => x.launch ≠ q.launch
  { c with queues := if q = emptyQueues q.launch then rest else rest ++ [q] }

def StageQueues.get (q : StageQueues) (i : Nat) : List (Record × Bool) := q.queues[i % 16]'(Nat.mod_lt _ (by decide))
def StageQueues.set (q : StageQueues) (i : Nat) (v : List (Record × Bool)) : StageQueues :=
  { q with queues := q.queues.set (i % 16) v (Nat.mod_lt _ (by decide)) }
def StageQueues.age (q : StageQueues) (i : Nat) : Nat := q.ages[i % 16]'(Nat.mod_lt _ (by decide))
def StageQueues.setAge (q : StageQueues) (i v : Nat) : StageQueues :=
  { q with ages := q.ages.set (i % 16) v (Nat.mod_lt _ (by decide)) }

def Header.bound (h : Header) (i : Nat) : Nat := match h.stages[i]? with
  | some st => st.bound
  | none => 0

/-- Whether a record is refused when it is pushed (R164, R170). -/
def recordBad (h : Header) (r : Record) : Bool :=
  !(recSafept r = 0xFFFF || recSafept r < h.points.length) || h.stages.length ≤ recStage r

def State.stageFull (s : State) (c : Nat) (l : Nat × Nat) (i : Nat) : Bool :=
  (s.header l).bound i ≤ ((s.cluster c).queuesOf l |>.get i).length

/-- A push into a stage queue: a bad record is refused and reported (R164, R170); none when the queue is full. -/
def State.pushStage (s : State) (c : Nat) (l : Nat × Nat) (r : Record) (marked : Bool) : Option State :=
  if recordBad (s.header l) r then some ((s.syncError l.1 (pktTlidx (s.entry l).packet) 0).setAbnormal l)
  else if s.stageFull c l (recStage r) then none
  else
    let q := (s.cluster c).queuesOf l
    some (s.modCluster c fun x => x.setQueues (q.set (recStage r) (q.get (recStage r) ++ [(r, marked)])))

/-- Whether a record may resume on a core (R167). -/
def State.mayResume (s : State) (r : Record) (core : Nat) : Bool :=
  (upTo 4).all fun k => s.coreInside core (recDom r k)

/-- The narrowest scope that contains two cores (R167), and a core and a cluster. -/
def coreScope (a b : Nat) : Nat :=
  if a = b then 0 else if clusterOf a = clusterOf b then 1 else if dieOf a = dieOf b then 2 else 3
def unitScope (core cluster : Nat) : Nat :=
  if clusterOf core = cluster then 1 else if dieOf core = cluster / 48 then 2 else 3

end Sys2Proof.Machine
end

