-- ==== Sys2Proof/Machine/Ports.lean ====
section
/-!
DEFINITION. The fabric ports (R10, R424, R447, R453, R477): the messages that flits carry, flits with their header and CRC, the digest of what a
port delivers, and the messages that wait at a port. How a message lies in its flits, and the routing field, are the integrator's (log 7).
-/
namespace Sys2Proof.Machine

/-- The die that carries a fabric port (R10). -/
def portDie (p : Nat) : Nat := if p = 16 then 0 else if p = 17 then 7 else p / 2

/-- The requester of a port's interface, where it forwards for a partition (R421, R423). -/
def portReq (p part : Nat) : Nat := reqId true (portDie p * 4096 + 1024 + p) part

/-! ## Messages -/

/-- The kinds of message (log 7): a launch packet, a reply, a collective message, an operation of a peer, an acknowledgement. -/
inductive MsgKind
  | launch
  | reply
  | coll
  | peer
  | ack
deriving DecidableEq, Repr

def MsgKind.code (k : MsgKind) : Nat := match k with
  | .launch => 1
  | .reply => 2
  | .coll => 3
  | .peer => 4
  | .ack => 5

/-- The 128 bits of a stamp, REQID lowest (R424). -/
def stampBits (req : Nat) (st : Stamp) : BitVec 128 :=
  st.ackmark ++ (0 : BitVec 16) ++ st.incar ++ st.serial ++ (0 : BitVec 8) ++ BitVec.ofNat 24 req
def stampBytes (req : Nat) (st : Stamp) : List Byte := leBytes 16 (stampBits req st).toNat

/-- A payload as messages of at most 232 bytes: an 8-byte header with the kind and one tag bit for each 16-byte granule (R447), then 224 bytes. -/
def fabMsgs (kind : MsgKind) (tags : Nat) (payload : List Byte) : List (List Byte) :=
  (upTo ((payload.length + 223) / 224)).map fun i =>
    leBytes 8 (kind.code + 256 * (tags / 2 ^ (14 * i) % 2 ^ 14)) ++ (payload.drop (224 * i)).take 224

/-! ## Flits (R447) -/

def flitBytes (f : BitVec 2048) : List Byte := leBytes 256 f.toNat

/-- The link header: class, sequence, credit return, routing. -/
def linkHeader (cls : Nat) (seq credit : BitVec 12) (routing : Nat) : Word :=
  BitVec.ofNat 38 routing ++ credit ++ seq ++ BitVec.ofNat 2 cls
def linkSeq (f : BitVec 2048) : BitVec 12 := f.extractLsb' 2 12
def linkCredit (f : BitVec 2048) : BitVec 12 := f.extractLsb' 14 12

/-- A flit: link header, up to 240 bytes of message, CRC-64 of bytes 0 to 247. -/
def flitOf (header : Word) (msg : List Byte) : List Byte :=
  let b := leBytes 8 header.toNat ++ msg ++ List.replicate (240 - msg.length) 0
  b ++ leBytes 8 (crc64 b).toNat

/-- Whether the CRC of bytes 0 to 247 is that of bytes 248 to 255. -/
def flitOk (f : BitVec 2048) : Bool :=
  (leBytes 8 (crc64 ((flitBytes f).take 248)).toNat) = (flitBytes f).drop 248

/-! ## Deliveries (R477) -/

/-- The digest after a message: over DIG, its 8-byte header and the CRC-64 of its payload. -/
def foldDigest (dig : Word) (header payload : List Byte) : Word :=
  crc64 (leBytes 8 dig.toNat ++ header ++ leBytes 8 (crc64 payload).toNat)

/-- A message that a port delivers to the device enters the digest, and its flit's place is owed to the sender. -/
def Port.deliver (x : Port) (msg : List Byte) : Port :=
  { x with digest := foldDigest x.digest (msg.take 8) (msg.drop 8), owed := x.owed + 1 }

/-- The messages of a payload are delivered. -/
def State.deliver (s : State) (port : Nat) (kind : MsgKind) (tags : Nat) (payload : List Byte) : State :=
  s.modPort port fun x => (fabMsgs kind tags payload).foldl Port.deliver x

/-! ## What leaves -/

/-- A payload for a device waits at a port; a port that is down carries nothing (R420). -/
def State.portOut (s : State) (port cls dev : Nat) (kind : MsgKind) (tags : Nat) (payload : List Byte) : State :=
  s.modPort port fun x => if x.up then { x with egress := x.egress ++ (fabMsgs kind tags payload).map fun m => ⟨cls, dev, m⟩ } else x

/-- One message leaves as a flit: the next sequence number, and the credit that is owed. -/
def State.flitOut (s : State) (port : Nat) (m : OutMsg) : State :=
  let x := s.port port
  { s.modPort port fun x => { x with txSeq := x.txSeq + 1, owed := 0 } with
    net := s.net ++ [.out port (flitOf (linkHeader m.cls x.txSeq x.owed m.routing) m.bytes)] }

/-- What waits at a port leaves, class 0 first (R453). -/
def State.portDrain (s : State) (port : Nat) : State :=
  let x := s.port port
  if x.egress = [] || !x.up then s
  else ((upTo 4).flatMap fun c => x.egress.filter fun m => m.cls % 4 = c).foldl (fun t m => t.flitOut port m)
    (s.modPort port fun x => { x with egress := [] })

/-- The reply of a port's interface to a peer: the fields of the stamp, with the owner's incarnation, the status, the result, and the bytes of a read. -/
def State.peerReply (s : State) (port dev req : Nat) (st : Stamp) (cls status : Nat) (w : Word) (data : List Byte) : State :=
  s.portOut port cls dev .reply 0
    (stampBytes req { st with incar := (s.port port).owner.incar } ++ leBytes 8 status ++ leBytes 8 w.toNat ++ data)

end Sys2Proof.Machine
end

