-- ==== Sys2Proof/Machine/Net.lean ====
section
/-!
DEFINITION. Atomic steps at the home or the scratchpad (R264), full/empty steps (R261), the remote operations as their owner executes
them (R421, R428, R429), the acceptance of launch packets (R161, R449, R452), and the sending of stamped requests (R425, R427).
-/
namespace Sys2Proof.Machine

/-! ## Atomic steps (R264) -/

/-- Whether an acquire of a peer device passes: its position lies in no scope of this device but fabric scope (R223, R237). -/
def State.peerScope (s : State) (line scope : Nat) : Bool :=
  (s.metaOf line).scope = 7 || ((s.metaOf line).scope = 4 && scope = 4)

/-- One read-modify-write of `n` bytes at a home slice for a core, or for a peer device whose interface stands for it: the scope check for an acquire,
the old value, the new value (none writes nothing), the metadata. -/
def State.atomicHome (s : State) (key : BitVec 6) (so : Bool) (core pa n : Nat) (acq : Bool) (scope : Nat)
    (new : Nat → Option Nat) (peer : Bool := false) : Option Nat × State :=
  let line := pa / 64
  let s := s.combine line
  if acq && !(if peer then s.peerScope line scope else s.scopeCheck line core scope) then (none, s)
  else
    let s := if so then s.removeCopies line else s
    let old := leNat (s.homeBytes key pa n)
    let t := match new old with
      | some v => s.homeWrite key pa (leBytes n v) false
      | none => s
    (some old, t.setMeta line scope (dieOf core) (clusterOf core % 48))

/-- The same in a scratchpad, which has no metadata. -/
def State.atomicSpad (s : State) (core a n : Nat) (new : Nat → Option Nat) : Nat × State :=
  let old := leNat (s.spad.bytes a n)
  (old, match new old with
    | some v => s.spadWriteFrom core a (leBytes n v) false
    | none => s)

/-- The new value of a compare and swap; none writes nothing (R266). -/
def casNew (n expect value old : Nat) : Option Nat :=
  if old = expect % 2 ^ (8 * n) then some (value % 2 ^ (8 * n)) else none

/-! ## Full/empty words (R214, R261) -/

/-- The word number of a scratchpad address within its core's SRAM, and the core bank that keeps its bit. -/
def State.isFull (s : State) (bank a : Nat) : Bool :=
  (s.coreBank (bankKey (a / sliceSize) bank)).full.contains (a % sliceSize / 8)

def State.setFull (s : State) (writer bank a : Nat) (v : Bool) : State :=
  let on (s : State) (core : Nat) : State :=
    s.modCoreBank (bankKey core bank) fun b => { b with full := setIn b.full (a % sliceSize / 8) v }
  let s' := on s (a / sliceSize)
  match s.mirror writer (a / sliceSize) with
  | some t => on s' t
  | none => s'

/-! ## Launch queue (R161, R449, R452) -/

def resultWord (accepted : Bool) (entry reason : Nat) (serial : BitVec 32) : Word :=
  (0 : BitVec 24) ++ serial ++ BitVec.ofNat 3 reason ++ BitVec.ofNat 4 entry ++ BitVec.ofBool accepted

/-- The lowest-numbered EMPTY entry. -/
def Partition.freeEntry (q : Partition) : Option Nat := (upTo 16).find? fun i => (q.entry i).st = .empty

/-- A packet enters an entry and takes its position (R161, R290). -/
def State.enterPacket (s : State) (p i : Nat) (packet : Record) (peer : Option Nat) : State :=
  let tl := pktTlidx packet
  let (pos, s) := if tl < 1024 then (let r := s.takePos p tl; (some r.1, r.2)) else (none, s)
  let s := s.modEntry (p, i) fun e => { e with
    st := .queued, packet := packet, pos := pos, order := s.order, hdr := none, toWake := [], abnormal := false, peer := peer }
  { s with order := s.order + 1 }

/-- acl_check of R449 on die `d`: the index of the entry that permits it, or the reason. -/
def State.aclCheck (s : State) (d peer p : Nat) : Except Nat Nat :=
  let ent (i : Nat) : Word := s.csr d (0x380 + i)
  match (upTo 256).find? (fun i => (ent i).getLsbD 0 && ((ent i).extractLsb' 1 16).toNat = peer &&
      ((ent i).extractLsb' 17 6).toNat = p) with
  | none => .error 2
  | some i =>
    let held := ((upTo 16).filter fun j => ((s.part p).entry j).st ≠ .empty && ((s.part p).entry j).peer = some peer).length
    let recent := ((s.die d).aclCount.filter fun c => c.1 = i && (s.now - c.2).toNat < 2 ^ 20).length
    if ((ent i).extractLsb' 23 5).toNat ≤ held then .error 4
    else if ((ent i).extractLsb' 28 16).toNat ≤ recent then .error 3
    else .ok i

/-- A packet at the queue of a partition: from a peer through the interfaces of die `d`, or from a LAUNCH of partition `from_` of this
device (R449, R451). Answers the result word. -/
def State.acceptPacket (s : State) (d p : Nat) (packet : Record) (peer : Option Nat) (from_ : Nat) : Word × State :=
  let serial := pktSerial packet
  let refuse (why : Nat) : Word × State := (resultWord false 0 why serial, s)
  match peer with
  | some dev =>
    match s.aclCheck d dev p with
    | .error why => refuse why
    | .ok i =>
      match (s.part p).freeEntry with
      | none => refuse 1
      | some j =>
        let s := s.modDie d fun x => { x with aclCount :=
          (x.aclCount.filter fun c => (s.now - c.2).toNat < 2 ^ 20) ++ [(i, s.now)] }
        (resultWord true j 0 serial, s.enterPacket p j packet peer)
  | none =>
    if from_ ≠ p then refuse 2
    else match (s.part p).freeEntry with
      | none => refuse 1
      | some j => (resultWord true j 0 serial, s.enterPacket p j packet none)

/-! ## Execution at the owner (R428, R429) -/

def stDone : Nat := 0
def stStale : Nat := 1
def stBusy : Nat := 2
def stFull : Nat := 3
def stSealed : Nat := 4
def stFault : Nat := 5
def stScope : Nat := 6
def stRestarted : Nat := 7
def stNoReply : Nat := 8

/-- DONE with a result word that is poisoned: it stops the core that takes it (R217). -/
def stPoison : Nat := 16

def isFinal (st : Nat) : Bool := st = 0 || 4 ≤ st

/-- The core of a requester, and its partition (R423). -/
def reqCore (id : Nat) : Nat := id % 2 ^ 17 / 4
def reqPart (id : Nat) : Nat := id / 2 ^ 18 % 64
def reqDie (id : Nat) : Nat := if id / 2 ^ 17 % 2 = 1 then id % 2 ^ 17 / 4096 % 8 else dieOf (reqCore id)
/-- The source number of a requester (R455). -/
def reqSource (id : Nat) : Nat := if id / 2 ^ 17 % 2 = 1 then 73728 + id % 2 ^ 17 else id % 2 ^ 17

/-- The position that stands for a requester in metadata: its core, or the first core of the die of an engine context or port (log 56). -/
def reqAgent (id : Nat) : Nat := if id / 2 ^ 17 % 2 = 1 then reqDie id * 2304 else reqCore id
/-- Whether a requester is the interface of a fabric port. -/
def reqIsPort (id : Nat) : Bool := id / 2 ^ 17 % 2 = 1 && 1024 ≤ id % 4096

/-- The bank of a cluster that holds a partition's context. -/
def State.bankOf (s : State) (cluster p : Nat) : Option Nat :=
  if (s.cluster cluster).ctx0 = some p then some 0 else if (s.cluster cluster).ctx1 = some p then some 1 else none

/-- A remote target in a scratchpad, at window offset `loc % sliceSize` of core `loc / sliceSize`, for core `from_`: the bank and the byte
address, or the status that refuses it (R387, R390, R407, R429). -/
def State.remoteWord (s : State) (p from_ loc n : Nat) : Except Nat (Nat × Nat) :=
  let core := loc / sliceSize
  if (s.core core).stopped then .error stSealed
  else match s.bankOf (clusterOf core) p with
    | none => .error (if s.saved.any fun v => v.part = p && v.cluster = clusterOf core then stBusy else stFault)
    | some bank =>
      if bank ≠ s.liveBank core then .error stBusy
      else match s.window bank from_ core (loc % sliceSize) n with
        | none => .error stFault
        | some a => .ok (bank, a)

/-- The step of an atomic at its target: status, old value. `new` maps the old value to the new one. -/
def State.remoteAtomic (s : State) (id loc : Nat) (spad so : Bool) (n : Nat) (acq : Bool) (scope : Nat)
    (new : Nat → Option Nat) : Nat × Word × State :=
  let p := reqPart id
  if spad then
    match s.remoteWord p (reqCore id) loc n with
    | .error st => (st, 0, s)
    | .ok (_, a) =>
      if s.spadPoisoned a n then (stPoison, 0, s)
      else
        let (old, s) := s.atomicSpad (reqCore id) a n new
        (stDone, BitVec.ofNat 64 old, s)
  else
    match s.merge (homeDie loc) (pointSlice loc) (reqSource id) with
    | none => (stBusy, 0, s)
    | some s =>
      if s.mem.poison.contains (loc / 64) then (stPoison, 0, s)
      else match s.atomicHome (s.part p).pkeyId so (reqAgent id) loc n acq scope new (reqIsPort id) with
      | (none, s) => (stScope, 0, s)
      | (some old, s) => (stDone, BitVec.ofNat 64 old, s)

/-- A ticket pair of a cluster, as a partition has it (R196, R407). -/
def State.ticketPair (s : State) (c p pair : Nat) : BitVec 32 × BitVec 32 := (look (s.cluster c).tickets (64 * p + pair)).getD (0, 0)
def State.setTicketPair (s : State) (c p pair : Nat) (v : BitVec 32 × BitVec 32) : State :=
  s.modCluster c fun x => { x with tickets := put x.tickets (64 * p + pair) v }

/-- execute of R428. -/
def State.execRemote (s : State) (id : Nat) (op : RemOp) : Nat × Word × State :=
  let p := reqPart id
  match op with
  | .write loc spad so data scope =>
    if spad then
      match s.remoteWord p (reqCore id) loc data.length with
      | .error st => (st, 0, s)
      | .ok (_, a) => (stDone, 0, s.spadWriteFrom (reqCore id) a data false)
    else
      let s := s.combine (loc / 64)
      let s := if so then s.removeCopies (loc / 64) else s
      let s := s.homeWrite (s.part p).pkeyId loc data false
      (stDone, 0, match scope with
        | some sc => s.setMeta (loc / 64) sc (reqDie id) (clusterOf (reqAgent id) % 48)
        | none => s)
  | .line line key so runs poison scope =>
    let s := s.combine line
    let s := if so then s.removeCopies line else if reqIsPort id then s.removeSo line else s
    let s := s.homeRuns key line runs poison
    (stDone, 0, match scope with
      | some sc => s.setMeta line sc (reqDie id) (clusterOf (reqAgent id) % 48)
      | none => s)
  | .parts line key so ps poison =>
    match s.merge (homeDie (64 * line)) (pointSlice (64 * line)) (reqSource id) with
    | none => (stBusy, 0, s)
    | some s =>
      let s := if so then (s.combine line).removeCopies line else s
      (stDone, 0, s.homeParts key (reqCore id) line ps poison)
  | .fe loc full value =>
    match s.remoteWord p (reqCore id) loc 8 with
    | .error st => (st, 0, s)
    | .ok (bank, a) =>
      if s.isFull bank a = full then
        match s.merge (dieOf (loc / sliceSize)) (pointWord (loc / sliceSize) (a % sliceSize / 8)) (reqSource id) with
        | none => (stBusy, 0, s)
        | some s => (stDone, 0, ((s.spadWriteFrom (reqCore id) a (leBytes 8 value.toNat) false).setFull (reqCore id) bank a true))
      else (stFull, 0, s)
  | .amo loc spad so n op value ord scope =>
    s.remoteAtomic id loc spad so n (ord % 2 = 1) scope fun old => some (intOp op n old value.toNat)
  | .cas loc spad so n expect value ord scope =>
    s.remoteAtomic id loc spad so n (ord % 2 = 1) scope (casNew n expect.toNat value.toNat)
  | .famo loc so op value ord scope =>
    match s.remoteAtomic id loc false so 4 (ord % 2 = 1) scope (fun old => some (famoApply op old value.toNat).1) with
    -- the flags of the step return with the reply (R267)
    | (st, old, s) => (st, ((famoApply op old.toNat value.toNat).2.setWidth 64 <<< 32) ||| old, s)
  | .ticket c pair =>
    match s.merge (c / 48) (pointPair c pair) (reqSource id) with
    | none => (stBusy, 0, s)
    | some s =>
      let t := s.ticketPair c p pair
      (stDone, t.1.setWidth 64, s.setTicketPair c p pair (t.1 + 1, t.2))
  | .push c stage record l =>
    -- a push that finds no room is refused and serialised by nothing
    match (s.merge (c / 48) (pointStage c stage) (reqSource id)).bind fun t => t.pushStage c l record false with
    | none => (stBusy, 0, s)
    | some t => (stDone, 0, t)
  | .launch q peer packet =>
    let (w, s) := s.acceptPacket (reqDie id) q packet peer p
    (stDone, w, s)

/-! ## Sending (R425, R427) -/

/-- The owner of an atomic that a peer addresses to HBM: the atomic unit in the base die of the stack (R421). -/
def stackOwner (pa : Nat) : Nat := 768 + pa / 2 ^ 36

/-- Owner numbers: die x 64 + slice, 512 + port, 768 + stack, and 1024 + device for the interface of a peer, reached through a port (log 7). -/
def ownerDie (o : Nat) : Nat :=
  if o < 512 then o / 64 else if o < 768 then portDie (o - 512) else if o < 1024 then (o - 768) / 2
  else portDie (Config.portOf (o - 1024))

/-- The owner of a target cluster: slice c of its die (R421). -/
def clusterOwner (c : Nat) : Nat := c / 48 * 64 + c % 48

/-- Whether an operation may leave the interface: its context is on the machine (R408), its table and its owner list have room (R425), and no write of
the requester to its line is outstanding (R422). -/
def Requester.mayPost (r : Requester) (q : NetOp) : Bool :=
  !r.away && r.table.length < 256 && ((r.owners.any fun o => o.owner = q.owner) || r.owners.length < 16) &&
  (match q.line with
   | some l => r.table.all fun e => e.line ≠ some l
   | none => true)

/-- A launch packet as it goes to a peer: the stamp, PART and the packet, with its tag bits. -/
def launchBytes (id : Nat) (st : Stamp) (op : RemOp) : List Byte × Nat := match op with
  | .launch part _ packet => (stampBytes id st ++ leBytes 16 part ++ recordBytes packet, 4 * recTags packet)
  | _ => ([], 0)

/-- A request leaves its interface, under its stamp: as a message within the package, or as a flit to a peer. -/
def State.transmit (s : State) (id : Nat) (q : NetOp) (st : Stamp) : State :=
  if !s.pathUp (reqDie id) (ownerDie q.owner) then s
  else if q.owner < 1024 then { s with net := s.net ++ [.request q.owner id st q.op s.now q.cls] }
  else
    let b := launchBytes id st q.op
    s.portOut (Config.portOf (q.owner - 1024)) q.cls (q.owner - 1024) .launch b.2 b.1

/-- A stamped request goes out (R425, R427): its serial, and the state with its table entry and the message. -/
def State.send (s : State) (id : Nat) (q : NetOp) : BitVec 32 × State :=
  let r := s.requester id
  let incar := (look (s.die (reqDie id)).learnt q.owner).getD 0
  let serial := r.next
  let owners := if r.owners.any fun o => o.owner = q.owner
    then r.owners.map fun o => if o.owner = q.owner then { o with last := serial, ackedTo := none } else o
    else r.owners ++ [⟨q.owner, serial, none⟩]
  let s := s.setRequester id { r with
    next := r.next + 1, lastSent := s.now, owners := owners,
    table := r.table ++ [{ q with serial := serial, incar := incar, sends := 1, lastSent := s.now, busyAt := none }] }
  (serial, s.transmit id q ⟨serial, incar, r.done⟩)

/-- A stamped request: none where it waits at the interface. -/
def State.post (s : State) (id : Nat) (q : NetOp) : Option (BitVec 32 × State) :=
  let r := s.requester id
  if r.queue ≠ [] || !r.mayPost q then none else some (s.send id q)

/-- Operations that wait at an interface go out in their order as far as they may, at most `fuel`. -/
def State.drain (s : State) (fuel id : Nat) : State :=
  match fuel with
  | 0 => s
  | k + 1 =>
    let r := s.requester id
    match r.queue with
    | [] => s
    | q :: rest => if r.mayPost q then ((s.setRequester id { r with queue := rest }).send id q).2.drain k id else s

/-- The interfaces with waiting operations, by the class of the one that is next: class 0 goes first (R453); then what waits at the ports. -/
def State.drainAll (s : State) : State :=
  let waiting := s.requesters.filter fun r => r.2.queue ≠ []
  let s := (upTo 4).foldl (fun t c =>
    (waiting.filter fun r => (r.2.queue.head?.map NetOp.cls) = some c).foldl (fun u r => u.drain r.2.queue.length r.1) t) s
  s.ports.foldl (fun t p => t.portDrain p.1) s

/-- Acknowledgements to every owner of a requester's list (R427). -/
def State.sendAcks (s : State) (id : Nat) : State :=
  let r := s.requester id
  let up := r.owners.filter fun o => s.pathUp (reqDie id) (ownerDie o.owner)
  let s := { s with net := s.net ++ (up.filter fun o => o.owner < 1024).map fun o => Msg.ack o.owner id r.done }
  let s := (up.filter fun o => 1024 ≤ o.owner).foldl (fun (t : State) o =>
    t.portOut (Config.portOf (o.owner - 1024)) 0 (o.owner - 1024) .ack 0 (stampBytes id ⟨0, 0, r.done⟩)) s
  s.setRequester id { r with lastSent := s.now }

/-! ## Keys (R221, R487) -/

def State.anyHolds (s : State) (key : BitVec 6) : Bool := (upTo 8).any fun d => (s.die d).keys.getLsbD key.toNat

def State.setKey (s : State) (key : BitVec 6) (v : Bool) : State :=
  (upTo 8).foldl (fun t d => t.modDie d fun x =>
    { x with keys := if v then x.keys ||| ((1 : BitVec 64) <<< key.toNat) else x.keys &&& ~~~((1 : BitVec 64) <<< key.toNat) }) s

/-- The key named in PKEYCTL of a die. -/
def State.pkeyOf (s : State) (d : Nat) : BitVec 6 := (s.csr d 0x353).setWidth 6

def State.pkeyOutcome (s : State) (d : Nat) (busy refused : Bool) : State :=
  s.modDie d fun x => { x with pkeyBusy := busy, pkeyRefused := refused }

/-- Whether an operation under a stamp accesses memory under a key; `mine` is the key of its requester's partition. -/
def RemOp.underKey (op : RemOp) (mine key : BitVec 6) : Bool := match op with
  | .line _ k _ _ _ _ => k = key
  | .parts _ k _ _ _ => k = key
  | .write _ spad _ _ _ => !spad && mine = key
  | .amo _ spad _ _ _ _ _ _ => !spad && mine = key
  | .cas _ spad _ _ _ _ _ _ => !spad && mine = key
  | .famo _ _ _ _ _ _ => mine = key
  | _ => false

/-- Whether an access under a key has not completed: a page clear, or an operation that a requester has outstanding. -/
def State.keyInUse (s : State) (key : BitVec 6) : Bool :=
  ((upTo 8).any fun d => match (s.die d).clearing with
    | some (_, k, _) => k = key
    | none => false) ||
  (s.requesters.any fun r => r.2.open_.any fun q => q.op.underKey (s.part (reqPart r.1)).pkeyId key) ||
  (s.coreBanks.any fun b => b.2.skidOut.any fun m => m.op.op.underKey (s.part (s.bankPart b.1)).pkeyId key) ||
  s.saved.any fun v => v.banks.any fun b => b.2.skidOut.any fun m => m.op.op.underKey (s.part v.part).pkeyId key

/-- The key named in PKEYCTL of a die is destroyed. -/
def State.destroyKey (s : State) (d : Nat) : State :=
  ((s.setKey (s.pkeyOf d) false).pkeyOutcome d false false).fell d 0x06 (some (s.pkeyOf d).toNat) (unitSource d 0)

/-- Destroys that wait for no access any more complete. -/
def State.pendingDestroys (s : State) : State :=
  (upTo 8).foldl (fun t d => if (t.die d).pkeyBusy && !t.keyInUse (t.pkeyOf d) then t.destroyKey d else t) s

end Sys2Proof.Machine
end

