-- ==== Sys2Proof/Machine/Ops.lean ====
section
/-!
DEFINITION. The shared operations of a strand: posted stores and their faults (R384 to R386), loads with the slot's own buffered
stores (R228 note 1), taking a trap and returning from one (R381, R382, R393), the abnormal end (R383), the stop of a core (R387,
R388), suspension and pick-up (R165, R166), and the frame in which every M and L form runs (R25, R28, R42).
-/
namespace Sys2Proof.Machine

/-! ## The strand as an agent -/

/-- The partition of a slot key: that of its launch, else that of its bank of the cluster. -/
def State.partOf (s : State) (k : Nat) : Nat :=
  match (s.slotAt k).launch with
  | some l => l.1
  | none => ((s.cluster (clusterOf (k / 8))).ctx (k % 2)).getD 0

/-- A slot as the origin of accesses. -/
def State.viaOf (s : State) (k : Nat) : Via :=
  ⟨some (clusterOf (k / 8)), dieOf (k / 8), bankKey (k / 8) (k % 2), s.partOf k, true⟩

def State.via (s : State) : Via := s.viaOf s.me

/-! ## The store buffer (R384, R385) -/

def log2Size (n : Nat) : Nat := Nat.log2 n

/-- A store-fault record (R385). -/
def stfRecord (va size : Nat) (tagged : Bool) (e : PFault) (pos : Nat) : Word :=
  BitVec.ofNat 8 pos ++ (0 : BitVec 2) ++ BitVec.ofBool (e = .attr) ++ BitVec.ofBool (e = .permission) ++ BitVec.ofBool tagged ++
    BitVec.ofNat 3 (log2Size size) ++ BitVec.ofNat 48 va

/-- Stores retained: from the oldest faulted store on (R385). A faulted store stands at the front, for older ones perform. -/
def Slot.retained (sl : Slot) : Nat := match sl.sbuf with
  | e :: _ => if e.held then sl.sbuf.length else 0
  | [] => 0

/-- STFQ (R385). -/
def Slot.stfq (sl : Slot) : Word :=
  BitVec.ofNat 54 (if sl.pend then 1 else 0) ++ BitVec.ofNat 5 sl.retained ++ BitVec.ofBool sl.ovf ++
    BitVec.ofNat 4 sl.stfRecs.length

def StoreKind.access : StoreKind → Access
  | .tagged => .stcTagged
  | .red _ _ => .amo
  | _ => .store

/-- A final status of a posted remote store (R434). -/
def State.rstOutcome (s : State) (k st va : Nat) (quiet : Bool) (serial : BitVec 32) : State :=
  if st = stDone then s
  else if st = stScope then
    s.modSlotAt k fun sl => { sl with replyTraps := sl.replyTraps ++ [⟨cScope, va, serial⟩] }
  else
    let unknown : Bool := st = stRestarted || st = stNoReply
    if quiet then
      s.modSlotAt k fun sl => { sl with rsts :=
        (BitVec.ofNat 48 va ++ BitVec.ofNat 8 st ++ (0 : BitVec 6) ++
          ((sl.rsts.extractLsb' 0 2) ||| (if unknown then (1 : BitVec 2) else (2 : BitVec 2))) : BitVec 64) }
    else s.modSlotAt k fun sl => { sl with replyTraps := sl.replyTraps ++ [⟨if unknown then cUnknown else cNotPresent, va, serial⟩] }

/-- Where the target of a remote access lies (R432): a scratchpad word as core x slice size + offset, or a physical address. -/
def State.remoteTarget (s : State) (v : Via) (va : Nat) (acc : Access) (target : Option Nat) :
    Except PFault (Nat × Bool × Bool) × State :=
  match regionOf va with
  | .memory =>
    match s.translate v va acc with
    | (.ok (pa, pg), s) => (.ok (pa, false, decide (pg.mode = .so)), s)
    | (.error e, s) => (.error e, s)
  | .localW => (.ok (v.ck / 2 * sliceSize + (va - localBase), true, false), s)
  | .clusterW => (.ok ((target.getD (clusterOf (v.ck / 2)) * 48) * sliceSize + (va - clusterBase), true, false), s)
  | _ => (.error .permission, s)

/-- The owner and the die of a remote target (R421). -/
def targetOwner (loc : Nat) (spad : Bool) : Nat :=
  if spad then clusterOwner (clusterOf (loc / sliceSize)) else sliceOwner loc

/-- A posted remote store after its translation: executed over the mesh, where it waits while the target has no room, or sent under a stamp
(R421, R432, R438). None where the interface has no room. -/
def State.sendStore (s : State) (k : Nat) (e : StoreEnt) (loc : Nat) (spad so : Bool) (fe : Nat) (quiet : Bool)
    (rel : Option Nat) : Option State :=
  let id := reqId false (k / 2) (s.partOf k)
  let op : RemOp := if fe = 5 then .fe loc false (BitVec.ofNat 64 (leNat e.data))
    else if fe = 6 then .fe loc true (BitVec.ofNat 64 (leNat e.data)) else .write loc spad so e.data rel
  let owner := targetOwner loc spad
  if ownerDie owner = dieOf (k / 8) then
    match s.execRemote id op with
    | (st, _, s') =>
      if isFinal st then some (s'.rstOutcome k st e.va quiet 0)
      else
        let r := s.requester id
        some (s.setRequester id { r with mesh := r.mesh ++ [{ op := op, va := e.va, quiet := quiet, busyAt := s.now }] })
  else (s.post id { owner := owner, op := op, va := e.va, quiet := quiet, cls := (s.slotAt k).tclass.toNat }).map Prod.snd

/-- Whether a write to a piece performs at a home on another die, not in the core's L1 (R207, R422). -/
def State.pieceFar (s : State) (v : Via) (home : Bool) (p : Piece) : Bool := match p.loc with
  | .spad _ => false
  | .mem pa pg => offDie v.die pa && (home || !(s.cached v.ck pg && pg.mode ≠ .so))

/-- The stamped write of a piece by slot `k` (R422). -/
def State.farWrite (s : State) (k va : Nat) (p : Piece) (bs : List Byte) (tag : Bool) (scope : Option Nat) : NetOp :=
  match p.loc with
  | .spad _ => { owner := 0, op := .ticket 0 0, va := va }
  | .mem pa pg =>
    { owner := sliceOwner pa, op := .line (pa / 64) pg.key (pg.mode = .so) [(pa % 64, bs, tag)] false scope, va := va,
      cls := (s.slotAt k).tclass.toNat, line := some (pa / 64) }

/-- Plain bytes written by a slot; what performs on another die waits at the interface under a stamp, and its loss is reported later (R422, R434). -/
def State.performBytes (s : State) (k va : Nat) (bs : List Byte) (tag : Bool) (ps : List Piece) : State :=
  let v := s.viaOf k
  match ps with
  | [] => s
  | p :: r =>
    let s := if s.pieceFar v false p then s.enqueue (reqId false (k / 2) v.part) (s.farWrite k va p (bs.take p.n) tag none)
      else s.writePiece v p (bs.take p.n) tag
    s.performBytes k va (bs.drop p.n) tag r

/-- Whether the interface of slot `k` takes the stamped writes of some pieces now (R422, R425). -/
def State.roomFor (s : State) (k : Nat) (ps : List Piece) (home : Bool) : Bool :=
  let v := s.viaOf k
  let far := ps.filter (s.pieceFar v home)
  let r := s.requester (reqId false (k / 2) v.part)
  far = [] || (r.queue = [] && far.all fun p => r.mayPost (s.farWrite k 0 p [] false none))

/-- Whether a write or a partial of the core to a line of another die has not performed. -/
def State.lineBusy (s : State) (ck line : Nat) : Bool := s.flight ck line ≠ []

/-- Whether a release store may perform at its homes: on another die only after what the core has sent there (R224). -/
def State.releaseReady (s : State) (k : Nat) (ps : List Piece) : Bool :=
  let v := s.viaOf k
  ps.all fun p => match p.loc with
    | .spad _ => true
    | .mem pa _ => !offDie v.die pa || (!s.lineBusy v.ck (pa / 64) && (look (s.coreBank v.ck).l1 (pa / 64)).isNone)

/-- A release store at the home or the scratchpad, with its metadata (R215, R236). -/
def State.performRelease (s : State) (k : Nat) (e : StoreEnt) (scope : Nat) (p : Piece) : State :=
  let v := s.viaOf k
  match p.loc with
  | .spad a => s.spadWriteFrom (k / 8) a e.data false
  | .mem pa pg =>
    if offDie v.die pa then s.enqueue (reqId false (k / 2) v.part) (s.farWrite k e.va p e.data false (some scope))
    else
      let t := (s.dropLine v.ck (pa / 64)).combine (pa / 64)
      let t := if pg.mode = .so then t.removeCopies (pa / 64) else t
      (t.homeWrite pg.key pa e.data false).setMeta (pa / 64) scope v.die (clusterOf (k / 8) % 48)

/-- A RED at a scratchpad, in the L1, or at its home (R239). -/
def State.performRed (s : State) (k : Nat) (e : StoreEnt) (op scope : Nat) (p : Piece) : State :=
  let v := s.viaOf k
  match p.loc with
  | .spad a => (s.atomicSpad (k / 8) a p.n fun old => some (redApply op p.n old (leNat e.data))).2
  | .mem pa pg =>
    if s.pieceFar v false p then
      s.enqueue (reqId false (k / 2) v.part) { s.farWrite k e.va p [] false none with
        op := .parts (pa / 64) pg.key (pg.mode = .so) [⟨pa % 64, p.n, op, scope, BitVec.ofNat 64 (leNat e.data)⟩] false }
    else s.redGlobal v.ck pg pa p.n op (leNat e.data) scope

/-- A RED that performs at its home slice on the die arrives at a merge point, which may hold it (R479). -/
def State.redMerge (s : State) (k : Nat) (ps : List Piece) : Option State :=
  let v := s.viaOf k
  ps.foldl (fun t p => match p.loc with
    | .spad _ => t
    | .mem pa pg =>
      if s.pieceFar v false p || (s.cached v.ck pg && pg.mode ≠ .so) then t
      else t.bind fun u => u.merge (homeDie pa) (pointSlice pa) (k / 2)) (some s)

/-- A translated store performs, or goes out under a stamp. None where it has to wait in the buffer. -/
def State.performStore (s : State) (k : Nat) (e : StoreEnt) (ps : List Piece) : Option State :=
  let v := s.viaOf k
  let id := reqId false (k / 2) v.part
  match e.kind with
  | .remote fe quiet rel target =>
    match s.remoteTarget v e.va .store target with
    | (.ok (loc, spad, so), s) => s.sendStore k e loc spad so fe quiet rel
    | (.error _, s) => some s
  | .release scope =>
    if s.roomFor k ps true && s.releaseReady k ps then some ((ps.foldl (fun t p => t.performRelease k e scope p) s).drain 1 id) else none
  | .red op scope =>
    if s.roomFor k ps false then (s.redMerge k ps).map fun s => (ps.foldl (fun t p => t.performRed k e op scope p) s).drain 1 id else none
  | kind => if s.roomFor k ps false then some ((s.performBytes k e.va e.data (kind = .tagged) ps).drain 2 id) else none

/-- What a release store that must wait sends home before itself: the dirty bytes of its lines on another die. -/
def State.beforeRelease (s : State) (k : Nat) (e : StoreEnt) (ps : List Piece) : State :=
  let v := s.viaOf k
  match e.kind with
  | .release _ => ps.foldl (fun t p => match p.loc with
    | .spad _ => t
    | .mem pa _ => if offDie v.die pa then t.dropLine v.ck (pa / 64) else t) s
  | _ => s

/-- The pieces of a buffered store: a remote store resolves its target itself; what is left of a store across two lines has been translated. -/
def State.storePieces (s : State) (k : Nat) (e : StoreEnt) : Except PFault (List Piece) × State :=
  match e.part, e.kind with
  | some p, _ => (.ok [p], s)
  | none, .remote _ _ _ target =>
    match s.remoteTarget (s.viaOf k) e.va .store target with
    | (.ok _, s) => (.ok [], s)
    | (.error x, s) => (.error x, s)
  | none, _ => s.resolve (s.viaOf k) e.va e.data.length e.kind.access

/-- A store across two lines, cut: the part that performs now with its piece, and the entry that is left (R213). `high` says that the upper part
performs first. -/
def StoreEnt.cut (e : StoreEnt) (p q : Piece) (high : Bool) : (StoreEnt × Piece) × StoreEnt :=
  let lo : StoreEnt := { e with data := e.data.take p.n }
  let hi : StoreEnt := { e with va := e.va + p.n, data := e.data.drop p.n }
  if high then ((hi, q), { lo with part := some p }) else ((lo, p), { hi with part := some q })

/-- A store of the front of the buffer performs: whole, or for `how` 1 and 2 the lower or the upper part alone of one across two lines (R213). -/
def State.performFront (s : State) (k how : Nat) (e : StoreEnt) (ps : List Piece) : Option (State × List StoreEnt) :=
  match ps with
  | [p, q] =>
    if how = 0 then (s.performStore k e ps).map fun t => (t, [])
    else
      let c := e.cut p q (how = 2)
      (s.performStore k c.1.1 [c.1.2]).map fun t => (t, [c.2])
  | _ => (s.performStore k e ps).map fun t => (t, [])

/-- One step of a store buffer: the oldest store that has not been translated is translated; it performs unless an older one is
retained; a fault is recorded (R384). -/
def State.translateStore (s : State) (k : Nat) (how : Nat := 0) : State :=
  let sl := s.slotAt k
  let n := (sl.sbuf.takeWhile fun e => e.held).length
  match sl.sbuf[n]? with
  | none => s
  | some e =>
    match s.storePieces k e with
    | (.ok ps, s) =>
      if n = 0 then
        match s.performFront k how e ps with
        | some (s, left) => s.modSlotAt k fun sl => { sl with sbuf := left ++ sl.sbuf.drop 1 }
        | none => s.beforeRelease k e ps
      else s.modSlotAt k fun sl => { sl with sbuf := sl.sbuf.set n { e with held := true } }
    | (.error x, s) =>
      s.modSlotAt k fun sl0 =>
        let sl : Slot := { sl0 with sbuf := sl0.sbuf.set n { e with held := true, faulted := true } }
        if sl.stfRecs.length < 8 then
          { sl with stfRecs := sl.stfRecs ++ [stfRecord e.va e.data.length (e.kind = .tagged) x n], pend := true }
        else { sl with ovf := true }

/-- Whether every store of the slot has passed translation or received a record (R271). -/
def Slot.drained (sl : Slot) : Bool := sl.sbuf.all fun e => e.held

/-! ## Locations of bytes, for the slot's own earlier stores (R228 note 1) -/

/-- A number for the location of each byte of an access; the windows of one scratchpad share theirs (R202). -/
def State.byteLocs (s : State) (v : Via) (va n : Nat) (acc : Access) : List Nat :=
  match (s.resolve v va n acc).1 with
  | .ok ps => ps.flatMap fun p => match p.loc with
    | .spad a => (upTo p.n).map fun i => 2 * (a + i) + 1
    | .mem pa _ => (upTo p.n).map fun i => 2 * (pa + i)
  | .error _ => (upTo n).map fun i => 2 ^ 60 + va + i

/-- A buffered store over the bytes of a load: location and byte pairs, and the tag of the last granule written. -/
def overlayOne (locs : List Nat) (g : Got) (el : List Nat) (data : List Byte) (tagged : Bool) : Got :=
  if (el.any fun l => locs.contains l) then
    { g with
      bytes := (locs.zip g.bytes).map (fun p => (((el.zip data).find? fun q => q.1 = p.1).map Prod.snd).getD p.2)
      tag := tagged }
  else g

/-- The bytes that a load of the slot sees: memory with the slot's own earlier stores over it. A retained RED applies its operation. -/
def State.overlay (s : State) (k : Nat) (v : Via) (va n : Nat) (g : Got) : Got :=
  let es := (s.slotAt k).sbuf
  if es = [] then g
  else
    let locs := s.byteLocs v va n .load
    es.foldl (fun g e =>
      match e.kind with
      | .remote _ _ _ _ => g
      | .red op _ =>
        let el := s.byteLocs v e.va e.data.length .amo
        let mine := match (s.resolve v e.va e.data.length .load) with
          | (.ok ps, t) => (t.readPieces v ps false).1.bytes
          | (.error _, _) => List.replicate e.data.length 0
        let old := (el.zip mine).map fun q => match (locs.zip g.bytes).find? fun p => p.1 = q.1 with
          | some p => p.2
          | none => q.2
        overlayOne locs g el (leBytes e.data.length (redApply op e.data.length (leNat old) (leNat e.data))) g.tag
      | kind => overlayOne locs g (s.byteLocs v e.va e.data.length kind.access) e.data (kind = .tagged)) g

/-- Whether an earlier buffered store of the slot that has not been translated overlaps the bytes. -/
def State.storeAhead (s : State) (k : Nat) (v : Via) (va n : Nat) (acc : Access) (only : StoreEnt → Bool) : Bool :=
  let es := (s.slotAt k).sbuf.filter fun e => !e.held && only e
  if es = [] then false
  else
    let locs := s.byteLocs v va n acc
    es.any fun e => (s.byteLocs v e.va e.data.length e.kind.access).any fun l => locs.contains l

/-! ## Ends of a strand -/

/-- What a waiting instruction has gathered is forgotten when it completes or traps. -/
def Slot.settle (sl : Slot) : Slot :=
  { sl with armed := none, joined := none, vecTurn := none, mqTurn := none, vecDone := 0, vecFlags := 0, vecAcc := [], issued := false, popped := [],
            xread := none, sent := none, reply := none, acked := false, flushed := false, ingress := none, readPart := none, wrote := 0, twinSent := false, twinOk := false, noBp := false }

/-- The monitor entry of a slot leaves the table of its cluster (R272). -/
def State.disarm (s : State) (k : Nat) : State :=
  let c := clusterOf (k / 8)
  if (s.cluster c).monitors.any fun m => m.slotKey = k then
    s.modCluster c fun x => { x with monitors := x.monitors.filter fun m => m.slotKey ≠ k }
  else s

/-- Replies to operations of a strand that has ended are discarded when they arrive (R435): no instruction waits for them. -/
def State.dropReplies (s : State) (k : Nat) : State :=
  let id := reqId false (k / 2) (s.partOf k)
  let r := s.requester id
  let s := if (s.coreBank (bankKey (k / 8) (k % 2))).skidOut = [] then s else s.modCoreBank (bankKey (k / 8) (k % 2)) fun b =>
    { b with skidOut := b.skidOut.map fun m => if m.slot = k / 2 % 4 && !m.op.home then { m with op := { m.op with waiting := true } } else m }
  if r.table = [] && r.queue = [] && r.mesh = [] then s
  else s.setRequester id { r with
    table := r.table.map fun (e : TabEnt) => if e.home then e else { e with waiting := true }
    queue := r.queue.map fun (e : NetOp) => if e.home then e else { e with waiting := true }
    mesh := r.mesh.map fun m => { m with dropped := true } }

/-- The slot enters IDLE (R153). That an unspent yield hint ends with its strand is a DESIGN CHOICE (log 59). -/
def State.freeSlot (s : State) (k : Nat) : State :=
  ((s.dropReplies k).disarm k).modSlotAt k fun sl =>
    { sl.settle with state := .idle, halted := false, routine := .none, launch := none, picked := none, pickFault := none,
                     killed := false, wdMark := false, migReq := false, yieldHint := false, replyTraps := [] }

/-- LEAVE of one DOMAINk of a slot (R192). Answers whether it completed a phase. -/
def State.leaveDomain (s : State) (k : Nat) (i : Nat) : Bool × State :=
  let h := (s.slotAt k).domains[i % 4]'(Nat.mod_lt _ (by decide))
  let s := s.modSlotAt k fun sl => { sl with domains := sl.domains.set (i % 4) 0 (Nat.mod_lt _ (by decide)) }
  match s.cellOf h with
  | some c => let r := c.leave; (r.2, s.setCell h r.1)
  | none => (false, s)

/-- An abnormal end (R383), in the order of its list; it enters the felling record with the cause (R480); an end that no trap causes has cause 0
here, and nothing states its ARG. -/
def State.abnormalEnd (s : State) (k cause : Nat) : State :=
  let s := (s.giveBack k).modSlotAt k fun sl => { sl with sbuf := [], stfRecs := [], ovf := false, pend := false }
  let s := (upTo 4).foldl (fun t i =>
    if (t.slotAt k).domains[i % 4]'(Nat.mod_lt _ (by decide)) = 0 then t
    else
      let r := t.leaveDomain k i
      -- a completing LEAVE is a release (R192)
      if r.1 then r.2.releaseAt (bankKey (k / 8) (k % 2))
        (kindScope (hKind ((t.slotAt k).domains[i % 4]'(Nat.mod_lt _ (by decide))))) else r.2) s
  let s := match (s.slotAt k).launch with
    | some l => s.setAbnormal l
    | none => s
  (s.freeSlot k).fell (dieOf (k / 8)) 0x01 (if cause = 0 then none else some cause) (k / 2)

/-! ## Taking a trap (R381, R382) -/

/-- The 64 bytes of a trap record (R382). -/
def trapBits (epcc g1 : Cap) (cause slot : Nat) (sw : BitVec 16) (addr : Nat) (stfq now : Word) : BitVec 512 :=
  now ++ stfq ++ BitVec.ofNat 64 addr ++ (0 : BitVec 32) ++ sw ++ (0 : BitVec 4) ++ BitVec.ofNat 2 slot ++ (0 : BitVec 1) ++
    BitVec.ofBool (cause = cStoreFault) ++ BitVec.ofNat 8 cause ++ g1.val ++ epcc.val

/-- Earlier stores of the slot to bytes of the record perform before it is written (R228 note 1). -/
def State.settleStores (s : State) (fuel : Nat) (at_ : Nat) : State :=
  match fuel with
  | 0 => s
  | n + 1 =>
    if s.storeAhead s.me s.via at_ 64 .store (fun _ => true) then (s.translateStore s.me).settleStores n at_ else s

/-- One write of 64 bytes of which granules 0 and 1 carry tags, at the home or in the scratchpad. -/
def State.writeTagged64 (s : State) (v : Via) (p : Piece) (bits : BitVec 512) (t0 t1 : Bool) : State :=
  let bs := leBytes 64 bits.toNat
  match p.loc with
  | .spad a =>
    let s := s.spadWriteFrom (v.ck / 2) a bs false
    { s with spad := (s.spad.setTag (a / 16) t0).setTag (a / 16 + 1) t1 }
  | .mem pa pg =>
    let s := (s.dropLine v.ck (pa / 64)).combine (pa / 64)
    let s := if pg.mode = .so then s.removeCopies (pa / 64) else s
    let s := s.homeWrite pg.key pa bs false
    { s with mem := (s.mem.setTag (pa / 16) t0).setTag (pa / 16 + 1) t1 }

/-- The bits of the record of a trap of the slot, and the tags of its granules 0 and 1. -/
def State.trapRecord (s : State) (cause addr : Nat) (sw : BitVec 16) (time : Word) : BitVec 512 × Bool × Bool :=
  let sl := s.sl
  let g1 := sl.reg 1
  (trapBits sl.pcc g1 cause (s.mySlot % 4) sw addr sl.stfq time, sl.pcc.tag, g1.tag)

/-- The last steps of take_trap: g1, PCC and HM; STORE_FAULT clears PEND once its record is written (R381, R386). -/
def State.enterHandler (s : State) (cause : Nat) : State :=
  let hd := s.myHeader
  let c := s.sl.trapRec
  (s.disarm s.me).modSl fun sl =>
    { (sl.setReg 1 (c.withCursor (c.cursor / 64 * 64))).settle with
      pcc := hd.kcap.withCursor (hd.base + hd.handler), hm := true, state := .ready,
      pend := if cause = cStoreFault then false else sl.pend }

/-- Whether a trap record reaches its place with the step: it stays on the die, and a twinned core sends none (R390, R422). -/
def State.trapNear (s : State) (p : Piece) : Bool :=
  !s.pieceFar s.via true p &&
  ((s.core s.myCore).twin.isNone || (match p.loc with
    | .spad a => a / sliceSize = s.myCore
    | .mem _ _ => false))

/-- take_trap of R381 for the slot whose step it is, at its PC. -/
def State.takeTrap (s : State) (cause addr : Nat) (sw : BitVec 16 := 0) : State :=
  let hd := s.myHeader
  let s := s.giveBack s.me
  if s.sl.hm || hd.handler = 0 then s.abnormalEnd s.me cause
  else
    let c := s.sl.trapRec
    let at_ := c.cursor / 64 * 64
    if (capCheck c at_ 64 (pL ||| pS ||| pLC ||| pSC)).isSome then s.abnormalEnd s.me cause
    else
      let s := s.settleStores 16 at_
      match s.resolve s.via at_ 64 .stcTagged with
      | (.ok [p], s) =>
        if s.trapNear p then
          let r := s.trapRecord cause addr sw s.now
          (s.writeTagged64 s.via p r.1 r.2.1 r.2.2).enterHandler cause
        else (s.disarm s.me).modSl fun sl => { sl.settle with state := .trapping cause addr sw s.now }
      | (_, s) => s.abnormalEnd s.me cause

/-- The address of STORE_FAULT: that of the oldest record (R380, R386). -/
def State.stfAddr (s : State) : Nat := match s.sl.stfRecs with
  | r :: _ => (r.extractLsb' 0 48).toNat
  | [] => 0

def State.takeStoreFault (s : State) : State := s.takeTrap cStoreFault s.stfAddr

/-! ## Poison: the stop of a core (R387, R388) -/

/-- The management core requeues a strand that started from a continuation record and ends any other (R388). -/
def State.requeue (s : State) (k : Nat) : State :=
  let sl := s.slotAt k
  if sl.state = .idle then s
  -- a member of a killed domain ends (R396)
  else if sl.killed then s.abnormalEnd k 0
  else match sl.picked, sl.launch with
    | some r, some l =>
      let s := s.modSlotAt k fun x => { x with sbuf := [], stfRecs := [], ovf := false, pend := false }
      let s := s.freeSlot k
      let c := clusterOf (k / 8)
      match s.pushStage c l r false with
      | some s => s
      | none =>
        -- a full queue: the record waits in the record store
        s.modCluster c fun x => { x with parked := x.parked ++ [⟨r, l, .stage c, false, true⟩] }
    | _, _ => s.abnormalEnd k 0

/-- The matrix queue of a core bank is discarded: one error record, and the advances of the signalling entries with ERR. -/
def State.discardQueue (s : State) (ck : Nat) : State :=
  let b := s.coreBank ck
  let s := match b.mq, b.launch with
    | j :: _, _ => s.errRecord j.part (Record.bits j.record.g0 16 10) 1 (Record.bits j.record.g0 0 8) eUncorrectable 0
    | [], some l => s.errRecord l.1 (pktTlidx (s.entry l).packet) 1 0 eUncorrectable 0
    | [], none => s
  let s := b.mq.foldl (fun t j => match j.pos with
    | some p => t.finishPos j.part (Record.bits j.record.g0 16 10) p true
    | none => t) s
  s.modCoreBank ck fun b => { b with mq := [] }

/-- What the skid ring of a core holds goes with the core. -/
def State.emptySkid (s : State) (core : Nat) : State :=
  [0, 1].foldl (fun t b => if (t.coreBank (bankKey core b)).skidIn = [] && (t.coreBank (bankKey core b)).skidOut = [] then t
    else t.modCoreBank (bankKey core b) fun x => { x with skidIn := [], skidOut := [] }) s

/-- A core stops on poisoned data. -/
def State.coreStop (s : State) (core : Nat) : State :=
  if (s.core core).stopped then s
  else
    let s := s.modCore core fun c => { c with stopped := true }
    let keys := (upTo 8).map fun i => 8 * core + i
    let s := keys.foldl (fun t k => t.modSlotAt k fun sl => { sl with sbuf := [] }) s
    let s := s.emptySkid core
    let s := (s.discardQueue (bankKey core 0)).discardQueue (bankKey core 1)
    let s := s.fell (dieOf core) 0x02 none (unitSource (dieOf core) 0)
    keys.foldl (fun t k => t.requeue k) s

/-! ## Suspension and pick-up (R165, R166) -/

def Header.point (h : Header) (i : Nat) : SafePoint := (h.points[i]?).getD ⟨0, 0, 0, 0⟩

/-- Step 3 of R165: the save routine of safe point `sp` is called. -/
def State.enterSave (s : State) (sp : Nat) (dest : SaveTo) : State :=
  let hd := s.myHeader
  s.modSl fun sl =>
    { (sl.setReg 1 sl.pcc).settle with
      pcc := sl.pcc.withCursor (hd.base + (hd.point sp).save), state := .ready, routine := .save sp dest }

/-- The generators as 256 bytes hold them: a 0 is loaded as 1 (R166). -/
def gensOf (bs : List Byte) : Vector (BitVec 32) 64 :=
  Vector.ofFn fun i =>
    let v := BitVec.ofNat 32 (leNat ((bs.drop (4 * i.val)).take 4))
    if v = 0 then 1 else v

def gensBytes (g : Vector (BitVec 32) 64) : List Byte := g.toList.flatMap fun v => leBytes 4 v.toNat

/-- A read of up to 256 bytes by a slot, checked: the bytes, or the cause of the trap. -/
def State.readBlock (s : State) (v : Via) (va n : Nat) : Except Nat (List Byte × Bool) × State :=
  (upTo ((n + 63) / 64)).foldl (fun r i =>
    match r with
    | (.error e, s) => (.error e, s)
    | (.ok (bs, p), s) =>
      match s.resolve v (va + 64 * i) (min 64 (n - 64 * i)) .load with
      | (.ok ps, s) =>
        if !s.piecesUp v ps then (.error cNotPresent, s)
        else let (g, s) := s.readPieces v ps false; (.ok (bs ++ g.bytes, p || g.poison), s)
      | (.error .permission, s) => (.error cPermission, s)
      | (.error .notPresent, s) => (.error cNotPresent, s)
      | (.error _, s) => (.error cAlign, s)) (.ok ([], false), s)

/-- The slot `k` picks up a record of launch `l` (R166): the state of the strand that starts. The hand-over acquires at the narrowest
scope that contains both cores (R167). -/
def State.pickUp (s : State) (k : Nat) (r : Record) (l : Nat × Nat) (marked : Bool) : State :=
  let core := k / 8
  let ck := bankKey core (k % 2)
  let s := s.acquireAt ck (coreScope (reqCore (Record.bits r.g3 96 24)) core)
  let hd := s.header l
  let sp := recSafept r
  let fresh : Bool := sp = 0xFFFF
  let d0 := Cap.ofWord (r.g2.val.setWidth 64)
  let d1 := Cap.ofWord (r.g2.val.extractLsb' 64 64)
  let base : Slot := { Slot.reset with
    preds := if fresh then 1 else recPred r ++ (1 : BitVec 1)
    domains := Vector.ofFn fun i => recDom r i.val
    stage := recStage r
    launch := some l
    state := .starting
    picked := some r
    wdMark := marked }
  let sl := ((base.setReg 2 r.g1).setReg 3 d0).setReg 4 d1
  if fresh then s.setSlotAt k { sl with pcc := r.g0 }
  else
    let sl := { sl.setReg 1 r.g0 with
      pcc := r.g0.withCursor (hd.base + (hd.point sp).restore), routine := .restore r.g0.cursor }
    let s := s.setSlotAt k sl
    match capCheck r.g1 r.g1.cursor 256 pL with
    | some c => s.modSlotAt k fun x => { x with pickFault := some (c, r.g1.cursor) }
    | none =>
      match s.readBlock (s.viaOf k) r.g1.cursor 256 with
      | (.ok (bs, poison), s) =>
        if poison then s.coreStop core else s.modSlotAt k fun x => { x with gens := gensOf bs }
      | (.error c, s) => s.modSlotAt k fun x => { x with pickFault := some (c, r.g1.cursor) }

/-! ## The frame of an M or L form -/

/-- How the body of a meaning ends. -/
inductive Res
  /-- the effect has performed and the PC advances -/
  | done (t : State)
  /-- the effect has performed and has set PCC itself -/
  | jump (t : State)
  /-- a trap of that cause and address, in the state given -/
  | trap (t : State) (cause addr : Nat)
  /-- the instruction has issued and waits in the state given -/
  | wait (t : State)
  /-- the cluster halts and the instruction is left unexecuted (R472) -/
  | halt (t : State)
  /-- the state is final: the strand ended, the slot suspended, the core stopped -/
  | next (t : State)

def Slot.finish (sl : Slot) (yield : Bool) : Slot :=
  { sl.settle with state := .ready, yieldHint := yield || sl.yieldHint }

/-- The PC moves past the instruction. -/
def Slot.advance (sl : Slot) (len : Nat) (yield : Bool) : Slot :=
  { sl.finish yield with pcc := sl.pcc.withCursor (sl.pcc.cursor + len) }

def State.advance (s : State) (len : Nat) (yield : Bool) : State := s.modSl fun sl => sl.advance len yield

/-- The slot waits with its instruction (R153). -/
def State.await (s : State) (i : Instr) : State := s.modSl fun sl => { sl with state := .waiting i }

/-- Whether an operation of a requester has no final reply. -/
def Requester.out (r : Requester) : Bool := r.table ≠ [] || r.queue ≠ [] || r.mesh ≠ [] || r.away

/-- Whether a reply to an earlier remote operation of the slot is missing (R228 note 6). -/
def State.repliesOut (s : State) : Bool := (s.requester s.myReq).out

/-- The scope of a release, as far as it matters to the L1: 0 for core scope and for what releases nothing (R227, R236). -/
def State.relScope (s : State) (op : Nat) (f : MForm) : Nat :=
  let domain := kindScope (hKind (s.sl.domains[f.ext.toNat % 4]'(Nat.mod_lt _ (by decide))))
  match op with
  | 0x189 => 1
  | 0x18A => 1
  | 0x18B => 1
  | 0x200 => 1
  | 0x201 => if s.sl.routine matches .save _ _ then 1 else 0
  | 0x203 => 0
  | 0x204 => 0
  | 0x205 => 1
  | 0x206 => domain
  | 0x208 => domain
  | 0x20B => 1
  | 0x2C3 => 1
  | 0x304 => 0
  | 0x305 => 0
  | 0x34A => 3
  | _ => moScopeF f

/-- Whether an instruction first sends home what the L1 of its core holds of other dies, and waits for it: a release of cluster scope or wider
(R236), and a command, whose engine observes every earlier operation (R228 note 3). -/
def State.flushes (s : State) (op : Nat) (f : MForm) : Bool :=
  (isRelease op f && 1 ≤ s.relScope op f) || op = 0x2C0 || op = 0x306 || op = 0x307

/-- A FENCE of kind ALL, and TLBINV, take the UO lines too (R236, R398). -/
def allLines (op : Nat) (f : MForm) : Bool := op = 0x34A || (op = 0x1C4 && f.ext = 0)

/-- A line that the L1 of a core holds for a home on another die: partials, or dirty bytes of an RC line, of a UO line too where all go. -/
def farLine (ck : Nat) (all : Bool) (l : Nat × L1Line) : Bool :=
  offDie (dieOf (ck / 2)) (64 * l.1) && (l.2.parts ≠ [] || (l.2.dirty ≠ 0 && (l.2.mode = .rc || all)))

/-- Whether a write-back or partial of the core, or a write of the slot, is on its way to another die. -/
def State.farOut (s : State) : Bool :=
  ((s.requester (s.coreReq s.myCoreKey 0)).open_.any fun q => q.home) ||
  ((s.requester s.myReq).open_.any fun q => q.line.isSome)

/-- What a release or a command waits for before it performs: none when nothing of the core's is left for another die. -/
def State.preFlush (s : State) (all : Bool) : Option State :=
  let ck := s.myCoreKey
  let lines := (s.coreBank ck).l1.filter (farLine ck all)
  -- an interface holds at most 16 messages (R402)
  let room := 16 - (s.requester (s.coreReq ck 0)).queue.length
  if lines = [] || s.sl.flushed then (if s.farOut then some s else none)
  else some (((lines.take room).foldl (fun t l => t.flushLine ck l.1) s).modSl fun sl => { sl with flushed := lines.length ≤ room })

/-- A trap that a waiter raises for earlier operations: the oldest serial (R434), or a write-back that ended unknown (R422). -/
def State.waiterTrap (s : State) (op : Nat) (f : MForm) : Option (Nat × Nat × State) :=
  match s.sl.replyTraps with
  | t :: r =>
    let o := r.foldl (fun a b => if precedes b.serial a.serial then b else a) t
    some (o.cause, o.addr, s.modSl fun sl => { sl with replyTraps := [] })
  | [] =>
    match (s.coreBank s.myCoreKey).lostHome with
    | a :: r => if 1 ≤ s.relScope op f && isRelease op f
        then some (cUnknown, a, s.modCoreBank s.myCoreKey fun b => { b with lostHome := r }) else none
    | [] => none

def never : State → Bool := fun _ => false

/-- The hint of an instruction that has sent its own strand into a save routine stays with the slot (R49). -/
def State.hint (s : State) (yield : Bool) : State :=
  if yield && !s.sl.hm && s.sl.state = .ready && (s.sl.routine matches .save _ _) then s.modSl fun sl => { sl with yieldHint := true } else s

/-- Runs the body of an instruction in the order of R42 and R25: the decode checks that read the state (`ill`, `typ`), the register
checks, the guard, the queues, earlier stores and replies, then the body. -/
def runM (i : Instr) (op : Nat) (f : MForm) (len : Nat) (ill typ : State → Bool) (body : Opnds → State → Res) (s : State) :
    Host.Outcome State Fault Refusal :=
  .next <|
    if ill s then s.takeTrap cIllegal 0
    else if typ s then s.takeTrap cType 0
    else if s.regBad op f then s.takeTrap cRegister 0
    else if !s.guard f then s.advance len false
    else
      let pops := s.sl.pops op f
      let ck := s.myCoreKey
      let held := s.sl.issued
      if !held && !s.queuesReady pops (s.sl.push op f) then s.await i
      else if drainsStores op f && s.sl.pend && !s.sl.hm then s.takeStoreFault
      else if drainsStores op f && !s.sl.drained then s.await i
      else if isRelease op f && s.repliesOut then s.await i
      else match (if s.flushes op f then s.preFlush (allLines op f) else none) with
      | some t => t.await i
      | none =>
      if !held && s.popsPoison pops then s.coreStop s.myCore
      else match (if isRelease op f then s.waiterTrap op f else none) with
      | some (cause, addr, t) => t.takeTrap cause addr
      | none =>
        let pop (t : State) : State := if held then t else t.popQueues ck pops
        match body (s.operands op f) s with
        | .done t => (pop t).advance len f.yield
        | .jump t => (pop t).modSl fun sl => sl.finish f.yield
        | .trap t cause addr => t.takeTrap cause addr
        | .wait t => (if held then t else t.issueQueues ck pops (s.sl.push op f)).await i
        | .halt t => t
        | .next t => (pop t).hint f.yield


/-- An M or L form without checks of its own on the state. -/
def runPlain (i : Instr) (op : Nat) (f : MForm) (body : Opnds → State → Res) (s : State) : Host.Outcome State Fault Refusal :=
  runM i op f f.len never never body s

/-- An S form: the M form it aliases, four bytes long (R44). -/
def runS (i : Instr) (op : Nat) (f : MForm) (body : Opnds → State → Res) (s : State) : Host.Outcome State Fault Refusal :=
  runM i op f 4 never never body s

end Sys2Proof.Machine
end

