-- ==== Sys2Proof/Machine/Debug.lean ====
section
/-!
DEFINITION. Breakpoints and the cross-trigger (R472, R473), the cruise log (R476), and the passing of time: the
global timestamp and the watchdog's counts (R179, R455).
-/
namespace Sys2Proof.Machine

/-! ## Raw writes -/

/-- Bytes within one line written by no agent at a physical address that belongs to no partition (R475, R476, R479): the line keeps
the key it has (log 5). -/
def State.rawWrite (s : State) (pa : Nat) (bs : List Byte) : State :=
  if backed pa then
    let s := s.combine (pa / 64)
    { s with mem := (s.mem.store pa bs).clearTags pa bs.length }.touch (pa / 64) false |>.invalidateHost (pa / 64)
  else s

/-! ## Breakpoints (R471, R472) -/

/-- The breakpoint of a cluster that matches an instruction at `pc`, or a data access of `n` bytes at `va`. -/
def Cluster.bpMatch (c : Cluster) (data : Bool) (va n : Nat) : Option Word :=
  c.bps.toList.find? fun w => w.getLsbD 48 && w.getLsbD 49 == data &&
    (let a := (w.extractLsb' 0 48).toNat; va ≤ a && a < va + n)

/-- The monitor entries of a bank of a cluster are dropped, and each WAITA wakes with pd true when its slot goes on (R272). -/
def State.dropMonitors (s : State) (c bank : Nat) : State :=
  let here (k : Nat) : Bool := clusterOf (k / 8) = c && k % 2 = bank
  let slots := s.slots.map fun (p : Nat × Slot) => if here p.1 && p.2.armed = some false then (p.1, { p.2 with armed := some true }) else p
  { s with slots := slots }.modCluster c fun x => { x with monitors := x.monitors.filter fun m => !here m.slotKey }

/-- Every slot of the cluster that is not IDLE halts; it keeps the state it held (R473). -/
def State.haltCluster (s : State) (c : Nat) : State :=
  ((s.dropMonitors c ((s.cluster c).liveBank % 2)).modCluster c fun x => { x with halted := true }) |> fun t =>
    { t with slots := t.slots.map fun p =>
        if clusterOf (p.1 / 8) = c && p.1 % 2 = t.liveBank (p.1 / 8) && p.2.state ≠ .idle then (p.1, { p.2 with halted := true }) else p }

def State.resumeCluster (s : State) (c : Nat) : State :=
  -- a context that waits for its next swap stays halted (R403)
  (s.modCluster c fun x => { x with halted := false }) |> fun t =>
    { t with slots := t.slots.map fun p =>
        if clusterOf (p.1 / 8) = c && p.1 % 2 = t.liveBank (p.1 / 8) then (p.1, { p.2 with halted := (t.cluster c).idled }) else p }

/-- A matched breakpoint: BREAKPOINT, or a halt that leaves the instruction unexecuted. -/
def State.hitBp (s : State) (w : Word) : Res :=
  if w.getLsbD 50 then .halt (s.haltCluster s.myCluster) else .trap s cBreak (w.extractLsb' 0 48).toNat

/-- A data access of the slot against the breakpoints of its cluster. -/
def State.dataBp (s : State) (va n : Nat) : Option Word :=
  if s.sl.hm then none else (s.cluster s.myCluster).bpMatch true va n

/-! ## The cruise log (R476) -/

/-- Instructions that wait for the reply of a load, an atomic, a full/empty step or WAITA; a vector instruction waits for one where its slot has a
read outstanding. -/
def waitsOnMemory (i : Instr) : Bool :=
  match i with
  | .ldDwordS _ _ _ | .ldWordS _ _ _ => true
  | i => match i.form with
    | some (op, _) => op ∈ [0x180, 0x182, 0x184, 0x185, 0x187, 0x188, 0x189, 0x18A, 0x18B, 0x18C, 0x1C0, 0x1C1, 0x1C2, 0x1C6, 0x292, 0x300, 0x302,
        0x303]
    | none => false

/-- The state of a core in the current clk: 0 running, 1 waiting on message, 2 waiting on memory, 3 idle. A halted slot counts as
none of them. -/
def State.cruiseOf (s : State) (core : Nat) : Nat :=
  let sls := (upTo 4).map fun i => s.slotAt (bankKey (4 * core + i) (s.liveBank core))
  let sls := sls.filter fun sl => !sl.halted
  if sls.any fun sl => sl.state = .ready || sl.state = .starting || (sl.state ≠ .idle && sl.routine matches .save _ _) then 0
  else if sls.any fun sl => (match sl.state with | .waiting i => waitsOnMemory i || sl.xread.isSome | _ => false) then 2
  else if sls.any fun sl => (match sl.state with | .waiting _ => true | .trapping _ _ _ _ => true | _ => false) then 1
  else 3

def State.cruiseOn (s : State) (core : Nat) : Bool := (s.csr (dieOf core) 0x4CA).getLsbD 0

/-- One 4-byte word of a core's ring. -/
def State.cruiseWord (s : State) (core : Nat) (w : BitVec 32) : State :=
  let c := s.core core
  let base := (s.csr (dieOf core) 0x4CA).extractLsb' 18 34
  let s := s.rawWrite (base.toNat * 2 ^ 18 + 4096 * (core % 2304) + 4 * (c.cruisePos % 1024)) (leBytes 4 w.toNat)
  s.modCore core fun c => { c with cruisePos := c.cruisePos + 1, counters := c.counters.set 10 (c.counters[10] + 1) }

def cruiseBits (delta st kind mark : Nat) : BitVec 32 :=
  BitVec.ofNat 12 mark ++ BitVec.ofNat 2 kind ++ BitVec.ofNat 2 st ++ BitVec.ofNat 16 delta

/-- An entry of the log with its words; an escape comes first when DELTA would exceed 0xFFFE. The STATE of an escape is a free
value (log 4). -/
def State.cruiseEntry (s : State) (core st kind mark : Nat) (words : List (BitVec 32)) : State :=
  if !s.cruiseOn core then s
  else
    let delta := (s.now - (s.core core).cruiseAt).toNat
    let s := if 0xFFFE < delta then
        let (w, s) := s.draw
        ((s.cruiseWord core (cruiseBits 0xFFFF (w.extractLsb' 0 2).toNat 1 0)).cruiseWord core (s.now.setWidth 32)).cruiseWord core
          (s.now.extractLsb' 32 32)
      else s
    let s := s.cruiseWord core (cruiseBits (if 0xFFFE < delta then 0 else delta) st kind mark)
    let s := words.foldl (fun t w => t.cruiseWord core w) s
    s.modCore core fun c => { c with cruiseAt := s.now }

/-- The changes of state of every core since the last look; a core whose slots are gone has become idle. -/
def State.cruise (s : State) : State :=
  let here : List Nat := s.slots.map fun p => p.1 / 8
  let busy : List Nat := (s.cores.filter fun c => c.2.cruiseState ≠ 3).map Prod.fst
  ((here ++ busy).eraseDups).foldl (fun t core =>
    let st := t.cruiseOf core
    if (t.core core).cruiseState = st then t
    else (t.cruiseEntry core st 0 0 []).modCore core fun c => { c with cruiseState := st }) s

/-! ## Time -/

/-- Whether nothing starts on the cores of a cluster: a debug halt, or a swap that has brought no context (R403, R473). -/
def Cluster.resting (c : Cluster) : Bool := c.halted || c.idled

/-- Whether the context of a slot key is on the machine: its bank is the live one (R401, R408). -/
def State.isLive (s : State) (k : Nat) : Bool := k % 2 = s.liveBank (k / 8)

/-- Whether a slot that waits with an instruction is WAITING for the watchdog: with any wait of R153, on a queue (R27), and on room in the
matrix queue (R281), but not for a load, a store, an atomic, a fence or a vector instruction, none of which R153 names and whose
rows in R273 have no WATCHDOG. -/
def State.watched (s : State) (k : Nat) (i : Instr) : Bool :=
  let sl := s.slotAt k
  let t : State := { s with cur := .slot k }
  match i with
  | .ldDwordS _ _ _ | .ldWordS _ _ _ | .stDwordS _ _ _ | .stWordS _ _ _ => false
  | i => match i.form with
    | some (op, f) =>
      (!sl.issued && !t.queuesReady (sl.pops op f) (sl.push op f)) || sl.mqTurn.isSome ||
        !((0x180 ≤ op && op < 0x187) || (0x18D ≤ op && op < 0x190) || (0x1C0 ≤ op && op < 0x1C6) || op / 64 = 9 || op / 64 = 10)
    | none => true

/-- Whether a slot is WAITING on the machine for the watchdog of a partition (R153, R179). -/
def State.inWait (s : State) (p : Nat) (x : Nat × Slot) : Bool :=
  s.isLive x.1 && !x.2.halted && s.partOf x.1 = p && (match x.2.state with | .waiting i => s.watched x.1 i | _ => false)

/-- Whether a partition has a WAITING slot or a parked record, so that its watchdog counts (R179). -/
def State.counting (s : State) (p : Nat) : Bool :=
  s.slots.any (s.inWait p) ||
  (s.clusters.any fun c => c.2.parked.any fun r => r.launch.1 = p && !r.marked && c.2.ctx c.2.liveBank = some p)

/-- The clk, of `dt` that pass, in which each slot of a core is READY and does not issue (event 0x002): all of them for a READY slot, less the
one in which it issued. -/
def State.idleClk (s : State) (n dt i : Nat) : Nat :=
  let sl := s.slotAt (bankKey (4 * n + i) (s.liveBank n))
  if sl.state = .ready && !sl.halted then (if (s.core n).issuedAt = some (i, s.now) then dt - 1 else dt) else 0

def State.countIdle (s : State) (dt : Nat) : State :=
  ((s.slots.map fun p => p.1 / 8).eraseDups).foldl (fun t n =>
    t.modCore n fun c => { c with counters := c.counters.mapIdx fun j v =>
      if 4 ≤ j && j < 8 then v + BitVec.ofNat 32 (s.idleClk n dt (j - 4)) else v }) s

/-- `dt` clk pass. -/
def State.pass (s : State) (dt : Nat) : State :=
  if dt = 0 then s
  else
    { s.countIdle dt with
      now := s.now + BitVec.ofNat 64 dt
      partitions := s.partitions.map fun q =>
        if s.counting q.1 then (q.1, { q.2 with wdCount := q.2.wdCount + BitVec.ofNat 64 dt }) else q }

/-- A wait of the partition is satisfied in this clk (R179). -/
def State.satisfied (s : State) (p : Nat) : State := s.modPart p fun q => { q with wdCount := 0 }

end Sys2Proof.Machine
end

