-- ==== Sys2Proof/Machine/Access.lean ====
section
/-!
DEFINITION. What every access of a strand shares (R255): capability and alignment checks, data breakpoints, translation, the waits that
the ordering rules ask for (R228, R235), reads that cross a die link (R422), the timeline set as memory (R288), poison (R217) and the
egress router of twinned cores (R390).
-/
namespace Sys2Proof.Machine

/-! ## Checks -/

def PFault.cause : PFault → Nat
  | .align => cAlign
  | .attr => cAlign
  | .notPresent => cNotPresent
  | .permission => cPermission

/-- Steps 1 to 3 of R255: the capability, natural alignment where `align` asks for it, and the regions of R201. -/
def accessCheck (c : Cap) (ea : Int) (size : Nat) (perm : BitVec 7) (align : Bool) : Option (Nat × Nat) :=
  match capCheck c ea size perm with
  | some cause => some (cause, eaNat ea)
  | none =>
    if align && eaNat ea % size ≠ 0 then some (cAlign, eaNat ea)
    else if regionOf (eaNat ea) ≠ regionOf (eaNat ea + size - 1) then some (cAlign, eaNat ea)
    else none

/-- The checks, then a data breakpoint (R472), then `k` with the address. -/
def State.withAddress (s : State) (c : Cap) (ea : Int) (size : Nat) (perm : BitVec 7) (align : Bool) (k : Nat → Res) : Res :=
  match accessCheck c ea size perm align with
  | some (cause, addr) => .trap s cause addr
  | none =>
    match s.dataBp (eaNat ea) size with
    | some w => s.hitBp w
    | none => k (eaNat ea)

/-- The pieces of a precise access, or its trap. -/
def State.withPieces (s : State) (va size : Nat) (acc : Access) (k : List Piece → State → Res) : Res :=
  match s.resolve s.via va size acc with
  | (.error e, s) => .trap s e.cause va
  | (.ok ps, s) => k ps s

/-! ## Waits for earlier accesses of the slot -/

/-- A release that has not performed stands in the buffer (R228 note 2); one of fabric scope holds nothing back (R233). -/
def Slot.releaseAhead (sl : Slot) : Bool := sl.sbuf.any fun e => !e.held && (match e.kind with
  | .release sc => sc < 4
  | .remote _ _ (some sc) _ => sc < 4
  | _ => false)

def soPiece (p : Piece) : Bool := match p.loc with
  | .mem _ pg => pg.mode = .so
  | _ => false

/-- Whether a store of the buffer goes to an SO page. -/
def State.soStore (s : State) (k : Nat) (e : StoreEnt) : Bool :=
  match e.kind with
  | .remote _ _ _ target =>
    (match (s.remoteTarget (s.viaOf k) e.va .store target).1 with
     | .ok (_, _, so) => so
     | .error _ => false)
  | _ => match (s.resolve (s.viaOf k) e.va e.data.length e.kind.access).1 with
    | .ok ps => ps.any soPiece
    | .error _ => false

/-- A store to an SO page that has not performed stands in the buffer, or is on its way (R235). -/
def State.soAhead (s : State) (k : Nat) : Bool :=
  (((s.slotAt k).sbuf.filter fun e => !e.held).any fun e => s.soStore k e) ||
  (s.requester (reqId false (k / 2) (s.partOf k))).open_.any fun q => match q.op with
    | .line _ _ so _ _ _ => so
    | .parts _ _ so _ _ => so
    | .write _ _ so _ _ => so
    | _ => false

/-- An RST that has not been sent stands in the buffer. -/
def Slot.remoteAhead (sl : Slot) : Bool := sl.sbuf.any fun e => !e.held && (e.kind matches .remote _ _ _ _)

/-- A RED of the slot to a home on another die is on its way (R229). -/
def State.redOut (s : State) (k : Nat) : Bool :=
  (s.requester (reqId false (k / 2) (s.partOf k))).open_.any fun q => !q.home && (q.op matches .parts _ _ _ _ _)

/-- Whether partials of the core are on their way to a line of the pieces, which a read cannot forward; an atomic follows every write of the core
to its line, and the slot's earlier REDs (R224, R229). -/
def State.farHeld (s : State) (ps : List Piece) (atom : Bool) : Bool :=
  (atom && s.redOut s.me) ||
  ps.any fun p => match p.loc with
    | .spad _ => false
    | .mem pa _ => (s.flight s.myCoreKey (pa / 64)).any fun op => atom || (op matches .parts _ _ _ _ _)

/-- Whether an access to the pieces waits for earlier stores and remote operations of its slot: an SO page orders every pair, an
acquire follows earlier releases, an access that reads at the home follows stores to its own bytes, an atomic every store (R227 to R229, R235,
R244). -/
def State.mustWait (s : State) (va n : Nat) (ps : List Piece) (acq atHome atom : Bool) : Bool :=
  let sl := s.sl
  if sl.sbuf = [] then (ps.any soPiece && s.repliesOut) || s.farHeld ps atom
  else
    (ps.any soPiece && (s.repliesOut || s.soAhead s.me || sl.remoteAhead)) ||
    (acq && sl.releaseAhead) || (atom && !sl.drained) ||
    (atHome && s.storeAhead s.me s.via va n .load (fun _ => true)) ||
    -- a RED that has not been applied forwards nothing
    s.storeAhead s.me s.via va n .load (fun e => e.kind matches .red _ _) ||
    s.farHeld ps atom

/-! ## Twinned cores (R390) -/

/-- Whether a core is the twin of a primary (R390). -/
def State.isTwin (s : State) (core : Nat) : Bool :=
  match (s.core core).twin with
  | some (_, primary) => !primary
  | none => false

/-- The slot of the twin that runs the same strand (R390). -/
def State.twinSlot (s : State) (k : Nat) : Option Nat := (s.core (k / 8)).twin.map fun t => 8 * t.1 + k % 8

/-- Whether a piece lies outside the core's own scratchpad. -/
def pieceLeaves (core : Nat) (p : Piece) : Bool := match p.loc with
  | .spad a => a / sliceSize ≠ core
  | .mem _ _ => true

/-- A message of a twinned core enters the egress router and waits until it has compared equal; another core goes on. -/
def State.gate (s : State) (leaves : Bool) (bytes : List Byte) (k : State → Res) : Res :=
  match (s.core s.myCore).twin with
  | none => k s
  | some _ =>
    if !leaves || s.sl.twinOk then k s
    else if s.sl.twinSent then .wait s
    else .wait ((s.modSl fun sl => { sl with twinSent := true }).modCore s.myCore fun c =>
      { c with twinMsgs := c.twinMsgs ++ [⟨crc64 bytes, s.now, s.me, 0⟩] })

/-- The header that the hash of a message covers: opcode, address, size (log 10). -/
def msgHead (op va n : Nat) : List Byte := leBytes 2 op ++ leBytes 8 va ++ leBytes 2 n

/-! ## Trap records that leave the core (R381, R390, R422) -/

/-- The handler begins for the slot, and for its twin (R390). -/
def State.pairHandler (s : State) (cause : Nat) : State :=
  let t := s.enterHandler cause
  match s.twinSlot s.me with
  | some u => if (t.slotAt u).state matches .trapping _ _ _ _ then { ({ t with cur := .slot u }.enterHandler cause) with cur := s.cur } else t
  | none => t

/-- The record of a trap on its way: it is compared for a twinned core, and written once; at a home on another die it is a stamped write, before
which the core's earlier writes to its line perform. The handler begins when it has performed. -/
def State.trapStep (s : State) (cause addr : Nat) (sw : BitVec 16) (time : Word) : State :=
  let at_ := s.sl.trapRec.cursor / 64 * 64
  let r := s.trapRecord cause addr sw time
  let bs := leBytes 64 r.1.toNat
  match s.resolve s.via at_ 64 .stcTagged with
  | (.ok [p], s) =>
    let write (s : State) : Res :=
      if s.pieceFar s.via true p then
        match p.loc, s.sl.sent with
        | .mem pa pg, none =>
          if s.lineBusy s.myCoreKey (pa / 64) then .wait s
          else
            let runs := (upTo 4).map fun i => (16 * i, (bs.drop (16 * i)).take 16, if i = 0 then r.2.1 else i = 1 && r.2.2)
            (match (s.setL1 s.myCoreKey (pa / 64) none).post s.myReq { s.farWrite s.me at_ p bs false none with
                op := .line (pa / 64) pg.key (pg.mode = .so) runs false none, waiting := true } with
             | some (serial, t) => .wait (t.modSl fun sl => { sl with sent := some serial })
             | none => .wait s)
        | _, _ =>
          match s.sl.reply with
          | some (st, _) => .done ((s.rstOutcome s.me st at_ false (s.sl.sent.getD 0)).pairHandler cause)
          | none => .wait s
      else .done ((s.writeTagged64 s.via p r.1 r.2.1 r.2.2).pairHandler cause)
    match s.gate (pieceLeaves s.myCore p) (msgHead 0x183 at_ 64 ++ bs ++ leBytes 1 ((if r.2.1 then 1 else 0) + (if r.2.2 then 2 else 0))) write with
    | .done t => t
    | .wait t => t
    | _ => s
  | (_, s) => s.abnormalEnd s.me cause

/-! ## Reads -/

/-- A read that leaves the die goes out once and is answered later; `lost` where it draws no reply (R422). -/
def State.farRead (s : State) (far up : Bool) (lost k : State → Res) : Res :=
  if !far then k s
  else match s.sl.xread with
    | none => .wait (s.modSl fun sl => { sl with xread := some (1, s.now) })
    | some (n, t) =>
      if up then k s
      else if 16 ≤ n && 2048 ≤ (s.now - t).toNat then lost s
      else .wait s

/-- A read of a line whose home lies on another die or behind the host attach (R422). -/
def State.overLink (s : State) (va : Nat) (far up : Bool) (k : State → Res) : Res :=
  s.farRead far up (fun s => .trap s cUnknown va) k

/-- The most entries of a skid ring that one core has used since the last swap of its cluster, in SWAPSTAT of the dies whose SWAPCTL names it (R403). -/
def State.noteSkid (s : State) (core : Nat) : State :=
  let b := s.coreBank (bankKey core (1 - s.liveBank core % 2))
  let n := b.skidIn.length + b.skidOut.length
  (upTo Config.dies).foldl (fun t d =>
    let st := t.csr d 0x371
    if ((t.csr d 0x370).extractLsb' 15 9).toNat = clusterOf core && (st.extractLsb' 14 6).toNat < n
    then t.setCsr d 0x371 ((st &&& 0x3FFF) ||| BitVec.ofNat 64 (n * 2 ^ 14)) else t) s

/-- The answer to a read of a context that is swapped out enters the ingress half (R409). -/
def State.capture (s : State) (got : Option Got) : State :=
  let b := s.coreBank s.myCoreKey
  if 16 ≤ b.skidIn.length || b.skidIn.any (fun e => e.slot = s.mySlot % 4) then s
  else (s.setCoreBank s.myCoreKey { b with skidIn := b.skidIn ++ [{ slot := s.mySlot % 4, got := got }] }).noteSkid s.myCore

/-- The scope check of an acquire on every line it reads (R237). -/
def State.acquireOk (s : State) (ps : List Piece) (scope : Nat) : Bool :=
  ps.all fun p => match p.loc with
    | .spad _ => true
    | .mem pa _ => s.scopeCheck (pa / 64) s.myCore scope

def State.combineAll (s : State) (ps : List Piece) : State :=
  ps.foldl (fun t p => match p.loc with
    | .spad _ => t
    | .mem pa _ => t.combine (pa / 64)) s

/-- A read of one part of a load, with the slot's own buffered stores over it. -/
def State.readPart (s : State) (va : Nat) (p : Piece) : Got × State :=
  let (g, s) := s.readPieces s.via [p] false
  (s.overlay s.me s.via va p.n g, s)

/-- A load across two lines reads them one after the other where its turn says so, and another access may fall between (R213, R269): the number of
the turn says which part comes first. -/
def State.splitRead (s : State) (va : Nat) (p q : Piece) (k : Got → State → Res) : Res :=
  match s.sl.readPart, s.groups with
  | some (low, g), _ =>
    let r := if low then s.readPart (va + p.n) q else s.readPart va p
    if r.1.poison then .next (r.2.coreStop s.myCore)
    else k ⟨if low then g.bytes ++ r.1.bytes else r.1.bytes ++ g.bytes, false, false⟩ r.2
  | none, some n =>
    let low : Bool := n % 2 = 0
    let r := if low then s.readPart va p else s.readPart (va + p.n) q
    if r.1.poison then .next (r.2.coreStop s.myCore)
    else .wait (r.2.modSl fun sl => { sl with readPart := some (low, r.1) })
  | none, none =>
    let r := s.readPart va p
    let t := r.2.readPart (va + p.n) q
    if r.1.poison || t.1.poison then .next (t.2.coreStop s.myCore) else k ⟨r.1.bytes ++ t.1.bytes, false, false⟩ t.2

/-- What memory gives a load of some pieces: none for an acquire of scope `acq` that the scope checker refuses. -/
def State.serve (s : State) (ps : List Piece) (acq : Option Nat) : Option Got × State :=
  match acq with
  | some sc =>
    let s := s.combineAll ps
    if !s.acquireOk ps sc then (none, s) else let r := s.readPieces s.via ps true; (some r.1, r.2)
  | none => let r := s.readPieces s.via ps false; (some r.1, r.2)

/-- A load takes what memory gave it, with the slot's own buffered stores over it. -/
def State.takeGot (s : State) (va n : Nat) (acq : Option Nat) (k : Got → State → Res) (got : Option Got) : Res :=
  match got with
  | none => .trap s cScope va
  | some g =>
    if g.poison then .next (s.coreStop s.myCore)
    else k (s.overlay s.me s.via va n g) (match acq with
      | some sc => s.acquireAt s.myCoreKey sc
      | none => s)

/-- A load of the pieces: `acq` is the scope of an acquire. One that has left the die is answered into the skid ring while its context is swapped out
(R409), and takes that answer when the context resumes (R408). -/
def State.loadPieces (s : State) (op va n : Nat) (ps : List Piece) (acq : Option Nat) (k : Got → State → Res) : Res :=
  let v := s.via
  if s.mustWait va n ps acq.isSome acq.isSome false then .wait s
  else s.gate (ps.any (pieceLeaves s.myCore)) (msgHead op va n) fun s =>
    let far := s.readCrosses v ps acq.isSome
    s.overLink va far (s.piecesUp v ps) fun s =>
      if far && !s.isLive s.me then let r := s.serve ps acq; .wait (r.2.capture r.1)
      else match (if far then s.sl.ingress else none), acq, ps with
      | some got, _, _ => s.takeGot va n acq k got
      | none, none, [p, q] => s.splitRead va p q k
      | none, _, _ => let r := s.serve ps acq; r.2.takeGot va n acq k r.1

/-! ## The timeline set as memory (R288) -/

/-- One aligned 8-byte word of the set, by its offset. -/
def Partition.setWord (q : Partition) (o : Nat) : Word :=
  if o < 0x2000 then (q.timeline (o / 8)).tlWord
  else if o < 0x6000 then ((q.timeline ((o - 0x2000) / 16)).tcWide.extractLsb' (o / 8 % 2 * 64) 64)
  else if o < 0x8000 then
    (((look q.errQ ((o - 0x6000) / 32)).getD 0).extractLsb' (o / 8 % 4 * 64) 64)
  else q.eqCount

/-- The little-endian bytes of the set. -/
def Partition.setBytes (q : Partition) (o n : Nat) : List Byte :=
  (upTo n).map fun i => (q.setWord ((o + i) / 8 * 8)).extractLsb' ((o + i) % 8 * 8) 8

/-- A load of the engine windows: bytes of the set, or the fault. -/
def setLoad (q : Partition) (va n : Nat) : Except PFault (List Byte) :=
  if setBase ≤ va && va + n ≤ setBase + 0x8008 then
    let whole : Bool := va / 8 = (va + n - 1) / 8 || (n = 16 && va % 16 = 0) || (n = 64 && va % 64 = 0)
    if whole then .ok (q.setBytes (va - setBase) n) else .error .permission
  else .error (engineFault va n)

/-- A load of `n` bytes at `va`, whichever region holds it. -/
def State.loadAt (s : State) (op va n : Nat) (acq : Option Nat) (k : List Piece → Got → State → Res) : Res :=
  if regionOf va = .engine then
    match setLoad (s.part s.myPart) va n with
    | .error e => .trap s e.cause va
    | .ok bs =>
      match acq with
      | none => k [] ⟨bs, false, false⟩ s
      | some sc => if s.sl.releaseAhead then .wait s else k [] ⟨bs, false, false⟩ (s.acquireAt s.myCoreKey sc)
  else s.withPieces va n .load fun ps s => s.loadPieces op va n ps acq (k ps)

/-! ## Posted stores -/

/-- A store enters the buffer; with 16 entries the slot waits (R384). -/
def State.postStore (s : State) (va : Nat) (data : List Byte) (kind : StoreKind) : Res :=
  if 16 ≤ s.sl.sbuf.length then .wait s
  else .done (s.modSl fun sl => { sl with sbuf := sl.sbuf ++ [⟨va, data, kind, false, false, none⟩] })

/-- Whether an access lies in the matrix queue window (R281). -/
def inQueueWindow (va n : Nat) : Bool := engineBase ≤ va && va + n ≤ engineBase + 64

/-- The checks of a posted store at issue (R255, R281), then its posting. -/
def State.storeAt (s : State) (c : Cap) (ea : Int) (size : Nat) (perm : BitVec 7) (align : Bool) (kind : StoreKind) (data : List Byte) :
    Res :=
  s.withAddress c ea size perm align fun va =>
    if inQueueWindow va size then .trap s cPermission va else s.postStore va data kind

/-! ## Replies -/

/-- A final status of an operation without a status destination (R434): the trap. -/
def statusCause (st : Nat) : Nat :=
  if st = stScope then cScope
  else if st = stRestarted || st = stNoReply then cUnknown
  else cNotPresent

/-- An operation under a stamp: sent once, then waited for (R425, R427). `k` takes the final status and the result. -/
def State.exchange (s : State) (owner : Nat) (op : RemOp) (va : Nat) (k : Nat → Word → State → Res) (line : Option Nat := none) : Res :=
  match s.sl.sent with
  | some _ =>
    match s.sl.reply with
    | some (st, w) => k st w s
    | none => .wait s
  | none =>
    match s.post s.myReq { owner := owner, op := op, va := va, waiting := true, cls := s.sl.tclass.toNat, line := line } with
    | some (serial, s) => .wait (s.modSl fun sl => { sl with sent := some serial })
    | none => .wait s

end Sys2Proof.Machine
end

