-- ==== Sys2Proof/Machine/Memory.lean ====
section
/-!
DEFINITION. Loads, stores, tagged and group moves, full/empty operations and line operations, class 0x6 (R251 to R263), and the S forms
that alias them (R45).
-/
namespace Sys2Proof.Machine

/-! ## Widths (R254) -/

/-- Bytes of a width code. -/
def widthBytes (e : BitVec 5) : Nat := 2 ^ (e.toNat % 8)

/-- What a load of a width code leaves in a register. -/
def loadValue (e : BitVec 5) (bs : List Byte) : Cap :=
  let v := leNat bs
  if e = 4 then ⟨BitVec.ofNat 128 v, false⟩
  else if 8 ≤ e.toNat then Cap.ofWord (BitVec.ofInt 64 (let m := 2 ^ (8 * widthBytes e); if m ≤ 2 * v then (v : Int) - m else v))
  else Cap.ofWord (BitVec.ofNat 64 v)

/-- The bytes that a store of a width code takes from b. -/
def storeBytes (e : BitVec 5) (c : Cap) : List Byte := leBytes (widthBytes e) c.val.toNat

def Cap.ea (c : Cap) (off : Int) : Int := (c.cursor : Int) + off

/-! ## Loads and stores -/

/-- LD (R256): an acquire at SCOPE when ORD is 1, and then naturally aligned. -/
def ldBody (op : Nat) (f : MForm) (x : Opnds) (s : State) : Res :=
  let n := widthBytes f.ext
  let acq := if moOrdF f = 1 then some (moScopeF f) else none
  s.withAddress x.a (x.a.cursor + f.off) n pL acq.isSome fun va =>
    s.loadAt op va n acq fun _ g s => .done (s.writeD f.d (loadValue f.ext g.bytes))

def execLd (f : MForm) (s : State) : Host.Outcome State Fault Refusal := runPlain (.ld f) 0x180 f (ldBody 0x180 f) s

/-- ST (R257): a release at SCOPE when ORD is 2, and then naturally aligned; the release actions precede its own store. -/
def stBody (f : MForm) (x : Opnds) (s : State) : Res :=
  let rel : Bool := moOrdF f = 2
  match s.storeAt x.a (x.a.cursor + f.immOff) (widthBytes f.ext) pS rel (if rel then .release (moScopeF f) else .plain)
      (storeBytes f.ext x.b) with
  | .done t => .done (if rel then t.releaseAt t.myCoreKey (moScopeF f) else t)
  | r => r

def execSt (f : MForm) (s : State) : Host.Outcome State Fault Refusal := runPlain (.st f) 0x181 f (stBody f) s

/-- LDC (R258): the tag arrives only with the memory tag, LC and a page with TG. -/
def execLdc (f : MForm) (s : State) : Host.Outcome State Fault Refusal :=
  runPlain (.ldc f) 0x182 f (fun x s =>
    s.withAddress x.a (x.a.cursor + f.off) 16 pL true fun va =>
      s.loadAt 0x182 va 16 none fun ps g s =>
        let tg : Bool := ps.all fun p => match p.loc with
          | .spad _ => true
          | .mem _ pg => pg.tg
        .done (s.writeD f.d ⟨BitVec.ofNat 128 (leNat g.bytes), g.tag && tg && x.a.perm &&& pLC ≠ 0⟩)) s

/-- STC (R33, R34, R258). -/
def execStc (f : MForm) (s : State) : Host.Outcome State Fault Refusal :=
  runPlain (.stc f) 0x183 f (fun x s =>
    s.storeAt x.a (x.a.cursor + f.immOff) 16 (if x.b.tag then pS ||| pSC else pS) true (if x.b.tag then .tagged else .plain)
      (leBytes 16 x.b.val.toNat)) s

/-- The global lines of an access leave the L1 with their dirty bytes and partials written home (R260, R263). -/
def State.dropPieces (s : State) (ps : List Piece) : State :=
  ps.foldl (fun t p => match p.loc with
    | .spad _ => t
    | .mem pa pg => if t.cached t.myCoreKey pg then t.dropLine t.myCoreKey (pa / 64) else t) s

/-- LDLU (R260). -/
def execLdlu (f : MForm) (s : State) : Host.Outcome State Fault Refusal :=
  runPlain (.ldlu f) 0x184 f (fun x s =>
    let n := widthBytes f.ext
    s.withAddress x.a (x.a.cursor + f.off) n pL false fun va =>
      s.loadAt 0x184 va n none fun ps g s => .done ((s.dropPieces ps).writeD f.d (loadValue f.ext g.bytes))) s

/-- The four registers of a group from 64 bytes, tags cleared (R259). -/
def State.setGroup (s : State) (d : BitVec 5) (bs : List Byte) : State :=
  (upTo 4).foldl (fun t k => t.setReg (d + BitVec.ofNat 5 k) ⟨BitVec.ofNat 128 (leNat ((bs.drop (16 * k)).take 16)), false⟩) s

def execLd64 (f : MForm) (s : State) : Host.Outcome State Fault Refusal :=
  runPlain (.ld64 f) 0x185 f (fun x s =>
    s.withAddress x.a (x.a.cursor + f.off) 64 pL true fun va =>
      s.loadAt 0x185 va 64 none fun _ g s => .done (s.setGroup f.d g.bytes)) s

/-- The register group as a record: each granule with the tag of its register (R282). -/
def State.group (s : State) (b : BitVec 5) : Record := ⟨s.reg b, s.reg (b + 1), s.reg (b + 2), s.reg (b + 3)⟩

/-- The header fields of a record (R283). -/
def rOpcode (r : Record) : Nat := Record.bits r.g0 0 8
def rSig (r : Record) : Bool := r.g0.val.getLsbD 8
def rComb (r : Record) : Bool := r.g0.val.getLsbD 9
def rTlidx (r : Record) : Nat := Record.bits r.g0 16 10

/-- A command as it is accepted from a strand: with SIG it takes its position (R285, R290). -/
def State.accept (s : State) (part slot : Nat) (launch : Nat × Nat) (r : Record) : Job × State :=
  let (pos, s) := if rSig r then (let q := s.takePos part (rTlidx r); (some q.1, q.2)) else (none, s)
  (⟨r, none, part, slot, launch, pos, s.order, false, 0, seedDerive 0, 0, [], 0, 0, none, 0, s.now, false, none⟩, { s with order := s.order + 1 })

/-- The earlier operations of a command's strand have performed with respect to every engine before it is accepted
(R228 note 3): dirty lines and partials of its core go home. -/
def State.beforeCommand (s : State) : State := s.releaseL1 s.myCoreKey false

/-- Records enter a matrix queue in the order in which their instructions issued: one that finds no room, or another waiting, takes its place
(R281, R307). -/
def State.mqRoom (s : State) (k : State → Res) : Res :=
  let waits (i : Nat) : Option Nat := (s.slotAt (bankKey (4 * s.myCore + i) (s.me % 2))).mqTurn
  let first : Bool := match s.sl.mqTurn with
    | some m => (upTo 4).all fun i => (waits i).all fun n => m ≤ n
    | none => (upTo 4).all fun i => (waits i).isNone
  if first && (s.coreBank s.myCoreKey).mq.length < 16 then k s
  else if s.sl.mqTurn.isSome then .wait s
  else .wait ({ s with order := s.order + 1 }.modSl fun sl => { sl with mqTurn := some s.order })

/-- ST64 into the matrix queue window: a command issue (R281). -/
def State.queueCommand (s : State) (r : Record) : Res :=
  if s.sl.pend && !s.sl.hm then .trap s cStoreFault s.stfAddr
  else if !s.sl.drained then .wait s
  else match s.preFlush false with
  | some t => .wait t
  | none => s.mqRoom fun s => s.gate true (msgHead 0x186 engineBase 64 ++ recordBytes r ++ leBytes 1 (recTags r)) fun s =>
    let (j, s) := s.beforeCommand.accept s.myPart s.mySlot s.myLaunch r
    -- the twin's command takes no position beside its primary's (R390)
    let j := if s.isTwin s.myCore then { j with pos := none } else j
    .done (s.modCoreBank s.myCoreKey fun b => { b with mq := b.mq ++ [j] })

/-- ST64 (R259). -/
def execSt64 (f : MForm) (s : State) : Host.Outcome State Fault Refusal :=
  runPlain (.st64 f) 0x186 f (fun x s =>
    let r := s.group f.b
    s.withAddress x.a (x.a.cursor + f.immOff) 64 pS true fun va =>
      if va = engineBase then s.queueCommand r else s.postStore va (recordBytes r) .plain) s

/-! ## Full/empty words (R214, R261, R262) -/

/-- The word of a full/empty operation: its bank and scratchpad address, or a trap. An address outside the windows raises
PAGE_PERMISSION. -/
def State.withWord (s : State) (c : Cap) (ea : Int) (perm : BitVec 7) (k : Nat → Nat → State → Res) : Res :=
  match capCheck c ea 8 perm with
  | some cause => .trap s cause (eaNat ea)
  | none =>
    let va := eaNat ea
    if va % 8 ≠ 0 then .trap s cAlign va
    else match s.dataBp va 8 with
      | some w => s.hitBp w
      | none =>
        if regionOf va = .localW || regionOf va = .clusterW then
          match s.resolve s.via va 8 .amo with
          | (.ok [⟨.spad a, _⟩], s) =>
            if s.storeAhead s.me s.via va 8 .load (fun _ => true) then .wait s else k va a s
          | (.ok _, s) => .trap s cPermission va
          | (.error e, s) => .trap s e.cause va
        else .trap s cPermission va

/-- A full/empty step arrives at its word: the merge point orders it (R479); poison that it reads stops the core. -/
def State.atWord (s : State) (op va a : Nat) (reads : Bool) (bytes : List Byte) (k : State → Res) : Res :=
  s.gate (a / sliceSize ≠ s.myCore) (msgHead op va 8 ++ bytes) fun s =>
    match s.merge (dieOf (a / sliceSize)) (pointWord (a / sliceSize) (a % sliceSize / 8)) s.mySlot with
    | none => .wait s
    | some s => if reads && s.spadPoisoned a 8 then .next (s.coreStop s.myCore) else k s

/-- LDFE and LDFF: an acquire at cluster scope. `take` empties the word. -/
def loadFullBody (op : Nat) (take : Bool) (f : MForm) (x : Opnds) (s : State) : Res :=
  s.withWord x.a (x.a.cursor + f.off) (pL ||| pF) fun va a s =>
    if s.sl.releaseAhead then .wait s
    else if !s.isFull s.myBank a then .wait s
    else s.atWord op va a true [] fun s =>
      let w := BitVec.ofNat 64 (leNat (s.spad.bytes a 8))
      let s := if take then s.setFull s.myCore s.myBank a false else s
      .done ((s.acquireAt s.myCoreKey 1).writeData f.d w)

def execLdfe (f : MForm) (s : State) : Host.Outcome State Fault Refusal := runPlain (.ldfe f) 0x187 f (loadFullBody 0x187 true f) s
def execLdff (f : MForm) (s : State) : Host.Outcome State Fault Refusal := runPlain (.ldff f) 0x188 f (loadFullBody 0x188 false f) s

/-- STFE and STFF: a release at cluster scope; `empty` says that the word must be empty. -/
def storeFullBody (op : Nat) (empty : Bool) (f : MForm) (x : Opnds) (s : State) : Res :=
  s.withWord x.a (x.a.cursor + f.immOff) (pS ||| pF) fun va a s =>
    if s.isFull s.myBank a = empty then .wait s
    else s.atWord op va a false (leBytes 8 x.b.dv.toNat) fun s =>
      let s := s.releaseAt s.myCoreKey 1
      .done ((s.spadWriteFrom s.myCore a (leBytes 8 x.b.dv.toNat) false).setFull s.myCore s.myBank a true)

def execStfe (f : MForm) (s : State) : Host.Outcome State Fault Refusal := runPlain (.stfe f) 0x189 f (storeFullBody 0x189 true f) s
def execStff (f : MForm) (s : State) : Host.Outcome State Fault Refusal := runPlain (.stff f) 0x18A f (storeFullBody 0x18A false f) s

/-- FESET: a release at cluster scope; the word and its tag are unchanged. -/
def execFeset (f : MForm) (s : State) : Host.Outcome State Fault Refusal :=
  runPlain (.feset f) 0x18B f (fun x s =>
    s.withWord x.a (x.a.cursor + f.off) (pS ||| pF) fun va a s =>
      s.atWord 0x18B va a false (leBytes 1 f.ext.toNat) fun s =>
        .done ((s.releaseAt s.myCoreKey 1).setFull s.myCore s.myBank a (f.ext.getLsbD 0))) s

/-- FEGET: an acquire at cluster scope. -/
def execFeget (f : MForm) (s : State) : Host.Outcome State Fault Refusal :=
  runPlain (.feget f) 0x18C f (fun x s =>
    s.withWord x.a (x.a.cursor + f.off) (pL ||| pF) fun va a s =>
      if s.sl.releaseAhead then .wait s
      else s.atWord 0x18C va a false [] fun s =>
        let w : Word := if s.isFull s.myBank a then 1 else 0
        .done ((s.acquireAt s.myCoreKey 1).writeData f.d w)) s

/-! ## Line operations (R263) -/

/-- PREF has no architectural effect; a translation failure is dropped. -/
def execPref (f : MForm) (s : State) : Host.Outcome State Fault Refusal :=
  runPlain (.pref f) 0x18D f (fun x s =>
    match capCheck x.a (x.a.cursor + f.off) 1 pL with
    | some cause => .trap s cause (eaNat (x.a.cursor + f.off))
    | none => .done s) s

/-- WBL and INVL: `drop` invalidates the line. -/
def lineBody (op : Nat) (drop : Bool) (f : MForm) (x : Opnds) (s : State) : Res :=
  match capCheck x.a (x.a.cursor + f.off) 1 pL with
  | some cause => .trap s cause (eaNat (x.a.cursor + f.off))
  | none =>
    let va := eaNat (x.a.cursor + f.off)
    s.withPieces va 1 .load fun ps s =>
      match ps with
      | [⟨.mem pa pg, _⟩] =>
        if s.storeAhead s.me s.via (va / 64 * 64) 64 .load (fun _ => true) then .wait s
        else if s.cached s.myCoreKey pg && (look (s.coreBank s.myCoreKey).l1 (pa / 64)).isSome then
          s.gate true (msgHead op va 64) fun s =>
            .done (if drop then s.dropLine s.myCoreKey (pa / 64) else s.flushLine s.myCoreKey (pa / 64))
        else .done s
      | _ => .done s

def execWbl (f : MForm) (s : State) : Host.Outcome State Fault Refusal := runPlain (.wbl f) 0x18E f (lineBody 0x18E false f) s
def execInvl (f : MForm) (s : State) : Host.Outcome State Fault Refusal := runPlain (.invl f) 0x18F f (lineBody 0x18F true f) s

/-! ## S forms (R45) -/

/-- The M form of an S-form access: width code, and the unsigned imm8 times the width as the offset. -/
def MFormMemS (ext d a b : BitVec 5) (imm : BitVec 8) (scale : Nat) : MForm :=
  { MForm.plain ext d a b with imm := BitVec.ofNat 16 (imm.toNat * scale) }

def execLdDwordS (d a : BitVec 5) (imm : BitVec 8) (s : State) : Host.Outcome State Fault Refusal :=
  runS (.ldDwordS d a imm) 0x180 (MFormMemS 3 d a 0 imm 8) (ldBody 0x180 (MFormMemS 3 d a 0 imm 8)) s
def execStDwordS (a b : BitVec 5) (imm : BitVec 8) (s : State) : Host.Outcome State Fault Refusal :=
  runS (.stDwordS a b imm) 0x181 (MFormMemS 3 0 a b imm 8) (stBody (MFormMemS 3 0 a b imm 8)) s
def execLdWordS (d a : BitVec 5) (imm : BitVec 8) (s : State) : Host.Outcome State Fault Refusal :=
  runS (.ldWordS d a imm) 0x180 (MFormMemS 2 d a 0 imm 4) (ldBody 0x180 (MFormMemS 2 d a 0 imm 4)) s
def execStWordS (a b : BitVec 5) (imm : BitVec 8) (s : State) : Host.Outcome State Fault Refusal :=
  runS (.stWordS a b imm) 0x181 (MFormMemS 2 0 a b imm 4) (stBody (MFormMemS 2 0 a b imm 4)) s

end Sys2Proof.Machine
end

