-- ==== Sys2Proof/Machine/Issue.lean ====
section
/-!
DEFINITION. One issue cycle of a core: the round robin and the yield hints (R154, R49), what an instruction boundary takes before the
instruction (R166, R168, R179, R386, R396, R472), the fetch through PCC (R36, R43, R55) and the decoding of what was fetched.
-/
namespace Sys2Proof.Machine

/-! ## Fetch -/

/-- The words that a fetch of a 4-byte location may give: the one at the home, the one the core has written, the one that a store of
this launch replaced (R55). -/
def State.fetchWords (s : State) (ck : Nat) (pg : Page) (pa order : Nat) : List (BitVec 32) :=
  let home := BitVec.ofNat 32 (leNat (s.homeBytes pg.key pa 4))
  let own := match look (s.coreBank ck).l1 (pa / 64) with
    | some l => if l.dirty &&& ones64 (pa % 64) 4 = 0 then []
        else [BitVec.ofNat 32 (leNat (lineBytes (lineMerge l.dirty l.data (s.homeLine pg.key (pa / 64))) (pa % 64) 4))]
    | none => []
  let old := match look s.oldCode (pa / 4) with
    | some (w, k) => if order < k then [w] else []
    | none => []
  home :: (own ++ old)

/-- One word of an instruction: the word, or the cause of the trap; poison stops the core (R217). -/
def State.fetchWord (s : State) (va order : Nat) : Except Nat (BitVec 32 × Bool) × State :=
  match regionOf va with
  | .reserved => (.error cNotPresent, s)
  | .memory =>
    match s.translate s.via va .fetch with
    | (.error .permission, s) => (.error cPermission, s)
    | (.error _, s) => (.error cNotPresent, s)
    | (.ok (pa, pg), s) =>
      if !s.homeUp s.myDie pa then (.error cUnknown, s)
      else
        let s := s.combine (pa / 64)
        let poison := s.mem.poison.contains (pa / 64)
        match s.fetchWords s.myCoreKey pg pa order with
        | [w] => (.ok (w, poison), s)
        | ws =>
          let (v, s) := s.draw
          (.ok ((ws[v.toNat % ws.length]?).getD 0, poison), s)
  | _ => (.error cPermission, s)

/-- `n` words from `va`: the words, or the cause and the address of the trap. -/
def State.fetchMore (s : State) (n va order : Nat) : Except (Nat × Nat) (List (BitVec 32) × Bool) × State :=
  match n with
  | 0 => (.ok ([], false), s)
  | k + 1 =>
    match s.fetchWord va order with
    | (.error c, s) => (.error (c, va), s)
    | (.ok (w, p), s) =>
      match s.fetchMore k (va + 4) order with
      | (.ok (ws, q), s) => (.ok (w :: ws, p || q), s)
      | (.error e, s) => (.error e, s)

/-- The instruction at the PC: its words and whether they are poisoned, or the trap (R36, R43). -/
def State.fetch (s : State) : Except (Nat × Nat) (List (BitVec 32) × Bool) × State :=
  let pcc := s.sl.pcc
  let pc := pcc.cursor
  let order := (s.entry s.myLaunch).order
  match capCheck pcc pc 4 pX with
  | some c => (.error (c, pc), s)
  | none =>
    match s.fetchMore 1 pc order with
    | (.error e, s) => (.error e, s)
    | (.ok (ws, p), s) =>
      let n := lengthOf (ws.headD 0)
      match capCheck pcc pc n pX with
      | some c => (.error (c, pc), s)
      | none =>
        match s.fetchMore (n / 4 - 1) (pc + 4) order with
        | (.error e, s) => (.error e, s)
        | (.ok (vs, q), s) => (.ok (ws ++ vs, p || q), s)

/-- What the words decode to: an instruction, or ILLEGAL_ENCODING by name. -/
def decodeWords (ws : List (BitVec 32)) : Instr :=
  match decode (wordBytes ws) with
  | .ok i _ => i
  | .reject r _ => .illegalEncoding r
  | .short => .illegalEncoding .lengthCode

/-! ## The choice of the slot (R154, R49) -/

def State.slotOf (s : State) (core i : Nat) : Nat := bankKey (4 * core + i % 4) (s.liveBank core)

/-- The ready slots of a core in the order of their turns. -/
def State.turns (s : State) (core : Nat) : List Nat :=
  let last := (s.core core).lastSlot
  ([1, 2, 3, 4].map fun i => s.slotOf core (last + i)).filter fun k =>
    let sl := s.slotAt k
    sl.state = .ready && !sl.halted

/-- The slot that issues: the first, or the next one when the first passes its turn; the hint of the first is spent. -/
def State.chooseSlot (s : State) (core : Nat) : Option (Nat × State) :=
  match s.turns core with
  | [] => none
  | k :: r =>
    if (s.slotAt k).yieldHint then
      some (r.headD k, s.modSlotAt k fun sl => { sl with yieldHint := false })
    else some (k, s)

/-- STARTING slots whose presets are complete become READY (R153). -/
def State.startSlots (s : State) (core : Nat) : State :=
  (upTo 4).foldl (fun t i =>
    let k := t.slotOf core i
    if (t.slotAt k).state = .starting && !(t.slotAt k).halted then t.modSlotAt k fun sl => { sl with state := .ready } else t) s

/-- Whether a core takes issue cycles. -/
def State.mayIssue (s : State) (core : Nat) : Bool := !(s.core core).stopped && core < Config.cores

/-- An instruction has issued (event 0x001). -/
def State.countIssue (s : State) (core slot : Nat) : State :=
  s.modCore core fun c => { c with
    issuedAt := some (slot % 4, s.now), counters := c.counters.mapIdx fun j v => if j = slot % 4 then v + 1 else v }

/-- The incoming context of a fast swap issues: GO reads 0 and LAST gives the time from the halt request, within the bound of R16 (R403, R408). -/
def State.swapEnds (s : State) : State :=
  if s.dies.any fun x => x.2.swapRun.map Prod.fst = some s.myCluster then
    (upTo Config.dies).foldl (fun t d => match (t.die d).swapRun with
      | some (c, since) => if c = s.myCluster
          then (t.modDie d fun x => { x with swapRun := none }).setCsr d 0x371
            ((t.csr d 0x371 &&& ~~~0x7FF) ||| BitVec.ofNat 64 (min 1120 (s.now - since).toNat))
          else t
      | none => t) s
  else s

/-! ## The boundary -/

/-- The safe point whose PC the slot has reached with a migration request pending, outside every routine and handler mode
(R168, R382). A strand with a non-zero QMAP is exempt (R156, R198). -/
def State.migrates (s : State) : Option Nat :=
  let sl := s.sl
  if sl.migReq && sl.routine = .none && !sl.hm && sl.qmap = 0 then
    (upTo s.myHeader.points.length).find? fun i => s.myHeader.base + (s.myHeader.point i).sppc = sl.pcc.cursor
  else none

/-- Suspends at safe point `i` for a migration once the earlier stores have passed and the replies have arrived (R165). -/
def State.migrate (s : State) (i : Nat) : State :=
  if s.sl.pend then s.takeStoreFault
  else if !s.sl.drained || s.repliesOut then s
  else (s.enterSave i (.stage s.myCluster)).modSl fun sl => { sl with migReq := false }

/-- What the boundary takes in place of the instruction (none: nothing). -/
def State.boundary (s : State) : Option State :=
  let sl := s.sl
  if sl.killed then some (s.abnormalEnd s.me 0)
  else match sl.pickFault with
    | some (cause, addr) => some ((s.modSl fun x => { x with pickFault := none }).takeTrap cause addr)
    | none =>
      if sl.wdMark && sl.routine = .none then
        some (((s.modSl fun x => { x with wdMark := false }).takeTrap cWatchdog 0).fell s.myDie 0x07 none s.mySlot)
      else if sl.pend && !sl.hm then some s.takeStoreFault
      else match s.migrates with
        | some i => some (s.migrate i)
        | none => none

/-- The PC breakpoint of the cluster at the instruction (R472). -/
def State.pcBp (s : State) : Option Word :=
  if s.sl.hm || s.sl.noBp then none else (s.cluster s.myCluster).bpMatch false s.sl.pcc.cursor 1

/-- What an issue cycle comes to: a state, or an instruction that executes in a state. -/
inductive Issued
  | idle (s : State)
  | run (i : Instr) (s : State)

/-- The slot `s.me` at its turn: boundary, breakpoint, fetch, decode. -/
def State.issueSlot (s : State) : Issued :=
  match s.boundary with
  | some t => .idle t
  | none =>
    match s.pcBp with
    | some w => match s.hitBp w with
      | .trap t c a => .idle (t.takeTrap c a)
      | .halt t => .idle t
      | _ => .idle s
    | none =>
      match s.fetch with
      | (.error (cause, addr), s) => .idle (s.takeTrap cause addr)
      | (.ok (ws, poison), s) =>
        if poison then .idle (s.coreStop s.myCore)
        else .run (decodeWords ws) (s.countIssue s.myCore s.mySlot).swapEnds

/-- One issue cycle of a core. -/
def State.issue (s : State) (core : Nat) (groups : Option Nat) : Issued :=
  if !s.mayIssue core then .idle s
  else
    let s := s.startSlots core
    match s.chooseSlot core with
    | none => .idle s
    | some (k, s) =>
      let s := s.modCore core fun c => { c with lastSlot := k / 2 % 4 }
      { s with cur := .slot k, groups := groups }.issueSlot

end Sys2Proof.Machine
end

