-- ==== Sys2Proof/Machine/Turns.lean ====
section
/-!
DEFINITION. The turns of the machine: who acts next, the time that passes, and what a turn comes to. The order in which slots,
engines, units and the outside world act is the agenda's; where the agenda is empty nothing fixes it (log 3). Beside it the state in
which a given instruction is the next one to run.
-/
namespace Sys2Proof

/-- The turn that comes next when the agenda says nothing: a free value of the count `State.free` (log 3). -/
opaque Config.nextTurn : Nat → Machine.Turn

namespace Machine

/-- The next turn, and the state that has taken it from the agenda. -/
def State.nextTurn (s : State) : Turn × State :=
  match s.agenda with
  | t :: r => (t, { s with agenda := r })
  | [] => (Config.nextTurn s.free, { s with free := s.free + 1 })

/-- The time before a turn passes; changes of state of the cores enter their logs first (R476), and what waits at the remote interfaces goes out,
lower classes first (R422, R453). -/
def State.clock (s : State) (dt : Nat) : State := (s.cruise.pass dt).drainAll

/-- A package without power runs nothing but a cold reset (R489). -/
def Turn.needsPower (t : Turn) : Bool :=
  match t.move with
  | .event .coldReset _ => false
  | _ => true

/-- The context of a job: its partition and its TLIDX (R285). -/
def Job.context (j : Job) : Nat × Nat := (j.part, Record.bits j.record.g0 16 10)

/-- The job at place `i` of an input runs next when it is the first of its context and fewer than `limit` contexts come before it: commands of
one context run one after another in acceptance order (R296, R456). -/
def jobOf (l : List Job) (i limit : Nat) : Option Job :=
  match l[i]? with
  | none => none
  | some j =>
    let before := ((l.take i).map Job.context).eraseDups
    if before.contains j.context || limit ≤ before.length then none else some j

/-- The job that an engine turn names. Matrix queues run through MATRIX_SLICE and TILE_CONTROL_APPLY alone. -/
def State.jobAt (s : State) (c : Cur) : Option Job :=
  match c with
  | .copy cl i => if (s.cluster cl).halted then none else jobOf (s.cluster cl).copyQ i 16
  | .dispatch d i => jobOf (s.die d).dispatch i 256
  | .market d i => jobOf (s.die d).market i 16
  | .coll d i => jobOf (s.die d).coll i 16
  | _ => none

/-- What a move comes to in a state. A move that is not possible leaves the state as it is. -/
def State.plan (s : State) (m : Move) : Issued :=
  match m with
  | .idle => .idle s
  | .issue core groups => s.issue core groups
  | .event i arg => if i.isEvent then .run i { s with arg := arg } else .idle s
  | .engine c =>
    match s.jobAt c with
    | none => .idle s
    | some j =>
      match decodeRecord j.record with
      | some i => .run i { s with cur := c }
      | none => .idle s
  | .evict core line => .idle (s.dropLine core line)
  | .dropTlb c i => .idle (s.modCluster c fun x => { x with tlb := x.tlb.eraseIdx i })
  | .lose i => .idle { s with net := s.net.eraseIdx i }
  | .dup i => .idle (match s.net[i]? with
    | some m => { s with net := s.net ++ [m] }
    | none => s)

/-! ## Placing an instruction -/

/-- A block entry of the level-1 table at PA 0 that maps the first 8 GiB onto themselves: V, B, MODE RC, C, RD, WR, EX, TG, KEY 0. -/
def placedEntry : Word := 0x3D7

/-- The capability of the placed kernel: base 0, length 0x1000, permissions L, LC, X, cursor 0x100. -/
def placedCap : Cap := mkCap true (pL ||| pLC ||| pX) 0 0x1000 0 0x100

/-- The launch of the placed instruction: 32 registers, no handler. -/
def placedEntryOf : Entry :=
  { st := .running, hdr := some ⟨placedCap, 0, 32, false, 0, 0x100, 0, [], []⟩ }

/-- The state in which the next step issues, at address 0x100 on slot 0 of core 0 for a launch of partition 0, the instruction whose
bytes are `bs`. It stands for the cold boot, the system software that gives the partition its cluster, key and page table, and the
launch of a kernel (log 8). -/
def State.placed (s : State) (bs : List Byte) : State :=
  { s with
    slots := put s.slots 0 { s.slotAt 0 with state := .ready, pcc := placedCap, launch := some (0, 0) }
    clusters := put s.clusters 0 { s.cluster 0 with ctx0 := some 0 }
    dies := [0, 1, 2, 3, 4, 5, 6, 7].foldl (fun m d => put m d { s.die d with keys := 1 }) s.dies
    partitions := put s.partitions 0 { s.part 0 with ptBase := 1, entries := put (s.part 0).entries 0 placedEntryOf }
    mem := (s.mem.store 0 (leBytes 8 placedEntry.toNat)).store 0x100 bs
    agenda := [⟨0, .issue 0 none⟩] }

end Machine
end Sys2Proof
end

