-- ==== Sys2Proof/Machine/Engine.lean ====
section
/-!
DEFINITION. What the engines share: jobs and their ends (R285, R291), the checks of capabilities (R282), reads and writes of an engine
context with their links, their poison and their failures (R217, R296, R299, R422), and the moving of elements.
-/
namespace Sys2Proof.Machine

/-! ## Jobs -/

/-- The engine code of R293. -/
def Cur.engine : Cur → Nat
  | .matrix _ => 1
  | .copy _ _ => 2
  | .dispatch _ _ => 3
  | .market _ _ => 4
  | .coll _ _ => 5
  | .slot _ => 8

/-- Unit numbers within a die (R423, R455): the spec gives none (log 2). 0 management core, 1 launch unit, 2 dispatch unit, 3 market
engine, 4 collective engine, 64 + cluster copy engines, 128 + quad matrix engines, 1024 + port interfaces. -/
def Cur.unit : Cur → Nat
  | .slot _ => 0
  | .dispatch d _ => d * 4096 + 2
  | .market d _ => d * 4096 + 3
  | .coll d _ => d * 4096 + 4
  | .copy c _ => c / 48 * 4096 + 64 + c % 48
  | .matrix core => dieOf core * 4096 + 128 + quadOf core % 576

def Cur.die : Cur → Nat
  | .slot k => dieOf (k / 8)
  | .dispatch d _ => d
  | .market d _ => d
  | .coll d _ => d
  | .copy c _ => c / 48
  | .matrix core => dieOf core

/-- The input of an engine. -/
def State.jobs (s : State) (c : Cur) : List Job :=
  match c with
  | .slot _ => []
  | .dispatch d _ => (s.die d).dispatch
  | .market d _ => (s.die d).market
  | .coll d _ => (s.die d).coll
  | .copy c _ => (s.cluster c).copyQ
  | .matrix core => (s.coreBank (s.coreKey core)).mq

def State.setJobs (s : State) (c : Cur) (l : List Job) : State :=
  match c with
  | .slot _ => s
  | .dispatch d _ => s.modDie d fun x => { x with dispatch := l }
  | .market d _ => s.modDie d fun x => { x with market := l }
  | .coll d _ => s.modDie d fun x => { x with coll := l }
  | .copy c _ => s.modCluster c fun x => { x with copyQ := l }
  | .matrix core => s.modCoreBank (s.coreKey core) fun b => { b with mq := l }

def Cur.index : Cur → Nat
  | .dispatch _ i => i
  | .market _ i => i
  | .coll _ i => i
  | .copy _ i => i
  | _ => 0

/-- The job whose step it is, when it is the one of record `r` and may run. -/
def State.curJob (s : State) (r : Record) : Option Job :=
  match (match s.cur with
    | .matrix _ => (s.jobs s.cur).head?
    | c => s.jobAt c) with
  | some j => if j.record = r && j.mtcw.isNone then some j else none
  | none => none

def State.setJob (s : State) (j : Job) : State := s.setJobs s.cur ((s.jobs s.cur).set s.cur.index j)

def rLot (r : Record) : Nat := Record.bits r.g0 32 8

/-- The lots that a market record names (R351), and the lot of a DISPATCH (R366). -/
def lotsOf (r : Record) : List Nat :=
  if rOpcode r = 0x32 then (upTo (Record.bits r.g0 40 8 + 1)).map fun i => rLot r + i else [rLot r]
def dispatchLot (r : Record) : Nat := Record.bits r.g0 64 8

/-- The lots of ended partitions on which no command is in flight are freed and reset (R350). -/
def Die.freeEnded (x : Die) : Die :=
  let busy (n : Nat) : Bool := (x.market.any fun j => (lotsOf j.record).contains n) || x.dispatch.any fun j => dispatchLot j.record = n
  { x with lots := x.lots.filter fun p => !(p.2.ending && !busy p.1) }

/-- The job leaves the input. -/
def State.endJob (s : State) : State :=
  let t := s.setJobs s.cur ((s.jobs s.cur).eraseIdx s.cur.index)
  match s.cur with
  | .market d _ => t.modDie d Die.freeEnded
  | .dispatch d _ => t.modDie d Die.freeEnded
  | _ => t

/-- The cluster with whose context the advance of a command is saved (R328). -/
def Cur.holds : Cur → Option Nat
  | .matrix core => some (clusterOf core)
  | _ => none


/-- The matrix engine of a twin reports nothing: its primary does (R390, log 10). -/
def State.mute (s : State) : Bool :=
  match s.cur with
  | .matrix core => s.isTwin core
  | _ => false

/-- The error or status record of a command, under an engine code. -/
def State.cmdRecord (s : State) (j : Job) (engine code addr : Nat) : State :=
  if s.mute then s else s.errRecord j.part (rTlidx j.record) engine (rOpcode j.record) code addr

/-- ERR of a failed command: with its own advance, or at once without SIG (R291). -/
def State.failAdvance (s : State) (j : Job) : State :=
  match j.pos with
  | some p => s.finishPos j.part (rTlidx j.record) p true s.cur.holds
  | none => if s.mute then s else s.modTimeline j.part (rTlidx j.record) fun t => { t with err := true }

/-- A command ends: without a failure its advance is due with SIG; a failure, its code and ADDR, gives the error record and ERR (R285, R290, R291). -/
def State.closeJob (s : State) (j : Job) (x : Option (Nat × Nat)) : State :=
  -- a DISPATCH that has parked rows reports them (R300)
  let s := if x.isNone && 0 < j.parkedRows then s.cmdRecord j s.cur.engine eParked j.parkedRows else s
  match x, j.pos with
  | some e, _ => ((s.cmdRecord j s.cur.engine e.1 e.2).failAdvance j).endJob
  | none, some p => s.endJob.finishPos j.part (rTlidx j.record) p false s.cur.holds
  | none, none => s.endJob

/-- The requester of the engine context of a job (R423). -/
def State.jobReq (s : State) (j : Job) : Nat := reqId true s.cur.unit j.part

/-- How a command ends: at once, or when its stamped writes have their final replies; one of them that ended unknown fails it with
OWNER_RESTARTED (R296, R422). -/
def State.cmdEnd (s : State) (j : Job) (x : Option (Nat × Nat)) : State :=
  let r := s.requester (s.jobReq j)
  if r.open_.any fun q => q.job = some j.order then s.setJob { j with closing := some x }
  else if r.failed.contains j.order then
    (s.setRequester (s.jobReq j) { r with failed := r.failed.filter fun n => n ≠ j.order }).closeJob j (some (eRestarted, 0))
  else s.closeJob j x

def State.cmdDone (s : State) (j : Job) : State := s.cmdEnd j none
def State.cmdFail (s : State) (j : Job) (e : Nat × Nat) : State := s.cmdEnd j (some e)

/-- The step of the job of record `r`: it runs, or it ends when nothing of it is outstanding. A record that is no job to run now changes nothing. -/
def State.withJob (s : State) (r : Record) (run : Job → State) : State :=
  match s.curJob r with
  | none => s
  | some j => match j.closing with
    | some x => s.cmdEnd j x
    | none => run j

/-! ## Checks (R282, R285) -/

/-- A capability field over a range: tag, E, the permissions and, for a range that is not empty, the bounds. -/
def engCap (c : Cap) (perm : BitVec 7) (lo : Int) (n : Nat) : Option (Nat × Nat) :=
  if !c.tag || c.perm &&& (perm ||| pE) ≠ (perm ||| pE) then some (eCapFault, eaNat lo)
  else if n ≠ 0 && (lo < c.base || (c.top : Int) < lo + n) then some (eCapFault, eaNat lo)
  else none

/-- The first failure of some checks. -/
def firstOf (l : List (Option (Nat × Nat))) : Option (Nat × Nat) :=
  match l with
  | [] => none
  | some e :: _ => some e
  | none :: r => firstOf r

/-! ## Accesses of an engine context -/

/-- An engine context as an agent: how it reaches memory, its requester, and the core that writes a scratchpad as its own (none: what it
sends to a twinned primary goes to both, R390), the job it works for and the class of its messages (R453). -/
structure Eng where
  via : Via
  req : Nat
  writer : Nat
  job : Nat := 0
  cls : Nat := 1
deriving DecidableEq, Repr

/-- The agent of a job: windows are those of the issuing core, translation goes through the TLB of the cluster, or of the die (R212). -/
def State.engOf (s : State) (j : Job) : Eng :=
  let core := j.slot / 4
  let cl := clusterOf core
  let ck := bankKey core ((s.bankOf cl j.part).getD 0)
  let req := s.jobReq j
  match s.cur with
  | .copy _ _ => { via := ⟨some cl, dieOf core, ck, j.part, false⟩, req := req, writer := Config.cores, job := j.order }
  | .matrix _ => { via := ⟨some cl, dieOf core, ck, j.part, false⟩, req := req, writer := core, job := j.order }
  | .coll _ _ => { via := ⟨none, s.cur.die, ck, j.part, false⟩, req := req, writer := Config.cores, job := j.order,
                   cls := Record.bits j.record.g0 51 2 }
  | _ => { via := ⟨none, s.cur.die, ck, j.part, false⟩, req := req, writer := Config.cores, job := j.order }

/-- What fails a command whose link to a piece is down: LINK_DOWN for reads, and for writes of host memory (R299, R422). A stamped write over a
die link that is down ends NOREPLY later. -/
def linkCode (die : Nat) (write : Bool) (s : State) (ps : List Piece) : Option Nat :=
  if write then
    (if !s.attachUp && ps.any (fun p => match p.loc with
        | .mem pa _ => hostBase ≤ pa
        | _ => false) then some eLinkDown else none)
  else if s.piecesUp ⟨none, die, 0, 0, false⟩ ps then none else some eLinkDown

/-- The bytes of a piece as the engine context finds them, with its own writes on their way over them, and which of them are poisoned: a line of
global memory, a 64-bit word of a scratchpad (R216). -/
def State.engPiece (s : State) (e : Eng) (p : Piece) : (List Byte × List Bool) × State :=
  let (g, s) := s.readPiece e.via p false
  match p.loc with
  | .spad a => ((g.bytes, (upTo p.n).map fun i => s.spad.poison.contains ((a + i) / 8)), s)
  | .mem pa pg =>
    let own := ((s.requester e.req).open_.map NetOp.op).filter fun op => op.onLine (pa / 64)
    let d := own.foldl overLine (s.homeLine pg.key (pa / 64), 0, g.poison)
    ((if own = [] then g.bytes else lineBytes d.1 (pa % 64) p.n, List.replicate p.n d.2.2), s)

def State.engPieces (s : State) (e : Eng) (ps : List Piece) : (List Byte × List Bool) × State :=
  match ps with
  | [] => (([], []), s)
  | p :: r =>
    let (g, s) := s.engPiece e p
    let (h, s) := s.engPieces e r
    ((g.1 ++ h.1, g.2 ++ h.2), s)

/-- A read of at most 64 bytes by an engine: bytes and which of them are poisoned, or the code. -/
def State.engRead (s : State) (e : Eng) (va n : Nat) : Except Nat (List Byte × List Bool) × State :=
  match s.resolve e.via va n .load with
  | (.error _, s) => (.error eTranslation, s)
  | (.ok ps, s) =>
    match linkCode e.via.die false s ps with
    | some c => (.error c, s)
    | none => let (g, s) := s.engPieces e ps; (.ok g, s)

/-- Poison that lands at a piece with some of its bytes: on its line, or on the scratchpad words of those bytes (R216, R217). -/
def State.poisonPiece (s : State) (p : Piece) (mask : List Bool) : State :=
  match p.loc with
  | .mem pa _ => if mask.any id then { s with mem := s.mem.setPoison (pa / 64) true } else s
  | .spad a =>
    { s with spad := (upTo p.n).foldl (fun m i => if mask.getD i false then m.setPoison ((a + i) / 8) true else m) s.spad }

/-- Whether the host takes a write for which it may lack room (R299): a free value (log 4). -/
def State.hostTakes (s : State) (ps : List Piece) : Bool × State :=
  if ps.any fun p => match p.loc with
    | .mem pa _ => hostBase ≤ pa
    | _ => false
  then let (w, s) := s.draw; (!w.getLsbD 0, s)
  else (true, s)

/-- The writes of the pieces of one engine access with their poison; those to another die go out under the stamp of the context (R422). -/
def State.engPut (s : State) (e : Eng) (ps : List Piece) (bs : List Byte) (mask : List Bool) : State :=
  match ps with
  | [] => s
  | p :: r =>
    let mine := mask.take p.n
    let s := match p.loc with
      | .spad a => (s.spadWriteFrom e.writer a (bs.take p.n) false).poisonPiece p mine
      | .mem pa pg =>
        if offDie e.via.die pa then
          let op : RemOp := .line (pa / 64) pg.key (pg.mode = PageMode.so) [(pa % 64, bs.take p.n, false)] (mine.any id) none
          s.enqueue e.req { owner := sliceOwner pa, op := op, va := 0, job := some e.job, cls := e.cls, line := some (pa / 64) }
        else (s.writePiece e.via p (bs.take p.n) false).poisonPiece p mine
    s.engPut e r (bs.drop p.n) (mask.drop p.n)

/-- A write of at most 64 bytes by an engine, with its poisoned bytes. -/
def State.engWrite (s : State) (e : Eng) (va : Nat) (bs : List Byte) (mask : List Bool) : Except Nat Unit × State :=
  match s.resolve e.via va bs.length .store with
  | (.error _, s) => (.error eTranslation, s)
  | (.ok ps, s) =>
    match linkCode e.via.die true s ps with
    | some c => (.error c, s)
    | none =>
      match s.hostTakes ps with
      | (false, s) => (.error eTargetFull, s)
      | (true, s) => (.ok (), s.engPut e ps bs mask)

/-- ADDR of a failure (R293): the address for CAP_FAULT, TRANSLATION and UNCORRECTABLE, the confirmed bytes for TARGET_FULL and
LINK_DOWN, else 0. -/
def failAddr (code va confirmed : Nat) : Nat × Nat :=
  (code, if code = eTargetFull || code = eLinkDown then confirmed
    else if code = eCapFault || code = eTranslation || code = eUncorrectable then va else 0)

/-! ## Ranges -/

/-- A range cut at 64-byte lines: the chunks in ascending order. -/
def chunksOf (va n : Nat) : List (Nat × Nat) :=
  let lead := min n ((64 - va % 64) % 64)
  (if lead = 0 then [] else [(va, lead)]) ++
    (upTo ((n - lead + 63) / 64)).map fun i => (va + lead + 64 * i, min 64 (n - lead - 64 * i))

/-- The virtual address that UNCORRECTABLE reports for a chunk: that of the first poisoned 64-bit word of a scratchpad, or of the first byte that the
command uses of a poisoned line (R216, R293). -/
def poisonVa (va lo : Nat) (mask : List Bool) : Nat :=
  let i := (mask.findIdx? id).getD 0
  if regionOf va = .memory then va else max lo ((va + i) / 8 * 8)

/-- A read of a range as operands: poison fails the command (R217). -/
def State.engReadRange (s : State) (e : Eng) (va n : Nat) : Except (Nat × Nat) (List Byte) × State :=
  (chunksOf va n).foldl (fun (r : Except (Nat × Nat) (List Byte) × State) c =>
    match r with
    | (.error x, t) => (.error x, t)
    | (.ok bs, t) =>
      match t.engRead e c.1 c.2 with
      | (.error code, t) => (.error (failAddr code c.1 0), t)
      | (.ok (g, mask), t) => if mask.any id then (.error (eUncorrectable, poisonVa c.1 va mask), t) else (.ok (bs ++ g), t)) (.ok [], s)

/-- A write of a range; `done` destination bytes stand confirmed before it. -/
def State.engWriteRange (s : State) (e : Eng) (va : Nat) (bs : List Byte) (done : Nat) : Option (Nat × Nat) × State :=
  (chunksOf va bs.length).foldl (fun (r : Option (Nat × Nat) × State) c =>
    match r with
    | (some x, t) => (some x, t)
    | (none, t) =>
      match t.engWrite e c.1 ((bs.drop (c.1 - va)).take c.2) [] with
      | (.error code, t) => (some (failAddr code c.1 (done + (c.1 - va))), t)
      | (.ok (), t) => (none, t)) (none, s)

/-! ## Moving elements (R296, R299) -/

/-- The first byte of the largest naturally aligned word of up to 8 bytes that holds byte `a` and lies within the element [lo, hi). -/
def wordIn (lo hi a : Nat) : Nat :=
  let fits (w : Nat) : Bool := lo ≤ a / w * w && a / w * w + w ≤ hi
  if fits 8 then a / 8 * 8 else if fits 4 then a / 4 * 4 else if fits 2 then a / 2 * 2 else a

/-- Where a byte may be the source's value before the command or a value the command has written, the choice is free (R296): of each byte, and as one
of the aligned words inside an element, which are single-copy atomic. `whole` gives the element in whose words the bytes from `src` lie. -/
def mixBytes (old cur : List Byte) (src : Nat) (whole : Option (Nat × Nat)) (s : State) : List Byte × State :=
  if old = cur then (old, s)
  else
    let n := s.free
    let at_ (i : Nat) : Nat := match whole with
      | some (lo, hi) => wordIn lo hi (src + i) + 64 - src
      | none => i + 64
    (((old.zip cur).mapIdx fun i p => if (Config.freeWord (n + at_ i)).getLsbD 0 then p.1 else p.2), { s with free := n + old.length + 64 })

/-- One piece of a transfer: source, destination, bytes, and the element of the source that it belongs to (none: each byte is one, CPY). -/
structure Seg where
  src : Nat
  dst : Nat
  n : Nat
  elem : Option (Nat × Nat) := none
deriving DecidableEq, Repr

/-- One piece moved, with its poison. `old` is the state when the command began. -/
def State.moveSeg (s old : State) (e : Eng) (g : Seg) (done : Nat) : Option (Nat × Nat) × State :=
  match s.engRead e g.src g.n with
  | (.error code, s) => (some (failAddr code g.src done), s)
  | (.ok (cur, mask), s) =>
    let before := match (old.engRead e g.src g.n).1 with
      | .ok (b, _) => b
      | .error _ => cur
    let (bs, s) := mixBytes before cur g.src g.elem s
    match s.engWrite e g.dst bs mask with
    | (.error code, s) => (some (failAddr code g.dst done), s)
    | (.ok (), s) => (none, s)

/-- The pieces in order until the first failure; `done` counts the destination bytes confirmed. -/
def State.moveSegs (s old : State) (e : Eng) (l : List Seg) (done : Nat) : Option (Nat × Nat) × State :=
  match l with
  | [] => (none, s)
  | g :: r =>
    match s.moveSeg old e g done with
    | (some x, s) => (some x, s)
    | (none, s) => s.moveSegs old e r (done + g.n)

/-- The pieces of a run of `n` bytes: no piece crosses a line of the destination or a page of the source. -/
def segsOf (src dst n : Nat) (elem : Option (Nat × Nat)) : List Seg :=
  (chunksOf dst n).flatMap fun c =>
    let a := src + (c.1 - dst)
    let m := 2 ^ 18 - a % 2 ^ 18
    if c.2 ≤ m then [⟨a, c.1, c.2, elem⟩] else [⟨a, c.1, m, elem⟩, ⟨a + m, c.1 + m, c.2 - m, elem⟩]

/-- The meaning of a command at its engine: it runs whole in one step (log 11), and ends when its writes have performed. -/
def runCommand (r : Record) (body : Job → Eng → State → Option (Nat × Nat) × State) (s : State) : Host.Outcome State Fault Refusal :=
  .next <| s.withJob r fun j =>
    let (x, t) := body j (s.engOf j) s
    t.cmdEnd j x

end Sys2Proof.Machine
end

