-- ==== Sys2Proof/Machine/Execution.lean ====
section
/-!
DEFINITION. Execution control, class 0x8 (R182 to R199), with the S forms of END and YIELD, and the events of the stage scheduler and the
synchronisation units: picks (R171), parked records (R184), migration (R168), the watchdog (R179).
-/
namespace Sys2Proof.Machine

/-! ## Checks of R183, R165, R382 -/

def State.stageBad (s : State) (i : Nat) : Bool := s.myHeader.stages.length ≤ i
def State.pointBad (s : State) (i : Nat) : Bool := s.myHeader.points.length ≤ i
/-- A target cluster outside the launch's range, or a register value above bit 8. -/
def State.clusterBad (s : State) (v : Word) : Bool := !s.clusterInRange s.myLaunch v.toNat

/-- Whether the register fields of an instruction have values to check: every register exists, every queue holds its entries. -/
def State.canRead (s : State) (op : Nat) (f : MForm) : Bool :=
  !s.regBad op f && (s.sl.issued || s.queuesReady (s.sl.pops op f) none)

/-- Inside a save or restore routine, or in handler mode: no suspension (R165, R382). -/
def State.noSuspend (s : State) : Bool := s.sl.hm || s.sl.routine ≠ .none

def safePt (f : MForm) : Nat := f.imm.toNat % 4096

/-! ## The record store (R169) -/

/-- The cluster whose record store takes a parked strand: that of the awaited object, or the strand's own for a cell of a launch unit. -/
def parkCluster (core : Nat) (dest : SaveTo) : Nat :=
  match dest with
  | .domain h _ => if hKind h = 3 || hKind h = 4 then clusterOf core else hUnit h
  | .ticket c _ _ => c
  | .stage c => c
  | .fork _ _ _ _ => clusterOf core

def SaveTo.parks (dest : SaveTo) : Bool := match dest with
  | .domain _ _ => true
  | .ticket _ _ _ => true
  | _ => false

/-- Entries of a cluster's store that are taken: reserved by launches, held by parked records, or awaiting a strand in its save
routine. -/
def State.storeUsed (s : State) (c : Nat) : Nat :=
  let cl := s.cluster c
  let saving := (s.slots.filter fun p => match p.2.routine with
    | .save _ dest => dest.parks && parkCluster (p.1 / 8) dest = c
    | _ => false).length
  (cl.reserved.map Prod.snd).sum + cl.parked.length + saving

def State.storeRoom (s : State) (c : Nat) : Bool := s.storeUsed c < 1024

/-! ## Records leave a strand (R165, R167, R188) -/

/-- A record into a stage queue of a cluster, with the hand-over's release (R167); over the mesh, or exactly once to another die
(R170, R421). `k` goes on once it is accepted, and once a stamped push has any final status: R199 lists no trap for a push whose outcome
is unknown (log 50). -/
def State.pushRecord (s : State) (op target : Nat) (r : Record) (k : State → Res) : Res :=
  let scope := unitScope s.myCore target
  s.gate true (msgHead op target 64 ++ recordBytes r ++ leBytes 1 (recTags r)) fun s =>
    if target / 48 = s.myDie then
      if !recordBad s.myHeader r && s.stageFull target s.myLaunch (recStage r) then .wait s
      else match (s.merge s.myDie (pointStage target (recStage r)) s.mySlot).bind fun t =>
          (t.releaseAt t.myCoreKey scope).pushStage target t.myLaunch r false with
        | none => .wait s
        | some t => k t
    else
      let s := if s.sl.sent = none then s.releaseAt s.myCoreKey scope else s
      s.exchange (clusterOwner target) (.push target (recStage r) r s.myLaunch) 0 fun _ _ s => k s

/-- The record of the strand at safe point `sp` (R165 item 6). -/
def State.formRecord (s : State) (sp : Nat) : Record :=
  let sl := s.sl
  let hd := s.myHeader
  mkRecord (sl.pcc.withCursor (hd.base + (hd.point sp).sppc)) (sl.reg 2) (sl.reg 3).dv (sl.reg 4).dv (BitVec.ofNat 4 sl.stage)
    (BitVec.ofNat 16 sp) (sl.preds.extractLsb' 1 7) sl.domains (BitVec.ofNat 24 s.myReq)

/-- A checked write of `n` bytes that is not posted: every piece is resolved before any is written. -/
def State.resolveBlock (s : State) (va n : Nat) : Except PFault (List (Nat × Nat × List Piece)) × State :=
  (upTo ((n + 63) / 64)).foldl (fun r i =>
    match r with
    | (.error e, s) => (.error e, s)
    | (.ok l, s) =>
      let m := min 64 (n - 64 * i)
      match s.resolve s.via (va + 64 * i) m .store with
      | (.ok ps, s) => (.ok (l ++ [(va + 64 * i, m, ps)]), s)
      | (.error e, s) => (.error e, s)) (.ok [], s)

def State.writeBlock (s : State) (l : List (Nat × Nat × List Piece)) (bs : List Byte) : State :=
  (l.foldl (fun (r : State × List Byte) p => (r.1.performBytes s.me p.1 (r.2.take p.2.1) false p.2.2, r.2.drop p.2.1)) (s, bs)).1

/-! ## RFORK (R172, R173, R190) -/

/-- Hops between two clusters of a die on the 6 x 8 mesh (R10, R172). -/
def meshDist (a b : Nat) : Nat :=
  let d (x y : Nat) : Nat := if x ≤ y then y - x else x - y
  d (a / 8) (b / 8) + d (a % 8) (b % 8)

/-- Whether the wake flood of a launch has reached a core (R162). -/
def State.woken (s : State) (l : Nat × Nat) (core : Nat) : Bool := !(s.entry l).toWake.contains core

/-- Whether a core is idle for a recruitment: its four slots are IDLE and it belongs to the launch (R172). A core of a halted cluster starts
nothing (R473). -/
def State.idleCore (s : State) (l : Nat × Nat) (core : Nat) : Bool :=
  (s.coreBank (s.coreKey core)).launch = some l && s.woken l core && !(s.core core).stopped && !(s.cluster (clusterOf core)).resting &&
  (upTo 4).all fun i => (s.slotAt (s.slotOf core i)).state = .idle

/-- The recruitment tree of a core: its own core is left out. -/
def treeOf (core : Nat) (die : Bool) : List Nat :=
  let c := clusterOf core
  let own := (upTo 47).map fun i => c * 48 + (core % 48 + 1 + i) % 48
  let d := c / 48
  let others := (upTo 13).flatMap fun h => (upTo 48).filter fun x => d * 48 + x ≠ c && meshDist x (c % 48) = h
  if die then own ++ others.flatMap fun x => (upTo 48).map fun i => (d * 48 + x) * 48 + i else own

/-- The parts of `trip` iterations for the cores: index range of each (R173). -/
def forkParts (trip grain n : Nat) : List (Nat × Nat) :=
  let C := (trip + grain - 1) / grain
  (upTo n).map fun i => (i * C / n * grain, min ((i + 1) * C / n * grain) trip)

def joinHandle (cell unit : Nat) : Word := BitVec.ofNat 64 (unit * 32 + cell)

/-- A write of the END of a save routine, made once: `mark` says which. What it leaves for another die performs before `k` goes on (R165, R190). -/
def State.afterWrite (s : State) (mark : Nat) (write : State → State) (k : State → Res) : Res :=
  if mark ≤ s.sl.wrote then k s
  else
    let s := (write s).modSl fun sl => { sl with wrote := mark, flushed := false }
    match s.preFlush false with
    | some t => .wait t
    | none => k s

/-- rfork_complete of R190 after the generator bytes have been written; `hl` is the place of the handle. A free cell of several is a free
choice. -/
def State.forkNow (s : State) (r : Record) (hl : List (Nat × Nat × List Piece)) (trip grain : Nat) (die : Bool) (body : Cap) : Res :=
  let k := s.me
  let core := s.myCore
  let l := s.myLaunch
  if trip = 0 then .next ((s.sendAcks s.myReq).pickUp k r l false)
  else
    let c := s.myCluster
    let frees := (upTo 32).filter fun i => (look (s.cluster c).joins i).isNone
    if frees = [] && s.sl.wrote < 2 then .wait s
    else
      let (cell, s) := if 2 ≤ s.sl.wrote then (s.sl.wrote - 2, s) else (let q := s.draw; (frees.getD (q.1.toNat % frees.length) 0, q.2))
      -- the cell is taken and the handle written; where that goes to another die, the parts start when it has performed
      s.afterWrite (2 + cell) (fun s =>
          (s.modCluster c fun x => { x with joins := put x.joins cell ⟨0, die, r, l⟩ }).writeBlock hl (leBytes 8 (joinHandle cell c).toNat))
        fun s =>
      let want := (trip + grain - 1) / grain
      -- a part resumes only inside the domains that it takes from the forker (R166, R167)
      let mayTake (n : Nat) : Bool := s.sl.domains.toList.all fun h => s.coreInside n h
      let cores := (core :: (treeOf core die).filter fun n => s.inRange l n && s.idleCore l n && mayTake n).take want
      let s := (s.modCluster c fun x => { x with joins := put x.joins cell ⟨cores.length, die, r, l⟩ }).sendAcks s.myReq
      let s := s.releaseAt s.myCoreKey (if die then 2 else 1)
      let frame := s.reg 2
      let stage := BitVec.ofNat 4 s.sl.stage
      let dom := s.sl.domains
      let req := BitVec.ofNat 24 s.myReq
      .next ((cores.zip (forkParts trip grain cores.length)).foldl (fun (t : State) p =>
        let part := mkRecord body frame (BitVec.ofNat 64 p.2.1) (BitVec.ofNat 64 p.2.2) stage 0xFFFF 0 dom req
        t.pickUp (if p.1 = core then k else t.slotOf p.1 0) part l false) s)

/-! ## END (R185, R165 steps 5 to 7) -/

/-- The strand leaves its slot; its requester acknowledges (R427). -/
def State.leaveSlot (s : State) : State := (s.sendAcks s.myReq).freeSlot s.me

/-- END inside a save routine. -/
def State.endSave (s : State) (sp : Nat) (dest : SaveTo) : Res :=
  let frame := s.reg 2
  let va := frame.cursor
  let fork : Bool := match dest with
    | .fork _ _ _ _ => true
    | _ => false
  match capCheck frame va (if fork then 264 else 256) pS with
  | some cause => .trap s cause va
  | none =>
    match s.resolveBlock va 256 with
    | (.error e, s) => .trap s e.cause va
    | (.ok l, s) =>
      match (if fork then s.resolveBlock (va + 256) 8 else (.ok [], s)) with
      | (.error e, s) => .trap s e.cause (va + 256)
      | (.ok hl, s) =>
        let r := s.formRecord sp
        let bytes := gensBytes s.sl.gens
        let full : Bool := match dest with
          | .stage c => c / 48 = s.myDie && !recordBad s.myHeader r && s.stageFull c s.myLaunch (recStage r)
          | .fork trip _ _ _ => trip ≠ 0 && s.sl.wrote < 2 && (upTo 32).all fun i => (look (s.cluster s.myCluster).joins i).isSome
          | _ => false
        if full then .wait s
        else s.gate true (msgHead 0x201 va 256 ++ bytes ++ recordBytes r) fun s =>
          s.afterWrite 1 (fun s => s.writeBlock l bytes) fun s =>
          match dest with
          | .stage c => s.pushRecord 0x201 c r fun s => .next s.leaveSlot
          | .fork trip grain die body => s.forkNow r hl trip (max grain 1) die body
          | dest =>
            let c := parkCluster s.myCore dest
            let s := s.releaseAt s.myCoreKey (unitScope s.myCore c)
            let l := s.myLaunch
            .next ((s.modCluster c fun x => { x with parked := x.parked ++ [⟨r, l, dest, false, false⟩] }).leaveSlot)

/-- END. In handler mode with store-fault records held the strand ends abnormally (R386). -/
def endBody (_ : Opnds) (s : State) : Res :=
  if s.sl.hm then
    (if s.sl.stfRecs ≠ [] then .next ((s.sendAcks s.myReq).abnormalEnd s.me cStoreFault) else .next s.leaveSlot)
  else match s.sl.routine with
    | .save sp dest => s.endSave sp dest
    | _ => .next s.leaveSlot

def execEndStrand (f : MForm) (s : State) : Host.Outcome State Fault Refusal := runPlain (.endStrand f) 0x201 f endBody s
def execEndS (s : State) : Host.Outcome State Fault Refusal := runS .endS 0x201 MFormZero endBody s
where
  /-- the form of an S form without fields -/
  MFormZero : MForm := .plain 0 0 0 0

/-! ## YIELD (R186) -/

def yieldBody (_ : Opnds) (s : State) : Res := .done (s.modSl fun sl => { sl with yieldHint := true })

def execYield (f : MForm) (s : State) : Host.Outcome State Fault Refusal := runPlain (.yield f) 0x202 f yieldBody s
def execYieldS (s : State) : Host.Outcome State Fault Refusal := runS .yieldS 0x202 (.plain 0 0 0 0) yieldBody s

/-! ## SPAWN, SUSPEND, RFORK, JOIN (R187 to R191) -/

def spawnIll (f : MForm) (s : State) : Bool :=
  s.stageBad (f.imm.toNat % 16) ||
  (f.ext = 1 && (s.knownD 0x200 f).any fun v => s.clusterBad v.dv)

def spawnBody (f : MForm) (x : Opnds) (s : State) : Res :=
  let hd := s.myHeader
  let st := f.imm.toNat % 16
  let target := if f.ext = 1 then x.d.dv.toNat else s.myCluster
  let entry := ((hd.stages[st]?).map Stage.sentry).getD 0
  let r := mkRecord (s.sl.pcc.withCursor (hd.base + entry)) x.a x.b.dv (s.reg (f.b + 1)).dv (BitVec.ofNat 4 st) 0xFFFF 0 s.sl.domains
    (BitVec.ofNat 24 s.myReq)
  s.pushRecord 0x200 target r fun s => .done s

def execSpawn (f : MForm) (s : State) : Host.Outcome State Fault Refusal :=
  runM (.spawn f) 0x200 f f.len (spawnIll f) never (spawnBody f) s

def suspendIll (f : MForm) (s : State) : Bool :=
  s.pointBad (safePt f) || s.stageBad (f.imm.toNat / 4096) ||
  (f.ext = 1 && (s.knownA 0x203 f).any fun v => s.clusterBad v.dv) ||
  (s.guard f && s.noSuspend)

/-- SUSPEND: the strand's stage, then the save routine. -/
def suspendBody (f : MForm) (x : Opnds) (s : State) : Res :=
  let target := if f.ext = 1 then x.a.dv.toNat else s.myCluster
  .next (((s.sendAcks s.myReq).modSl fun sl => { sl with stage := f.imm.toNat / 4096 }).enterSave (safePt f) (.stage target))

def execSuspend (f : MForm) (s : State) : Host.Outcome State Fault Refusal :=
  runM (.suspend f) 0x203 f f.len (suspendIll f) never (suspendBody f) s

def rforkIll (f : MForm) (s : State) : Bool := s.pointBad (safePt f) || (s.guard f && s.noSuspend)

/-- RFORK: the body is the instruction after it (R189). -/
def rforkBody (f : MForm) (x : Opnds) (s : State) : Res :=
  let body := s.sl.pcc.withCursor (s.sl.pcc.cursor + f.len)
  .next ((s.sendAcks s.myReq).enterSave (safePt f) (.fork x.a.dv.toNat x.b.dv.toNat (f.ext = 1) body))

def execRfork (f : MForm) (s : State) : Host.Outcome State Fault Refusal :=
  runM (.rfork f) 0x204 f f.len (rforkIll f) never (rforkBody f) s

/-- JOIN (R174, R191). A cell belongs to the partition that armed it (R407). One that another launch of the partition armed is taken as any
other: its last JOIN runs the continuation on this core (DESIGN CHOICE, log 51). -/
def joinBody (x : Opnds) (s : State) : Res :=
  let h := x.a.dv
  let c := h.toNat / 32 % 512
  let cell := h.toNat % 32
  let l := s.myLaunch
  s.gate true (msgHead 0x205 c 8 ++ leBytes 8 h.toNat) fun s =>
    let found := if h.toNat < 2 ^ 14 && s.ownsCluster s.myPart c
      then (look (s.cluster c).joins cell).filter fun j => j.launch.1 = s.myPart else none
    match found with
    | none => .next (((s.syncError s.myPart (pktTlidx (s.entry l).packet) h.toNat).setAbnormal l).leaveSlot)
    | some j =>
      let scope := if j.die then 2 else 1
      let s := s.releaseAt s.myCoreKey scope
      if j.count ≤ 1 then
        let s := (s.modCluster c fun q => { q with joins := del q.joins cell }).leaveSlot
        .next ((s.acquireAt s.myCoreKey scope).pickUp s.me j.cont j.launch false)
      else .next ((s.modCluster c fun q => { q with joins := put q.joins cell { j with count := j.count - 1 } }).leaveSlot)

def execJoin (f : MForm) (s : State) : Host.Outcome State Fault Refusal := runPlain (.join f) 0x205 f joinBody s

/-! ## Waits marked suspend (R184) -/

/-- A false condition: the slot waits, or with .SUSP parks its strand while the record store has room. -/
def State.waitOrPark (s : State) (f : MForm) (dest : SaveTo) : Res :=
  if !f.ext.getLsbD 2 then .wait s
  else if s.noSuspend then .trap s cIllegal 0
  else if !s.storeRoom (parkCluster s.myCore dest) then .wait s
  else if s.sl.pend then .trap s cStoreFault s.stfAddr
  else if !s.sl.drained || s.repliesOut then .wait s
  else .next ((s.sendAcks s.myReq).enterSave (safePt f) dest)

/-- The checks of a .SUSP wait: the safe point, and handler mode (R183, R382). -/
def parkIll (f : MForm) (s : State) : Bool := f.ext.getLsbD 2 && (s.pointBad (safePt f) || (s.guard f && s.sl.hm))

/-- An acquire follows the slot's earlier releases and stores to SO pages (R228 note 2, R235). -/
def State.acquireHeld (s : State) : Bool := s.sl.releaseAhead || s.soAhead s.me

/-! ## Domains (R192 to R194) -/

def domOf (s : State) (k : BitVec 5) : BitVec 16 := s.sl.domains[k.toNat % 4]'(Nat.mod_lt _ (by decide))

/-- A handle of kind 0 (R193). -/
def domIll (f : MForm) (s : State) : Bool := hKind (domOf s f.ext) = 0

/-- The die of a cell. -/
def cellDie (h : BitVec 16) : Nat := if hKind h = 3 then hUnit h else if hKind h = 4 then 0 else hUnit h / 48

/-- waitb_done of R193. -/
def phasePassed (c : DomCell) (ph : BitVec 32) : Bool := 1 ≤ (c.phase - ph).toNat && (c.phase - ph).toNat < 2 ^ 31

/-- ARRIVE. -/
def arriveBody (f : MForm) (_ : Opnds) (s : State) : Res :=
  let h := domOf s f.ext
  match s.cellOf h with
  | none => .trap s cIllegal 0
  | some _ =>
    s.gate true (msgHead 0x206 h.toNat 2) fun s =>
      match s.merge (cellDie h) (pointCell h.toNat) s.mySlot, s.cellOf h with
      | some s, some c =>
        let s := s.releaseAt s.myCoreKey (kindScope (hKind h))
        let a := { c with arrived := c.arrived + 1 }
        .done ((s.setCell h (if a.members ≤ a.arrived then a.complete else a)).writeData f.d (c.phase.setWidth 64))
      | _, _ => .wait s

def execArrive (f : MForm) (s : State) : Host.Outcome State Fault Refusal :=
  runM (.arrive f) 0x206 f f.len (domIll f) never (arriveBody f) s

/-- WAITB. -/
def waitbBody (f : MForm) (x : Opnds) (s : State) : Res :=
  let h := domOf s (f.ext &&& 3)
  let ph : BitVec 32 := x.a.dv.setWidth 32
  s.gate true (msgHead 0x207 h.toNat 4 ++ leBytes 4 ph.toNat) fun s =>
    match s.cellOf h with
    | none => .trap s cIllegal 0
    | some c =>
      if !phasePassed c ph then s.waitOrPark f (.domain h ph)
      else if s.acquireHeld then .wait s
      else .done (s.acquireAt s.myCoreKey (kindScope (hKind h)))

def execWaitb (f : MForm) (s : State) : Host.Outcome State Fault Refusal :=
  runM (.waitb f) 0x207 f f.len (fun s => domIll { f with ext := f.ext &&& 3 } s || parkIll f s) never (waitbBody f) s

/-- The domains that the other strands of a launch hold, one list for each: those of its slots, and those of its continuation records
(R396). -/
def State.heldDomains (s : State) (l : Nat × Nat) : List (List (BitVec 16)) :=
  let ofRec (r : Record) : List (BitVec 16) := (upTo 4).map (recDom r)
  (s.slots.filter fun p => p.1 ≠ s.me && p.2.state ≠ .idle && p.2.launch = some l).map (fun p => p.2.domains.toList) ++
  s.saved.flatMap (fun v => (v.slots.filter fun p => p.2.state ≠ .idle && p.2.launch = some l).map fun p => p.2.domains.toList) ++
  s.clusters.flatMap fun c =>
    ((c.2.queuesOf l).queues.toList.flatMap fun q => q.map fun r => ofRec r.1) ++
    ((c.2.parked.filter fun p => p.launch = l).map fun p => ofRec p.record) ++
    ((c.2.joins.filter fun j => j.2.launch = l).map fun j => ofRec j.2.cont)

/-- The pairs of domains of a strand that must nest: an earlier and a later one, both non-zero. -/
def domPairs (hs : List (BitVec 16)) : List (BitVec 16 × BitVec 16) :=
  match hs with
  | [] => []
  | x :: r => (if x = 0 then [] else (r.filter fun y => y ≠ 0).map fun y => (x, y)) ++ domPairs r

/-- The nesting of R177 after the strand's domains have gone from `old` to `new`: the scopes rise, every other member of an inner domain is a
member of the outer one, and the strand breaks no pair of another strand that it did not break before. -/
def nests (old new : List (BitVec 16)) (others : List (List (BitVec 16))) : Bool :=
  (domPairs new).all (fun p => kindScope (hKind p.1) ≤ kindScope (hKind p.2) && others.all fun o => !o.contains p.1 || o.contains p.2) &&
  others.all fun o => (domPairs o).all fun p =>
    !(new.contains p.1 && !new.contains p.2) || (old.contains p.1 && !old.contains p.2)

/-- The checks of DOMSET.ENTER (R192). -/
def State.mayEnter (s : State) (k : Nat) (h : BitVec 16) : Bool :=
  match s.cellOf h with
  | none => false
  | some c =>
    let new := (s.sl.domains.set (k % 4) h (Nat.mod_lt _ (by decide))).toList
    c.launch = s.myLaunch && s.coreInside s.myCore h && new.all (fun x => x = 0 || (s.cellOf x).isSome) &&
      nests s.sl.domains.toList new (s.heldDomains s.myLaunch)

/-- DOMSET.NEW: which of several free cells is taken is a free choice. -/
def domNewBody (f : MForm) (x : Opnds) (s : State) : Res :=
  let kind := x.a.dv.toNat % 8
  let members := x.a.dv.toNat / 2 ^ 16 % 2 ^ 32
  let unit := if kind = 3 then s.myDie else if kind = 4 then 0 else s.myCluster
  s.gate true (msgHead 0x208 0 16 ++ leBytes 8 x.a.dv.toNat ++ leBytes 8 x.b.dv.toNat) fun s =>
    let frees := (upTo 16).filter fun i => (look (s.cellMap kind unit) i).isNone
    if kind = 0 || 5 < kind || members = 0 || 73728 < members || frees = [] then .done (s.writeData f.d 0)
    else
      let (w, s) := s.draw
      let cell := frees.getD (w.toNat % frees.length) 0
      let h := mkHandle kind unit cell
      let mask : BitVec 48 := if kind = 5 then x.b.dv.setWidth 48 else 0
      .done ((s.setCell h ⟨kind, members, 0, 0, mask, s.myCore, s.myLaunch⟩).writeData f.d (h.setWidth 64))

def execDomsetNew (f : MForm) (s : State) : Host.Outcome State Fault Refusal := runPlain (.domsetNew f) 0x208 f (domNewBody f) s

/-- DOMSET.ENTER: the member count does not change. -/
def domEnterBody (f : MForm) (x : Opnds) (s : State) : Res :=
  let h : BitVec 16 := x.a.dv.setWidth 16
  let k := f.ext.toNat % 4
  s.gate true (msgHead 0x208 1 2 ++ leBytes 2 h.toNat) fun s =>
    if s.mayEnter k h then
      .done ((s.modSl fun sl => { sl with domains := sl.domains.set (k % 4) h (Nat.mod_lt _ (by decide)) }).setPred (f.d.setWidth 3) true)
    else .done (s.setPred (f.d.setWidth 3) false)

def execDomsetEnter (f : MForm) (s : State) : Host.Outcome State Fault Refusal :=
  runPlain (.domsetEnter f) 0x208 f (domEnterBody f) s

/-- DOMSET.LEAVE: a completing LEAVE is a release at the domain's scope. -/
def domLeaveBody (f : MForm) (_ : Opnds) (s : State) : Res :=
  let h := domOf s f.ext
  if h = 0 then .done (s.setPred (f.d.setWidth 3) false)
  else
    s.gate true (msgHead 0x208 2 2 ++ leBytes 2 h.toNat) fun s =>
      match s.merge (cellDie h) (pointCell h.toNat) s.mySlot with
      | none => .wait s
      | some s =>
        let r := s.leaveDomain s.me (f.ext.toNat % 4)
        let t := if r.1 then r.2.releaseAt s.myCoreKey (kindScope (hKind h)) else r.2
        .done (t.setPred (f.d.setWidth 3) true)

def execDomsetLeave (f : MForm) (s : State) : Host.Outcome State Fault Refusal :=
  runPlain (.domsetLeave f) 0x208 f (domLeaveBody f) s

/-! ## Tickets (R196, R197) -/

def tkPair (h : Word) : Nat := h.toNat % 64
def tkUnit (h : Word) : Nat := h.toNat / 64 % 512

/-- A handle with non-zero bits [63:15], or of a cluster outside the partition. -/
def State.tkBad (s : State) (h : Word) : Bool := 2 ^ 15 ≤ h.toNat || !s.ownsCluster s.myPart (tkUnit h)

def State.tkGet (s : State) (h : Word) : BitVec 32 × BitVec 32 := s.ticketPair (tkUnit h) s.myPart (tkPair h)
def State.tkPut (s : State) (h : Word) (v : BitVec 32 × BitVec 32) : State := s.setTicketPair (tkUnit h) s.myPart (tkPair h) v

def ticketBody (f : MForm) (x : Opnds) (s : State) : Res :=
  let h := x.a.dv
  if s.tkBad h then .trap s cBounds h.toNat
  else s.gate true (msgHead 0x209 h.toNat 8) fun s =>
    if tkUnit h / 48 = s.myDie then
      match s.merge s.myDie (pointPair (tkUnit h) (tkPair h)) s.mySlot with
      | none => .wait s
      | some s =>
        let t := s.tkGet h
        .done ((s.tkPut h (t.1 + 1, t.2)).writeData f.d (t.1.setWidth 64))
    else
      s.exchange (clusterOwner (tkUnit h)) (.ticket (tkUnit h) (tkPair h)) h.toNat fun st w s =>
        if st = stDone then .done (s.writeData f.d w) else .trap s (statusCause st) h.toNat

def execTicket (f : MForm) (s : State) : Host.Outcome State Fault Refusal := runPlain (.ticket f) 0x209 f (ticketBody f) s

def ticketServed (serving t : BitVec 32) : Bool := (serving - t).toNat < 2 ^ 31

def waittkBody (f : MForm) (x : Opnds) (s : State) : Res :=
  let h := x.a.dv
  let t : BitVec 32 := x.b.dv.setWidth 32
  if s.tkBad h then .trap s cBounds h.toNat
  else s.gate true (msgHead 0x20A h.toNat 8 ++ leBytes 4 t.toNat) fun s =>
    if !ticketServed (s.tkGet h).2 t then s.waitOrPark f (.ticket (tkUnit h) (tkPair h) t)
    else if s.acquireHeld then .wait s
    else .done (s.acquireAt s.myCoreKey (unitScope s.myCore (tkUnit h)))

def execWaittk (f : MForm) (s : State) : Host.Outcome State Fault Refusal :=
  runM (.waittk f) 0x20A f f.len (parkIll f) never (waittkBody f) s

def serveBody (x : Opnds) (s : State) : Res :=
  let h := x.a.dv
  if s.tkBad h then .trap s cBounds h.toNat
  else s.gate true (msgHead 0x20B h.toNat 8) fun s =>
    match s.merge (tkUnit h / 48) (pointPair (tkUnit h) (tkPair h)) s.mySlot with
    | none => .wait s
    | some s =>
      let s := s.releaseAt s.myCoreKey (unitScope s.myCore (tkUnit h))
      let t := s.tkGet h
      .done (s.tkPut h (t.1, t.2 + 1))

def execServe (f : MForm) (s : State) : Host.Outcome State Fault Refusal := runPlain (.serve f) 0x20B f serveBody s

/-! ## QMAP (R198) -/

def qmapBody (f : MForm) (x : Opnds) (s : State) : Res :=
  let new : BitVec 4 := if f.ext = 1 then x.a.dv.setWidth 4 else f.imm.setWidth 4
  let old := s.sl.qmap
  .done ((s.setReg f.d (Cap.ofWord (old.setWidth 64))).modSl fun sl => { sl with qmap := new })

def execQmap (f : MForm) (s : State) : Host.Outcome State Fault Refusal := runPlain (.qmap f) 0x20C f (qmapBody f) s

/-! ## The stage scheduler (R171) -/

def Header.out (h : Header) (i : Nat) : Nat := match h.stages[i]? with
  | some st => st.out
  | none => 0xFF

/-- A stage that may be picked: its queue is not empty and its output queue is not full. -/
def stageEligible (h : Header) (q : StageQueues) (i : Nat) : Bool :=
  q.get i ≠ [] && (h.out i = 0xFF || (q.get (h.out i)).length < h.bound (h.out i))

/-- The best of some stages, under a strict order; ties to the lowest. -/
def bestOf (better : Nat → Nat → Bool) (l : List Nat) : Option Nat :=
  match l with
  | [] => none
  | a :: r => some (r.foldl (fun b x => if better x b then x else b) a)

/-- stage_pick of R171 for a core: the queues with their ages, and the record. The 6-bit age stays at 63 once it has reached it. -/
def stagePickFor (h : Header) (q : StageQueues) (fits : Record → Bool) : StageQueues × Option (Record × Bool) :=
  let n := h.stages.length
  let q := (upTo n).foldl (fun q i => if stageEligible h q i then q else q.setAge i 0) q
  let able := (upTo n).filter fun i => stageEligible h q i && (q.get i).any fun r => fits r.1
  let old := able.filter fun i => 48 ≤ q.age i
  let choice := if old ≠ [] then bestOf (fun a b => q.age b < q.age a) old
    else bestOf (fun a b => (q.get b).length * h.bound a < (q.get a).length * h.bound b) able
  match choice with
  | none => (q, none)
  | some c =>
    let q := able.foldl (fun q i => q.setAge i (if i = c then 0 else min 63 (q.age i + 1))) q
    let at_ := (q.get c).findIdx fun r => fits r.1
    (q.set c ((q.get c).eraseIdx at_), (q.get c)[at_]?)

/-- Serves the first idle slot, of those of a cluster in the round from `n` on, for which a pick succeeds; the round goes on behind it, and
after the last slot it begins again (R171). -/
def State.pickIn (s : State) (c : Nat) (slots : List Nat) : State :=
  match slots with
  | [] => s.modCluster c fun x => { x with pickAt := 0 }
  | n :: rest =>
    let core := 48 * c + n / 4
    let k := s.slotOf core (n % 4)
    match (s.coreBank (s.coreKey core)).launch with
    | none => s.pickIn c rest
    | some l =>
      if (s.slotAt k).state ≠ .idle || (s.core core).stopped || !s.woken l core then s.pickIn c rest
      else
        let (q, r) := stagePickFor (s.header l) ((s.cluster c).queuesOf l) fun r => s.mayResume r core
        let s := s.modCluster c fun x => x.setQueues q
        match r with
        | some (r, marked) => (s.pickUp k r l marked).modCluster c fun x => { x with pickAt := n + 1 }
        | none => s.pickIn c rest

/-- STAGE_PICK: arg.a is the cluster. -/
def execStagePick (s : State) : Host.Outcome State Fault Refusal :=
  let c := s.arg.a
  .next (if (s.cluster c).resting || Config.clusters ≤ c then s
    else s.pickIn c ((upTo 192).drop (s.cluster c).pickAt ++ upTo 192))

/-! ## Parked records (R184) -/

/-- Whether the condition a parked record awaits is true, or nothing is awaited. -/
def State.awaited (s : State) (p : Parked) : Bool :=
  p.ready ||
  match p.dest with
  | .domain h ph => (match s.cellOf h with | some c => phasePassed c ph | none => false)
  | .ticket c pair t => ticketServed (s.ticketPair c p.launch.1 pair).2 t
  | _ => true

/-- The parked record at place `i` of a cluster enters its queue when it may and there is room. -/
def State.unpark (s : State) (c i : Nat) : State :=
  match (s.cluster c).parked[i]? with
  | none => s
  | some p =>
    if !p.marked && !s.awaited p then s
    else match s.pushStage c p.launch p.record p.marked with
      | none => s
      | some s =>
        let s := s.modCluster c fun x => { x with parked := x.parked.eraseIdx i }
        if p.marked then s else s.satisfied p.launch.1

/-- PARKED_RECORD_RELEASE: arg.a is the cluster, arg.b the place. -/
def execParkedRecordRelease (s : State) : Host.Outcome State Fault Refusal := .next (s.unpark s.arg.a s.arg.b)

/-! ## Migration (R168) -/

/-- MIGRATION_AT_SAFEPOINT: arg.a is the slot. -/
def execMigrationAtSafepoint (s : State) : Host.Outcome State Fault Refusal :=
  let k := s.slotKey s.arg.a
  let t : State := { s with cur := .slot k }
  .next (if (s.slotAt k).state = .ready && !(s.slotAt k).halted && !(s.core (k / 8)).stopped then
    (match t.migrates with
     | some i => t.migrate i
     | none => s) else s)

/-- MIGREQ_WRITE: the written word names core, slot and request. -/
def execMigreqWrite (s : State) : Host.Outcome State Fault Refusal :=
  .next (match s.arg.pay with
    | .word v =>
      let core := (v.extractLsb' 0 15).toNat
      if Config.cores ≤ core then s
      else s.modSlotAt (s.slotKey (4 * core + (v.extractLsb' 15 2).toNat)) fun sl => { sl with migReq := v.getLsbD 17 }
    | _ => s)

/-- STAGE_SCHEDULER_REBALANCE: arg.a is the slot it chooses; never one with a non-zero QMAP (R156). -/
def execStageSchedulerRebalance (s : State) : Host.Outcome State Fault Refusal :=
  let k := s.slotKey s.arg.a
  .next (if (s.slotAt k).state ≠ .idle && (s.slotAt k).qmap = 0 then s.modSlotAt k fun sl => { sl with migReq := true } else s)

/-! ## The watchdog (R179) -/

/-- WATCHDOG_EXPIRE: arg.a is the partition. -/
def execWatchdogExpire (s : State) : Host.Outcome State Fault Refusal :=
  let p := s.arg.a
  let q := s.part p
  .next <|
    if q.wdLimit = 0 || q.wdCount < q.wdLimit then s
    else
      let ks := (s.slots.filter (s.inWait p)).map Prod.fst
      let s := ks.foldl (fun (t : State) k =>
        ({ t with cur := .slot k }.takeTrap cWatchdog 0).fell (dieOf (k / 8)) 0x07 none (k / 2)) s
      let s := s.clusters.foldl (fun (t : State) c =>
        if c.2.ctx c.2.liveBank ≠ some p then t
        else
          let t := t.modCluster c.1 fun x => { x with parked := x.parked.map fun r => if r.launch.1 = p then { r with marked := true } else r }
          (upTo c.2.parked.length).foldl (fun (u : State) i =>
            let at_ := c.2.parked.length - 1 - i
            match (u.cluster c.1).parked[at_]? with
            | some r => if r.marked then u.unpark c.1 at_ else u
            | none => u) t) s
      s.satisfied p

end Sys2Proof.Machine
end

