-- ==== Sys2Proof/Machine/Async.lean ====
section
/-!
DEFINITION. Timelines and command issue, class 0xB (R286, R301 to R308), the combining node (R287) and the advance of timelines (R290).
-/
namespace Sys2Proof.Machine

/-! ## Command issue (R284, R286) -/

/-- Which engine SENDCMD reaches with an opcode: 2 copy, 3 dispatch, 4 market; none where R284 gives no such path. -/
def sendTarget (opcode : Nat) : Option Nat :=
  if 0x20 ≤ opcode && opcode ≤ 0x23 then some 2
  else if opcode = 0x24 then some 3
  else if 0x30 ≤ opcode && opcode ≤ 0x36 then some 4
  else none

/-- The acceptance word of R286. -/
def acceptWord (pos : Option Nat) (combined refused : Bool) : Word :=
  BitVec.ofBool refused ++ BitVec.ofBool combined ++ BitVec.ofNat 62 (pos.getD 0)

/-- The input of an engine as a unit of a cluster or its die. -/
def inputOf (engine cluster : Nat) : Cur :=
  if engine = 2 then .copy cluster 0 else if engine = 3 then .dispatch (cluster / 48) 0 else if engine = 4 then .market (cluster / 48) 0
  else .coll (cluster / 48) 0

def inputSize (engine : Nat) : Nat := if engine = 2 then 64 else 256

/-- A record enters the input of its engine: none while the input is full. -/
def State.submit (s : State) (engine cluster part slot : Nat) (launch : Nat × Nat) (r : Record) : Option (Option Nat × State) :=
  let c := inputOf engine cluster
  if inputSize engine ≤ (s.jobs c).length then none
  else
    let (j, s) := s.accept part slot launch r
    some (j.pos, s.setJobs c (s.jobs c ++ [j]))

/-- A refused record: error record under engine code 8, and ERR with its position or at once (R284, R291). -/
def State.refuseRecord (s : State) (part slot : Nat) (launch : Nat × Nat) (r : Record) : Option Nat × State :=
  let (j, s) := s.accept part slot launch r
  (j.pos, (s.cmdRecord j 8 eMalformed 0).failAdvance j)

/-! ## The combining node (R287) -/

/-- A slot leaves every window it may have joined before. -/
def Cluster.leaveWindows (c : Cluster) (k : Nat) : Cluster :=
  { c with windows := c.windows.map fun w => { w with members := w.members.filter (· ≠ k) } }

/-- A record with COMB at the node: it joins an identical one of its partition or opens a window; none when eight are open and none
matches. -/
def State.joinWindow (s : State) (r : Record) : Option State :=
  let c := s.myCluster
  let ws := ((s.cluster c).leaveWindows s.me).windows
  let mine (w : Window) : Bool := w.record = r && w.members ≠ [] && w.members.all fun k => s.partOf k = s.myPart
  let put (l : List Window) : State :=
    (s.modCluster c fun x => { x with windows := l }).modSl fun sl => { sl with joined := some none }
  match ws.findIdx? mine with
  | some i => some (put (ws.modify i fun w => { w with members := w.members ++ [s.me] }))
  | none => if ws.length < 8 then some (put (ws ++ [⟨r, [s.me], s.now⟩])) else none

/-- SENDCMD (R286). -/
def sendcmdBody (f : MForm) (_ : Opnds) (s : State) : Res :=
  let r := s.group f.b
  match s.sl.joined with
  | some (some w) => .done (s.writeData f.d w)
  | some none => .wait s
  | none =>
    s.gate true (msgHead 0x2C0 0 64 ++ recordBytes r ++ leBytes 1 (recTags r)) fun s =>
      match sendTarget (rOpcode r) with
      | none =>
        let (pos, s) := s.refuseRecord s.myPart s.mySlot s.myLaunch r
        .done (s.writeData f.d (acceptWord pos false true))
      | some engine =>
        match (if rComb r then s.beforeCommand.joinWindow r else none) with
        | some s => .wait s
        | none =>
          match s.beforeCommand.submit engine s.myCluster s.myPart s.mySlot s.myLaunch r with
          | none => .wait s
          | some (pos, s) => .done (s.writeData f.d (acceptWord pos false false))

def execSendcmd (f : MForm) (s : State) : Host.Outcome State Fault Refusal := runPlain (.sendcmd f) 0x2C0 f (sendcmdBody f) s

/-- The members of a window that still wait, and the twin slots that wait with them (R390). -/
def State.windowMembers (s : State) (w : Window) : List Nat := w.members.filter fun k => (s.slotAt k).joined = some none

/-- COMBINE_WINDOW_CLOSE: arg.a is the cluster, arg.b the window. -/
def execCombineWindowClose (s : State) : Host.Outcome State Fault Refusal :=
  let c := s.arg.a
  .next <| match (s.cluster c).windows[s.arg.b]? with
  | none => s
  | some w =>
    if (s.now - w.opened).toNat < 64 then s
    else
      let drop (s : State) : State := s.modCluster c fun x => { x with windows := x.windows.eraseIdx s.arg.b }
      let merged (s : State) (n : Nat) : State :=
        s.modCluster c fun x => { x with counters := x.counters.set 1 (x.counters[1] + BitVec.ofNat 32 n) }
      match s.windowMembers w, sendTarget (rOpcode w.record) with
      | k :: more, some engine =>
        match s.submit engine c (s.partOf k) (k / 2) ((s.slotAt k).launch.getD (0, 0)) w.record with
        | none => s
        | some (pos, s) =>
          let word := acceptWord pos (more ≠ []) false
          (k :: more).foldl (fun (t : State) m =>
            let t := t.modSlotAt m fun sl => { sl with joined := some (some word) }
            match t.twinSlot m with
            | some u => t.modSlotAt u fun sl => { sl with joined := sl.joined.map fun _ => some word }
            | none => t) (merged (drop s) more.length)
      | _, _ => drop s

/-! ## Timelines (R302 to R306) -/

/-- The timeline that an instruction addresses, or its trap (R302). -/
def State.withTimeline (s : State) (c : Cap) (ea : Int) (perm : BitVec 7) (k : Nat → Res) : Res :=
  match capCheck c ea 8 perm with
  | some cause => .trap s cause (eaNat ea)
  | none =>
    let va := eaNat ea
    if va % 8 ≠ 0 then .trap s cAlign va
    else if setBase ≤ va && va < setBase + 0x2000 then k ((va - setBase) / 8)
    else .trap s cPermission va

/-- TLWAIT: an acquire at the timeline's scope. -/
def tlwaitBody (f : MForm) (x : Opnds) (s : State) : Res :=
  s.withTimeline x.a (x.a.cursor + f.immOff) pL fun i =>
    s.gate true (msgHead 0x2C1 i 8) fun s =>
      let t := (s.part s.myPart).timeline i
      if t.count.toNat < x.b.dv.toNat % 2 ^ 63 || s.acquireHeld then .wait s
      else .done ((s.acquireAt s.myCoreKey t.scope.toNat).writeData f.d t.tlWord)

def execTlwait (f : MForm) (s : State) : Host.Outcome State Fault Refusal := runPlain (.tlwait f) 0x2C1 f (tlwaitBody f) s

/-- TLREAD. -/
def tlreadBody (f : MForm) (x : Opnds) (s : State) : Res :=
  s.withTimeline x.a (x.a.cursor + f.immOff) pL fun i =>
    s.gate true (msgHead 0x2C2 i 8) fun s =>
      let t := (s.part s.myPart).timeline i
      .done (s.writeData f.d (if f.ext = 1 then t.issued.setWidth 64 else t.tlWord))

def execTlread (f : MForm) (s : State) : Host.Outcome State Fault Refusal := runPlain (.tlread f) 0x2C2 f (tlreadBody f) s

/-- TLSIG: the strand's accesses perform at the timeline's scope before the position can advance; the advance itself is
TIMELINE_ADVANCE. -/
def tlsigBody (f : MForm) (x : Opnds) (s : State) : Res :=
  s.withTimeline x.a (x.a.cursor + f.immOff) pS fun i =>
    s.gate true (msgHead 0x2C3 i 8 ++ leBytes 1 f.ext.toNat) fun s =>
      let p := s.myPart
      let s := s.releaseAt s.myCoreKey ((s.part p).timeline i).scope.toNat
      let (pos, s) := s.takePos p i
      .done ((s.finishPos p i pos (f.ext = 1)).writeData f.d (BitVec.ofNat 64 pos))

def execTlsig (f : MForm) (s : State) : Host.Outcome State Fault Refusal := runPlain (.tlsig f) 0x2C3 f (tlsigBody f) s

/-- TLCLR. -/
def tlclrBody (f : MForm) (x : Opnds) (s : State) : Res :=
  s.withTimeline x.a (x.a.cursor + f.immOff) pS fun i =>
    s.gate true (msgHead 0x2C4 i 8 ++ leBytes 1 f.typ.toNat) fun s =>
      let t := (s.part s.myPart).timeline i
      if t.count ≠ t.issued then .wait s
      else
        let l := s.myLaunch
        .done (s.modTimeline s.myPart i fun t =>
          { t with count := 0, err := false, issued := 0, scope := f.typ.setWidth 3, owner := BitVec.ofNat 5 l.2,
                   ownGen := (s.entry l).gen })

def execTlclr (f : MForm) (s : State) : Host.Outcome State Fault Refusal := runPlain (.tlclr f) 0x2C4 f (tlclrBody f) s

/-- Whether an advance may be taken: that of a matrix command waits while its context is swapped out (R328). -/
def State.mayAdvance (s : State) (p : Nat) (x : Finished) : Bool :=
  x.heldBy.all fun c => (s.cluster c).ctx ((s.cluster c).liveBank % 2) = some p

/-- TIMELINE_ADVANCE: arg.a is the partition, arg.b the timeline. The holder of position COUNT + 1 advances when it has finished. -/
def execTimelineAdvance (s : State) : Host.Outcome State Fault Refusal :=
  let t := (s.part s.arg.a).timeline s.arg.b
  let next := (t.count + 1).toNat
  .next <| match t.finished.find? fun x => x.pos = next && s.mayAdvance s.arg.a x with
  | none => s
  | some x =>
    s.modTimeline s.arg.a s.arg.b fun t =>
      { t with count := t.count + 1, err := t.err || x.err, finished := t.finished.filter fun y => y.pos ≠ next }

/-! ## Tile control (R307, R312) -/

/-- Bits of one element of a tile type; 0 for a type that no tile takes. -/
def tileBits (t : Nat) : Nat := match t with
  | 0x11 => 16 | 0x12 => 16 | 0x13 => 8 | 0x14 => 8
  | 0x20 => 8 | 0x21 => 8 | 0x22 => 8 | 0x23 => 8 | 0x24 => 4 | 0x25 => 8 | 0x26 => 6
  | _ => 0

def tileType (w : BitVec 32) : Nat := (w.extractLsb' 0 8).toNat
def tileRows (w : BitVec 32) : Nat := (w.extractLsb' 8 7).toNat
def tileCols (w : BitVec 32) : Nat := (w.extractLsb' 16 9).toNat

/-- The conditions of R307 that raise ILLEGAL_INSTRUCTION. -/
def tileIll (w : BitVec 32) : Bool :=
  w.getLsbD 15 || w.extractLsb' 25 7 ≠ 0 || tileRows w = 0 || 64 < tileRows w || tileCols w = 0 ||
  (isBlock (tileType w) && tileCols w % 32 ≠ 0) || 65536 < tileRows w * tileCols w * tileBits (tileType w)

def mtcwIll (f : MForm) (s : State) : Bool := (s.knownB 0x2C5 f).any fun v => tileIll (v.dv.setWidth 32)
def mtcwTyp (f : MForm) (s : State) : Bool := (s.knownB 0x2C5 f).any fun v => tileBits (tileType (v.dv.setWidth 32)) = 0

/-- MTCW: one entry of the matrix queue. -/
def mtcwBody (f : MForm) (x : Opnds) (s : State) : Res :=
  let w : BitVec 32 := x.b.dv.setWidth 32
  let k := f.d.toNat % 4
  s.mqRoom fun s => s.gate true (msgHead 0x2C5 k 4 ++ leBytes 4 w.toNat) fun s =>
    let j := (s.accept s.myPart s.mySlot s.myLaunch Record.zero).1
    .done ({ s with order := s.order + 1 }.modCoreBank s.myCoreKey fun b =>
      { b with mq := b.mq ++ [{ j with mtcw := some (k, w) }], ctlLast := b.ctlLast.set (k % 4) w (Nat.mod_lt _ (by decide)) })

def execMtcw (f : MForm) (s : State) : Host.Outcome State Fault Refusal :=
  runM (.mtcw f) 0x2C5 f f.len (mtcwIll f) (mtcwTyp f) (mtcwBody f) s

/-- MTCR. -/
def mtcrBody (f : MForm) (_ : Opnds) (s : State) : Res :=
  .done (s.writeData f.d (((s.coreBank s.myCoreKey).ctlLast[f.a.toNat % 4]'(Nat.mod_lt _ (by decide))).setWidth 64))

def execMtcr (f : MForm) (s : State) : Host.Outcome State Fault Refusal := runPlain (.mtcr f) 0x2C6 f (mtcrBody f) s

end Sys2Proof.Machine
end

