-- ==== Sys2Proof/Machine/Atomic.lean ====
section
/-!
DEFINITION. Atomics and reductions, fences, draining and waiting on an address, class 0x7 (R252, R264 to R272), and the events that
belong to them: the translation of posted stores (R384), STORE_FAULT (R386) and the wake of a WAITA (R272).
-/
namespace Sys2Proof.Machine

/-! ## Atomics (R264 to R267) -/

/-- Bytes of an atomic. -/
def atomBytes (f : MForm) : Nat := if moW64 f.typ then 8 else 4

/-- The operation of an atomic as a local step (new value, none for no write) and as the message to another owner. -/
structure AtomOp where
  new : Nat → Option Nat
  msg : Nat → Bool → RemOp

/-- The atomic of R264. `fin` takes the old value and the result word of the step (for FAMO the flags stand above it). -/
def State.atomic (s : State) (op : Nat) (f : MForm) (c : Cap) (n : Nat) (a : AtomOp) (data : List Byte) (result : Nat → Word)
    (fin : Word → State → State) : Res :=
  let acq : Bool := moOrdF f % 2 = 1
  let rel : Bool := 2 ≤ moOrdF f
  let scope := moScopeF f
  s.withAddress c (c.cursor + f.immOff) n (pL ||| pS) true fun va =>
    s.withPieces va n .amo fun ps s =>
      if s.mustWait va n ps acq true true then .wait s
      else
        let finish (w : Word) (s : State) : Res :=
          .done (fin w (if acq then s.acquireAt s.myCoreKey scope else s))
        match ps with
        | [⟨.spad p, _⟩] =>
          s.gate (p / sliceSize ≠ s.myCore) (msgHead op va n ++ data) fun s =>
            if s.spadPoisoned p n then .next (s.coreStop s.myCore)
            else
              let s := if rel then s.releaseAt s.myCoreKey scope else s
              let (old, s) := s.atomicSpad s.myCore p n a.new
              finish (result old) s
        | [⟨.mem pa pg, _⟩] =>
          if offDie s.myDie pa then
            s.gate true (msgHead op va n ++ data) fun s =>
              let s := if s.sl.sent = none then
                (let t := if rel then s.releaseAt s.myCoreKey scope else s; t.dropLine t.myCoreKey (pa / 64)) else s
              -- the dirty bytes of the line perform before the step
              if s.sl.sent = none && s.lineBusy s.myCoreKey (pa / 64) then .wait s
              else s.exchange (sliceOwner pa) (a.msg pa (pg.mode = .so)) va (fun st w s =>
                -- a copy that another slot has fetched meanwhile is stale
                let s := s.dropLine s.myCoreKey (pa / 64)
                if st = stDone then finish w s
                else if st = stPoison then .next (s.coreStop s.myCore)
                else .trap s (statusCause st) va) (some (pa / 64))
          else
            s.gate true (msgHead op va n ++ data) fun s =>
              let s := if rel then s.releaseAt s.myCoreKey scope else s
              let s := (s.dropLine s.myCoreKey (pa / 64)).combine (pa / 64)
              match s.merge s.myDie (pointSlice pa) s.mySlot with
              | none => .wait s
              | some s =>
                if s.mem.poison.contains (pa / 64) then .next (s.coreStop s.myCore)
                else match s.atomicHome pg.key (pg.mode = .so) s.myCore pa n acq scope a.new with
                  | (none, s) => .trap s cScope va
                  | (some old, s) => finish (result old) s
        | _ => .trap s cAlign va

/-- AMO (R265): old, zero-extended, to d. -/
def execAmo (f : MForm) (s : State) : Host.Outcome State Fault Refusal :=
  runPlain (.amo f) 0x1C0 f (fun x s =>
    let n := atomBytes f
    s.atomic 0x1C0 f x.a n
      ⟨fun old => some (intOp f.ext.toNat n old x.b.dv.toNat),
       fun pa so => .amo pa false so n f.ext.toNat x.b.dv (moOrdF f) (moScopeF f)⟩
      (leBytes 8 x.b.dv.toNat) (BitVec.ofNat 64) (fun w s => s.writeData f.d w)) s

/-- CAS (R266): the predicate k stands in ext[2:0]. -/
def execCas (f : MForm) (s : State) : Host.Outcome State Fault Refusal :=
  runPlain (.cas f) 0x1C1 f (fun x s =>
    let n := atomBytes f
    let expect := x.d.dv.toNat % 2 ^ (8 * n)
    s.atomic 0x1C1 f x.a n
      ⟨casNew n expect x.b.dv.toNat, fun pa so => .cas pa false so n x.d.dv x.b.dv (moOrdF f) (moScopeF f)⟩
      (leBytes 8 x.d.dv.toNat ++ leBytes 8 x.b.dv.toNat) (BitVec.ofNat 64)
      (fun w s => (s.writeData f.d w).setPred (f.ext.setWidth 3) (w.toNat = expect))) s

/-- FAMO (R267): the flags of the step go to FSTAT. -/
def execFamo (f : MForm) (s : State) : Host.Outcome State Fault Refusal :=
  runPlain (.famo f) 0x1C2 f (fun x s =>
    s.atomic 0x1C2 f x.a 4
      ⟨fun old => some (famoApply f.ext.toNat old (x.b.dv.toNat % 2 ^ 32)).1,
       fun pa so => .famo pa so f.ext.toNat (x.b.dv &&& 0xFFFFFFFF) (moOrdF f) (moScopeF f)⟩
      (leBytes 4 x.b.dv.toNat)
      (fun old => ((famoApply f.ext.toNat old (x.b.dv.toNat % 2 ^ 32)).2.setWidth 64 <<< 32) ||| BitVec.ofNat 64 old)
      (fun w s => (s.addFlags (w.extractLsb' 32 6)).writeData f.d (w &&& 0xFFFFFFFF))) s

/-- RED (R268): posted; needs L and S. -/
def execRed (f : MForm) (s : State) : Host.Outcome State Fault Refusal :=
  runPlain (.red f) 0x1C3 f (fun x s =>
    let n := atomBytes f
    s.storeAt x.a (x.a.cursor + f.immOff) n (pL ||| pS) true (.red f.ext.toNat (moScopeF f)) (leBytes n x.b.dv.toNat)) s

/-! ## Fences and draining (R270, R271) -/

/-- FENCE: 0 ALL, 1 ACQ, 2 REL. -/
def execFence (f : MForm) (s : State) : Host.Outcome State Fault Refusal :=
  runPlain (.fence f) 0x1C4 f (fun _ s =>
    let sc := moScopeF f
    let ck := s.myCoreKey
    .done (match f.ext.toNat with
      | 0 => (s.releaseAt ck sc true).acquireAt ck sc true
      | 1 => s.acquireAt ck sc
      | _ => s.releaseAt ck sc)) s

def execDrainst (f : MForm) (s : State) : Host.Outcome State Fault Refusal :=
  runPlain (.drainst f) 0x1C5 f (fun _ s => .done s) s

/-! ## WAITA (R272) -/

/-- The location of a monitored line: line number, and whether it is a scratchpad's. -/
def pieceLine (p : Piece) : Nat × Bool := match p.loc with
  | .spad a => (a / 64, true)
  | .mem pa _ => (pa / 64, false)

/-- The engine windows of R280: the matrix queue window and the timeline set. -/
def engineWindow (va : Nat) : Bool := va < engineBase + 64 || (setBase ≤ va && va < setBase + 2 ^ 16)

/-- WAITA: the read at the home and the arming are one step. -/
def execWaita (f : MForm) (s : State) : Host.Outcome State Fault Refusal :=
  runPlain (.waita f) 0x1C6 f (fun x s =>
    s.withAddress x.a (x.a.cursor + f.immOff) 8 pL true fun va =>
      match s.sl.armed with
      | some true => .done ((s.disarm s.me).setPred (f.d.setWidth 3) true)
      | some false => .wait s
      | none =>
        if regionOf va = .engine then .trap s (if engineWindow va then cPermission else cNotPresent) va
        else s.withPieces va 8 .load fun ps s =>
          if s.mustWait va 8 ps false true false then .wait s
          else s.gate (ps.any (pieceLeaves s.myCore)) (msgHead 0x1C6 va 8) fun s =>
            -- a WAITA has no RESULT_UNKNOWN (R273): without its home it waits
            s.farRead (s.readCrosses s.via ps true) (s.piecesUp s.via ps) .wait fun s =>
              let (g, s) := s.readPieces s.via ps true
              if g.poison then .next (s.coreStop s.myCore)
              else if leNat (s.overlay s.me s.via va 8 g).bytes ≠ x.b.dv.toNat then .done (s.setPred (f.d.setWidth 3) true)
              else if 32 ≤ (s.cluster s.myCluster).monitors.length then .done (s.setPred (f.d.setWidth 3) false)
              else match ps with
                | p :: _ =>
                  .wait ((s.modCluster s.myCluster fun c => { c with
                    monitors := c.monitors ++ [⟨s.me, (pieceLine p).1, (pieceLine p).2⟩] }).modSl fun sl => { sl with armed := some false })
                | [] => .done s) s

/-! ## Events -/

/-- Whether the store buffer of a slot translates: its core runs; one of a context that is swapped out goes on (R409). -/
def State.buffering (s : State) (k : Nat) : Bool := !(s.core (k / 8)).stopped

/-- Whether the oldest untranslated store of a slot may act: a store to an SO page follows the slot's earlier remote operations, a remote store
those to SO pages, any other store the REDs on their way (R229, R235). -/
def State.storeReady (s : State) (k : Nat) : Bool :=
  let sl := s.slotAt k
  let r := s.requester (reqId false (k / 2) (s.partOf k))
  match sl.sbuf.find? fun e => !e.held with
  | none => false
  | some e =>
    !(s.soStore k e && r.out) &&
    match e.kind with
    | .remote _ _ _ _ => !(r.open_.any fun q => match q.op with
        | .line _ _ so _ _ _ => so
        | .parts _ _ so _ _ => so
        | _ => false)
    | .red _ _ => true
    | _ => !s.redOut k

/-- A store of a twinned core that leaves it; behind a fault it stays in the buffer. -/
def State.storeLeaves (s : State) (k : Nat) (e : StoreEnt) : Bool :=
  (s.slotAt k).retained = 0 &&
  match e.kind with
  | .remote _ _ _ _ => true
  | _ => match (s.resolve (s.viaOf k) e.va e.data.length e.kind.access).1 with
    | .ok ps => ps.any (pieceLeaves (k / 8))
    | .error _ => false

/-- The opcode under which the message of a store is hashed, and what its header tells apart: the tag of an STC, the operation of a RED, the form
of an RST, a release (R390, log 10). -/
def StoreKind.opcode : StoreKind → Nat
  | .plain => 0x181
  | .tagged => 0x183
  | .release _ => 0x181
  | .red _ _ => 0x1C3
  | .remote _ _ _ _ => 0x301
def StoreKind.head : StoreKind → List Byte
  | .plain => []
  | .tagged => leBytes 1 1
  | .release sc => leBytes 2 (0x100 + sc)
  | .red op sc => leBytes 2 (256 * op + sc)
  | .remote fe quiet rel target =>
    leBytes 1 fe ++ leBytes 1 (if quiet then 1 else 0) ++ leBytes 1 (rel.getD 15) ++ leBytes 2 (target.getD 0xFFFF)

/-- The next step of a store buffer: its oldest store that has not been translated is translated; one that leaves a twinned core enters
the egress router instead (R384, R390). -/
def State.storeStep (s : State) (k : Nat) (how : Nat := 0) : State :=
  if !s.buffering k || !s.storeReady k then s
  else match (s.core (k / 8)).twin, (s.slotAt k).sbuf.find? fun e => !e.held with
    | some _, some e =>
      if s.storeLeaves k e then
        if (s.core (k / 8)).twinMsgs.any fun m => m.kind = 1 && m.slot = k then s
        else s.modCore (k / 8) fun c =>
          { c with twinMsgs := c.twinMsgs ++ [⟨crc64 (msgHead e.kind.opcode e.va e.data.length ++ e.kind.head ++ e.data), s.now, k, 1⟩] }
      else s.translateStore k how
    | _, _ => s.translateStore k how

/-- Up to `n` steps of a store buffer. -/
def State.storeSteps (s : State) (n k : Nat) : State :=
  match n with
  | 0 => s
  | m + 1 => if (s.slotAt k).drained then s else (s.storeStep k).storeSteps m k

/-- STORE_TRANSLATE: arg.a is the slot, arg.b its bank; of a store across two lines, arg.c = 1 performs the lower part alone, 2 the upper part
(R213). -/
def execStoreTranslate (s : State) : Host.Outcome State Fault Refusal :=
  .next (s.storeStep (bankKey s.arg.a (s.arg.b % 2)) (s.arg.c % 3))

/-- Whether a waiting instruction of the slot waits for its earlier stores (R386). -/
def State.waitsForStores (s : State) (i : Instr) : Bool :=
  match i with
  | .endS => true
  | i => match i.form with
    | some (op, f) => drainsStores op f && s.guard f
    | none => false

/-- STORE_FAULT_TRAP: arg.a is the slot. At a boundary outside handler mode with PEND set; a slot that waits for its earlier stores is
at the boundary before its instruction (R386). -/
def execStoreFaultTrap (s : State) : Host.Outcome State Fault Refusal :=
  let k := s.slotKey s.arg.a
  let sl := s.slotAt k
  .next <|
    if !sl.pend || sl.hm || sl.halted || (s.core (k / 8)).stopped then s
    else match sl.state with
      | .ready => { s with cur := .slot k }.takeStoreFault
      | .waiting i => if ({ s with cur := .slot k } : State).waitsForStores i then { s with cur := .slot k }.takeStoreFault else s
      | _ => s

/-- WAITA_WAKE: arg.a is the slot; the WAITA whose line was written completes with pd true; arg.b = 1 drops the entry (a lost
registration), which also wakes. -/
def execWaitaWake (s : State) : Host.Outcome State Fault Refusal :=
  let k := s.slotKey s.arg.a
  let sl := s.slotAt k
  .next <|
    match sl.state, sl.armed with
    | .waiting (.waita f), some w =>
      if sl.halted || !(w || s.arg.b = 1) then s
      else
        let s := { s with cur := .slot k }
        (((s.disarm k).setPred (f.d.setWidth 3) true).advance f.len f.yield).satisfied (s.partOf k)
    | _, _ => s

end Sys2Proof.Machine
end

