-- ==== Sys2Proof/Machine/Remote.lean ====
section
/-!
DEFINITION. Remote operations, class 0xC (R432 to R442, R450, R451), and the events of the transport: owners, replies, retransmission,
acknowledgement, forgetting (R422, R427, R428, R430, R431), host and peer launch packets (R445, R449).
-/
namespace Sys2Proof.Machine

/-! ## Targets (R432, R433) -/

def Slot.rtgtCluster (sl : Slot) : Option Nat := if sl.rtgt.getLsbD 9 then some (sl.rtgt.extractLsb' 0 9).toNat else none

/-- RTGT names a cluster outside the strand's partition. -/
def State.rtgtBad (s : State) (va : Nat) : Bool :=
  regionOf va = .clusterW && (match s.sl.rtgtCluster with
    | some c => Config.clusters ≤ c || !s.ownsCluster s.myPart c
    | none => false)

/-- The checks of a remote access at issue: capability, the line, natural alignment where `align` asks for it, breakpoint, RTGT. -/
def State.remoteCheck (s : State) (c : Cap) (n : Nat) (perm : BitVec 7) (align : Bool) (k : Nat → Res) : Res :=
  match capCheck c c.cursor n perm with
  | some cause => .trap s cause c.cursor
  | none =>
    let va := c.cursor
    if 64 < va % 64 + n || (align && va % n ≠ 0) then .trap s cAlign va
    else match s.dataBp va n with
      | some w => s.hitBp w
      | none => if s.rtgtBad va then .trap s cPermission va else k va

/-- The target of a precise remote access: address, location, whether it is a scratchpad, whether its page is SO. -/
def State.remoteAddr (s : State) (c : Cap) (n : Nat) (perm : BitVec 7) (align : Bool) (acc : Access)
    (k : Nat → Nat → Bool → Bool → State → Res) : Res :=
  s.remoteCheck c n perm align fun va =>
    match s.remoteTarget s.via va acc s.sl.rtgtCluster with
    | (.error e, s) => .trap s e.cause va
    | (.ok (loc, spad, so), s) => k va loc spad so s

/-- Whether an access waits for earlier operations of the slot: an SO page orders every pair of which one is of kind M, an acquire follows
releases (R228, R235); and for what the core has sent to the line, which its strands have observed (R224). -/
def State.remoteHeld (s : State) (loc : Nat) (spad so acq : Bool) : Bool :=
  s.soAhead s.me || (so && (s.repliesOut || s.sl.remoteAhead)) || (acq && s.sl.releaseAhead) ||
  (!spad && s.lineBusy s.myCoreKey (loc / 64))

/-- Whether a target is reached over the mesh alone (R421). -/
def State.onMesh (s : State) (loc : Nat) (spad : Bool) : Bool := ownerDie (targetOwner loc spad) = s.myDie

/-- The lines of the strand's own L1 go home before the home acts on them. -/
def State.ownLineHome (s : State) (loc : Nat) (spad : Bool) : State :=
  if spad then s else (s.dropLine s.myCoreKey (loc / 64)).combine (loc / 64)

def State.targetPoisoned (s : State) (loc : Nat) (spad : Bool) (n : Nat) : Bool :=
  if spad then
    (match s.remoteWord s.myPart s.myCore loc n with
     | .ok (_, a) => s.spadPoisoned a n
     | .error _ => false)
  else s.mem.poison.contains (loc / 64)

/-! ## Outcomes (R434) -/

def stPred (f : MForm) : BitVec 3 := f.imm.extractLsb' 0 3
def hasStatus (f : MForm) : Bool := f.imm.getLsbD 3

/-- A place reserved in a queue by the instruction is given up: it completes without a result. -/
def State.dropPlace (s : State) : State :=
  (upTo 4).foldl (fun (t : State) q => t.setQueue s.myCoreKey q ((t.queue s.myCoreKey q).filter fun e => e.owner ≠ some s.me)) s

/-- A final status other than DONE. -/
def State.statusOut (s : State) (status : Option (BitVec 3)) (st va : Nat) : Res :=
  if st = stScope then .trap s cScope va
  else match status with
    | some p => .done ((s.dropPlace.rstOutcome s.me st va true 0).setPred p false)
    | none => .trap s (statusCause st) va

def State.statusOk (s : State) (status : Option (BitVec 3)) : State :=
  match status with
  | some p => s.setPred p true
  | none => s

/-! ## RLD (R437) -/

/-- The bytes at the target, or the status that refuses the read. -/
def State.remoteRead (s : State) (loc : Nat) (spad : Bool) (n : Nat) : Except Nat Got × State :=
  if spad then
    match s.remoteWord s.myPart s.myCore loc n with
    | .error st => (.error st, s)
    | .ok (_, a) => (.ok ⟨s.spad.bytes a n, false, s.spadPoisoned a n⟩, s)
  else
    let s := s.combine (loc / 64)
    match look (s.coreBank s.myCoreKey).l1 (loc / 64) with
    | some l =>
      let l := l.refresh (s.seenLine s.myCoreKey (s.part s.myPart).pkeyId (loc / 64))
      (.ok ⟨lineBytes l.data (loc % 64) n, false, l.poison⟩, s)
    | none => (.ok ⟨s.homeBytes (s.part s.myPart).pkeyId loc n, false, s.mem.poison.contains (loc / 64)⟩, s)

def rldBody (f : MForm) (x : Opnds) (s : State) : Res :=
  let n := widthBytes f.ext
  let acq : Bool := moOrdF f = 1
  let scope := moScopeF f
  let status := if hasStatus f then some (stPred f) else none
  s.remoteAddr x.a n pL false .load fun va loc spad so s =>
    if s.remoteHeld loc spad so acq then .wait s
    else s.gate true (msgHead 0x300 va n) fun s =>
      let up := if spad then s.pathUp s.myDie (ownerDie (targetOwner loc spad)) else s.homeUp s.myDie loc
      let far := !s.onMesh loc spad || (!spad && hostBase ≤ loc)
      -- the reply of a context that is swapped out is not needed: the read is sent again on resumption (R409)
      s.farRead far up (fun s => s.statusOut status stNoReply va) fun s => if far && !s.isLive s.me then .wait s else
        match s.remoteRead loc spad n with
        | (.error st, s) => if st = stBusy then .wait s else s.statusOut status st va
        | (.ok g, s) =>
          if acq && !spad && !s.scopeCheck (loc / 64) s.myCore scope then s.statusOut status stScope va
          else if g.poison then .next (s.coreStop s.myCore)
          else
            let s := if acq then s.acquireAt s.myCoreKey scope else s
            .done ((s.writeD f.d (loadValue f.ext g.bytes)).statusOk status)

def execRld (f : MForm) (s : State) : Host.Outcome State Fault Refusal := runPlain (.rld f) 0x300 f (rldBody f) s

/-! ## RST (R438) -/

def rstBody (f : MForm) (x : Opnds) (s : State) : Res :=
  let code := f.ext.toNat % 16
  let fe : Bool := 5 ≤ code
  let n := if fe then 8 else 2 ^ code
  let rel : Bool := moOrdF f = 2
  s.remoteCheck x.a n (if fe then pS ||| pF else pS) fe fun va =>
    if regionOf va = .engine || regionOf va = .reserved || (fe && regionOf va = .memory) then .trap s cPermission va
    else
      match s.postStore va (leBytes n x.b.val.toNat) (.remote (if fe then code else 0) (f.ext.getLsbD 4)
          (if rel then some (moScopeF f) else none) (if regionOf va = .clusterW then s.sl.rtgtCluster else none)) with
      | .done t => .done (if rel then t.releaseAt t.myCoreKey (moScopeF f) else t)
      | r => r

def execRst (f : MForm) (s : State) : Host.Outcome State Fault Refusal := runPlain (.rst f) 0x301 f (rstBody f) s

/-! ## RAMO and RCAS (R439) -/

/-- A remote atomic: `op` is its message, `fin` takes the old value. -/
def State.remoteAtom (s : State) (opc : Nat) (f : MForm) (c : Cap) (n : Nat) (data : List Byte) (status : Option (BitVec 3))
    (op : Nat → Bool → Bool → RemOp) (fin : Word → State → State) : Res :=
  let acq : Bool := moOrdF f % 2 = 1
  let rel : Bool := 2 ≤ moOrdF f
  let scope := moScopeF f
  s.remoteAddr c n (pL ||| pS) true .amo fun va loc spad so s =>
    if s.remoteHeld loc spad so acq then .wait s
    else s.gate true (msgHead opc va n ++ data) fun s =>
      let finish (st : Nat) (w : Word) (s : State) : Res :=
        if st = stDone then .done ((fin w (if acq then s.acquireAt s.myCoreKey scope else s)).statusOk status)
        else if st = stPoison then .next (s.coreStop s.myCore)
        else s.statusOut status st va
      let before (s : State) : State := (if rel then s.releaseAt s.myCoreKey scope else s).ownLineHome loc spad
      if s.onMesh loc spad then
        if s.targetPoisoned loc spad n then .next (s.coreStop s.myCore)
        else match (before s).execRemote s.myReq (op loc spad so) with
          | (st, w, t) => if st = stBusy then .wait s else finish st w t
      else
        let s := if s.sl.sent = none then before s else s
        if s.sl.sent = none && !spad && s.lineBusy s.myCoreKey (loc / 64) then .wait s
        else s.exchange (targetOwner loc spad) (op loc spad so) va fun st w s =>
          finish st w (if spad then s else s.dropLine s.myCoreKey (loc / 64))

def execRamo (f : MForm) (s : State) : Host.Outcome State Fault Refusal :=
  runPlain (.ramo f) 0x302 f (fun x s =>
    let n := atomBytes f
    s.remoteAtom 0x302 f x.a n (leBytes 8 x.b.dv.toNat) (if hasStatus f then some (stPred f) else none)
      (fun loc spad so => .amo loc spad so n f.ext.toNat x.b.dv (moOrdF f) (moScopeF f))
      (fun w s => s.writeData f.d w)) s

/-- RCAS: pk is written from the comparison; the status predicate is pj. -/
def execRcas (f : MForm) (s : State) : Host.Outcome State Fault Refusal :=
  runPlain (.rcas f) 0x303 f (fun x s =>
    let n := atomBytes f
    s.remoteAtom 0x303 f x.a n (leBytes 8 x.d.dv.toNat ++ leBytes 8 x.b.dv.toNat)
      (if hasStatus f then some (f.imm.extractLsb' 4 3) else none)
      (fun loc spad so => .cas loc spad so n x.d.dv x.b.dv (moOrdF f) (moScopeF f))
      (fun w s => (s.writeData f.d w).setPred (stPred f) (w.toNat = x.d.dv.toNat % 2 ^ (8 * n)))) s

/-! ## RACK and RSTAT (R440) -/

/-- RACK: every entry has its final status (note 6 of R228); the acknowledgements go out and are confirmed. -/
def execRack (f : MForm) (s : State) : Host.Outcome State Fault Refusal :=
  runPlain (.rack f) 0x304 f (fun _ s =>
    if (s.requester s.myReq).owners = [] then .done s
    else if s.sl.acked then .wait s
    else .wait ((s.sendAcks s.myReq).modSl fun sl => { sl with acked := true })) s

/-- RSTAT: RSTS to d, UNK and NOTDONE cleared in one step. -/
def execRstat (f : MForm) (s : State) : Host.Outcome State Fault Refusal :=
  runPlain (.rstat f) 0x305 f (fun _ s =>
    .done ((s.modSl fun sl => { sl with rsts := sl.rsts &&& ~~~(3 : Word) }).writeData f.d s.sl.rsts)) s

/-! ## LAUNCH (R450, R451) -/

/-- The packet under the serial of its stamp. -/
def withSerial (r : Record) (serial : BitVec 32) : Record :=
  { r with g2 := { r.g2 with val := r.g2.val.extractLsb' 96 32 ++ serial ++ r.g2.val.extractLsb' 0 64 } }

def launchBody (f : MForm) (x : Opnds) (s : State) : Res :=
  let w := x.a.dv
  let device := (w.extractLsb' 0 16).toNat
  let part := (w.extractLsb' 16 6).toNat
  let status := if hasStatus f then some (stPred f) else none
  if 2 ^ 22 ≤ w.toNat then .trap s cPermission w.toNat
  else
    let r := s.group f.b
    s.gate true (msgHead 0x307 w.toNat 64 ++ recordBytes r ++ leBytes 1 (recTags r)) fun s =>
      let packet := withSerial r (s.requester s.myReq).next
      let finish (st : Nat) (v : Word) (s : State) : Res :=
        if st = stDone then .done ((s.writeData f.d v).statusOk status) else s.statusOut status st w.toNat
      if device = s.fabId.toNat && s.myDie = 0 then
        let (v, s) := (s.takeSerial s.myReq).acceptPacket 0 part packet none s.myPart
        finish stDone v s
      else
        s.exchange (if device = s.fabId.toNat then 0 else 1024 + device)
          (.launch part (if device = s.fabId.toNat then none else some s.fabId.toNat) packet) w.toNat finish

def execLaunch (f : MForm) (s : State) : Host.Outcome State Fault Refusal := runPlain (.launch f) 0x307 f (launchBody f) s

/-! ## Owners (R428, R430) -/

def lifetime : Nat := 2 ^ 20

/-- Where an owner of a die stands among the die's owners: its slices, then the atomic units of its two stacks. -/
def ownerKey (o : Nat) : Nat := if o < 512 then o % 64 else 64 + o % 2

def State.owner (s : State) (o : Nat) : Owner :=
  if 512 ≤ o && o < 768 then (s.port (o - 512)).owner else (look (s.die (ownerDie o)).owners (ownerKey o)).getD {}
def State.setOwner (s : State) (o : Nat) (v : Owner) : State :=
  if 512 ≤ o && o < 768 then s.modPort (o - 512) fun p => { p with owner := v }
  else s.modDie (ownerDie o) fun d => { d with owners := put d.owners (ownerKey o) v }

/-- The requester's mark rises to an ACKMARK that it precedes. -/
def Mark.raise (m : Mark) (ack : BitVec 32) : Mark := if precedes m.mark ack then { m with mark := ack } else m

/-- An ACKMARK of a known requester: its mark rises, and the entries that it covers are retired. -/
def Owner.ack (o : Owner) (req : Nat) (ack : BitVec 32) : Owner :=
  let marks := o.marks.map fun m => if m.req = req then m.raise ack else m
  let mark := ((marks.find? fun m => m.req = req).map Mark.mark).getD ack
  { o with marks := marks, cache := o.cache.filter fun e => !(e.req = req && (e.serial = mark || precedes e.serial mark)) }

/-- owner_receive of R428 for a copy that is not too old: the status, the result, and the state. `run` executes the operation. -/
def State.receive (s : State) (o req : Nat) (st : Stamp) (run : State → Nat × Word × State) : Nat × Word × State :=
  let w := s.owner o
  if st.incar ≠ w.incar then (stRestarted, 0, s)
  else
    let known := w.marks.any fun m => m.req = req
    let w := w.ack req st.ackmark
    let w := if known
      then { w with marks := w.marks.map fun m => if m.req = req then { m with lastAt := s.now } else m }
      else if w.marks.length < 1024 then { w with marks := w.marks ++ [⟨req, st.ackmark, s.now⟩] } else w
    let s := s.setOwner o w
    let mark := ((w.marks.find? fun m => m.req = req).map Mark.mark).getD st.ackmark
    match w.cache.find? fun e => e.req = req && e.serial = st.serial with
    | some e => (e.status, e.result, s)
    | none =>
      if known && (st.serial = mark || precedes st.serial mark) then (stStale, 0, s)
      else if 4096 ≤ w.cache.length || !(w.marks.any fun m => m.req = req) then (stBusy, 0, s)
      else
        match run s with
        | (status, result, s) =>
          -- FULL, and BUSY of a target whose context is swapped out (R407), leave no entry
          if isFinal status then
            (status, result, s.setOwner o { s.owner o with cache := (s.owner o).cache ++ [⟨req, st.serial, status, result⟩] })
          else (status, result, s)

/-- A peer's requester as the interface of a port tells it from others (R423). -/
def peerKey (dev req : Nat) : Nat := (dev + 1) * 2 ^ 24 + req % 2 ^ 24

/-- A peer's stamped operation at the interface of a port: it is forwarded, to a unit of the die at once, to another die under a stamp of the
interface; until the reply to that one has come a copy finds the owner BUSY (R421, R428; log 56). -/
def State.forwardPeer (s : State) (port dev req : Nat) (st : Stamp) (cls : Nat) (op : State → Option (Nat × RemOp)) : Nat × Word × State :=
  if (s.port port).fwd.any fun f => f.device = dev && f.req = req && f.stamp.serial = st.serial then (stBusy, 0, s)
  else
    s.receive (512 + port) (peerKey dev req) st fun s =>
      match op s with
      | none => (stFault, 0, s)
      | some (o, q) =>
        let id := portReq port (reqPart req)
        if ownerDie o = portDie port then s.execRemote id q
        else
          let s := { s with order := s.order + 1 }.enqueue id { owner := o, op := q, va := 0, job := some s.order, cls := cls }
          (stBusy, 0, s.modPort port fun x => { x with fwd := x.fwd ++ [⟨s.order - 1, dev, req, st⟩] })

/-- The reply to an operation that a port has forwarded: its status is entered and goes to the peer. -/
def State.forwarded (s : State) (port num cls st : Nat) (w : Word) : State :=
  match (s.port port).fwd.find? fun f => f.num = num with
  | none => s
  | some f =>
    let s := s.modPort port fun x =>
      { x with
        fwd := x.fwd.filter fun g => g.num ≠ num
        owner := { x.owner with cache := x.owner.cache ++ [⟨peerKey f.device f.req, f.stamp.serial, st, w⟩] } }
    s.peerReply port f.device f.req f.stamp cls st w []

/-- OWNER_RECEIVE: arg.a is the place of the message. -/
def execOwnerReceive (s : State) : Host.Outcome State Fault Refusal :=
  .next <| match s.net[s.arg.a]? with
  | some (.request o req st op sent _) =>
    if 1024 ≤ o then s
    else
      let s := { s with net := s.net.eraseIdx s.arg.a }
      if lifetime < (s.now - sent).toNat then s
      else
        match s.receive o req st fun s => s.execRemote req op with
        | (status, result, s) => { s with net := s.net ++ [.reply req o st.serial status result (s.owner o).incar st.ackmark] }
  | some (.ack o req mark) =>
    if 1024 ≤ o then s
    else
      let s := { s with net := s.net.eraseIdx s.arg.a }
      let s := s.setOwner o ((s.owner o).ack req mark)
      { s with net := s.net ++ [.ackDone o req mark] }
  | _ => s

/-! ## Replies (R427, R434) -/

/-- The slot key of a strand's requester: the bank that holds its partition. -/
def State.reqKey (s : State) (id : Nat) : Nat :=
  let n := id % 2 ^ 17
  if s.partOf (bankKey n 0) % 64 = reqPart id then bankKey n 0 else bankKey n 1

/-- A write-back or partial of a core that ended unknown: the first later release takes RESULT_UNKNOWN for it, and it enters the felling record; no
rule states the CODE and the ARG of the entry (R422, log 4). -/
def State.loseHome (s : State) (k id va : Nat) : State :=
  let (w, s) := s.draw
  (s.modCoreBank (bankKey (k / 8) (k % 2)) fun b => { b with lostHome := b.lostHome ++ [va] }).fell (reqDie id) (w.toNat % 2 ^ 16) none (reqSource id)

/-- The final status of a table entry. A waiting instruction takes it when it runs again; a posted store reports it to the slot. -/
def State.finalReply (s : State) (id : Nat) (e : TabEnt) (st : Nat) (w : Word) : State :=
  let s := (s.setRequester id ((s.requester id).finish e.serial)).pendingDestroys
  let lost : Bool := st = stRestarted || st = stNoReply
  if reqIsPort id then s.forwarded (id % 4096 - 1024) (e.job.getD 0) e.cls st w
  else if id / 2 ^ 17 % 2 = 1 then
    match e.job with
    | some j => if lost then (let r := s.requester id; s.setRequester id { r with failed := r.failed ++ [j] }) else s
    | none => s
  else
    let k := s.reqKey id
    if e.home then (if lost then s.loseHome k id e.va else s)
    else if e.waiting then
      (if (s.slotAt k).sent = some e.serial then s.modSlotAt k fun sl => { sl with reply := some (st, w) } else s)
    else
      -- a reply goes to both cores of a pair (R390)
      let s := s.rstOutcome k st e.va e.quiet e.serial
      match s.twinSlot k with
      | some u => s.rstOutcome u st e.va e.quiet e.serial
      | none => s

/-- Whether the context of a strand's requester has been moved to its save area (R410). -/
def State.savedAway (s : State) (id : Nat) : Bool :=
  id / 2 ^ 17 % 2 = 0 && (s.bankOf (clusterOf (reqCore id)) (reqPart id)).isNone &&
    s.saved.any fun v => v.part = reqPart id && v.cluster = clusterOf (reqCore id)

/-- A reply at its requester's interface: a final one ends the entry, BUSY and FULL keep it, anything else is discarded. A context in its save area
takes none: the owner's cache keeps it (R409). -/
def State.takeReply (s : State) (id o : Nat) (serial : BitVec 32) (st : Nat) (w : Word) (incar : BitVec 16) : State :=
  let s := s.modDie (reqDie id) fun d => { d with learnt := put d.learnt o incar }
  match (s.requester id).table.find? fun e => e.serial = serial with
  | none => s
  | some e =>
    if s.savedAway id then s
    else if isFinal st then s.finalReply id e st w
    else if st = stStale then s
    else
      let r := s.requester id
      s.setRequester id { r with table := r.table.map fun x => if x.serial = serial then { x with busyAt := some s.now, sends := 0 } else x }

/-- An owner confirms an acknowledgement that covers every serial sent to it: it leaves the list. -/
def Requester.confirm (r : Requester) (o : Nat) (mark : BitVec 32) : Requester :=
  { r with owners := r.owners.filter fun x => !(x.owner = o && (x.last = mark || precedes x.last mark)) }

/-- REPLY_RECEIVE: arg.a is the place of the message; the reply of a peer's interface comes as a payload through the port of the device arg.b: its
stamp, with REQID in granule 0, the status in granule 1 and the result in granule 2; arg.c = 1 for the confirmation of an acknowledgement (log 7). -/
def execReplyReceive (s : State) : Host.Outcome State Fault Refusal :=
  .next <| match s.arg.pay with
  | .packet st r =>
    let req := Record.bits r.g0 0 24
    let port := Config.portOf s.arg.b
    if !(s.port port).up then s
    else if s.arg.c = 1 then
      let s := s.deliver port .ack 0 (stampBytes req st)
      s.setRequester req ((s.requester req).confirm (1024 + s.arg.b) st.ackmark)
    else
      let s := s.deliver port .reply 0 (stampBytes req st ++ leBytes 8 (Record.bits r.g1 0 8) ++ leBytes 8 (Record.bits r.g2 0 64))
      s.takeReply req (1024 + s.arg.b) st.serial (Record.bits r.g1 0 8) (r.g2.val.setWidth 64) st.incar
  | _ =>
    match s.net[s.arg.a]? with
    | some (.reply req o serial st w incar _) => { s with net := s.net.eraseIdx s.arg.a }.takeReply req o serial st w incar
    | some (.ackDone o req mark) =>
      let s := { s with net := s.net.eraseIdx s.arg.a }
      s.setRequester req ((s.requester req).confirm o mark)
    | _ => s

/-! ## Retransmission and acknowledgement (R422, R427) -/

/-- Retransmissions of a strand's requester are counted in its cluster (event 0x303). -/
def State.countRetry (s : State) (id : Nat) : State :=
  if id / 2 ^ 17 % 2 = 1 then s
  else s.modCluster (clusterOf (reqCore id)) fun c => { c with counters := c.counters.set 2 (c.counters[2] + 1) }

/-- An entry is sent again under its stamp. -/
def State.resend (s : State) (id : Nat) (e : TabEnt) : State :=
  let r := s.requester id
  let s := s.setRequester id { r with
    lastSent := s.now
    table := r.table.map fun x => if x.serial = e.serial then { x with sends := x.sends + 1, lastSent := s.now, busyAt := none } else x }
  let s := s.countRetry id
  s.transmit id e.toNetOp ⟨e.serial, e.incar, r.done⟩

/-- The table entry that an event names: arg.a the requester, arg.b the serial. -/
def State.namedEntry (s : State) : Option TabEnt := (s.requester s.arg.a).table.find? fun e => e.serial.toNat = s.arg.b

/-- REQUEST_RETRANSMIT. -/
def execRequestRetransmit (s : State) : Host.Outcome State Fault Refusal :=
  .next <| match s.namedEntry with
  | none => s
  | some e =>
    if e.busyAt.isSome || (s.now - e.lastSent).toNat < 2048 || s.savedAway s.arg.a then s
    else if 16 ≤ e.sends then s.finalReply s.arg.a e stNoReply 0
    else s.resend s.arg.a e

/-- An RST that waits in the mesh of its die is tried again (R421, R427). -/
def State.meshRetry (s : State) (id i : Nat) : State :=
  let r := s.requester id
  match r.mesh[i]? with
  | none => s
  | some m =>
    if (s.now - m.busyAt).toNat < 256 || s.savedAway id then s
    else
      match s.execRemote id m.op with
      | (st, _, t) =>
        if isFinal st then
          let q := t.requester id
          let t := t.setRequester id { q with mesh := q.mesh.eraseIdx i }
          if m.dropped then t else t.rstOutcome (s.reqKey id) st m.va m.quiet 0
        else s.setRequester id { r with mesh := r.mesh.set i { m with busyAt := s.now } }

/-- BUSY_RETRY: the entry that arg.a and arg.b name; from arg.b = 2^32 on, a place of what waits in the mesh of the die. -/
def execBusyRetry (s : State) : Host.Outcome State Fault Refusal :=
  .next <| match s.namedEntry with
  | none => if 2 ^ 32 ≤ s.arg.b then s.meshRetry s.arg.a (s.arg.b - 2 ^ 32) else s
  | some e => match e.busyAt with
    | some t => if (s.now - t).toNat < 256 || s.savedAway s.arg.a then s else s.resend s.arg.a e
    | none => s

/-- ACK_SEND: arg.a is the requester. A full owner list is acknowledged at once (R425). -/
def execAckSend (s : State) : Host.Outcome State Fault Refusal :=
  let r := s.requester s.arg.a
  .next (if !s.savedAway s.arg.a && r.owners ≠ [] && (256 ≤ (s.now - r.lastSent).toNat || 16 ≤ r.owners.length) then s.sendAcks s.arg.a else s)

/-- READ_RETRANSMIT: arg.a is the slot whose read has no answer. -/
def execReadRetransmit (s : State) : Host.Outcome State Fault Refusal :=
  let k := s.slotKey s.arg.a
  .next <| match (s.slotAt k).xread with
  | some (n, t) =>
    if (s.now - t).toNat < 2048 || 16 ≤ n then s
    else (s.modSlotAt k fun sl => { sl with xread := some (n + 1, s.now) }).countRetry (s.arg.a % 2 ^ 17)
  | none => s

/-- MARK_FORGET: arg.a is the owner, arg.b the requester; no copy of a request of it is on its way (R443, log 54). -/
def execMarkForget (s : State) : Host.Outcome State Fault Refusal :=
  let o := s.owner s.arg.a
  let copies : Bool := s.net.any fun m => match m with
    | .request w req _ _ _ _ => w = s.arg.a && req = s.arg.b
    | _ => false
  .next <| if copies || (o.cache.any fun e => e.req = s.arg.b) then s
    else s.setOwner s.arg.a { o with marks := o.marks.filter fun m => !(m.req = s.arg.b && 2 * lifetime ≤ (s.now - m.lastAt).toNat) }

/-! ## Launch packets of the host and of peers (R445, R449) -/

/-- The requester of the host's launch window (R445). -/
def hostReq (p : Nat) : Nat := reqId true 0x1FFFF p

/-- LAUNCH_PACKET_WRITE: arg.a is the partition, arg.b the UCIe module that carries the write, which is the packet's one transmission. -/
def execLaunchPacketWrite (s : State) : Host.Outcome State Fault Refusal :=
  let p := s.arg.a % 64
  let o := if s.arg.b % 4 < 2 then 0 else 256
  .next <| match s.arg.pay with
  | .packet st r =>
    if s.lanes (s.arg.b % 4) = 0 || s.bootFailed 0 then s
    else
      let q := s.part p
      let packet : Record := { r with g0 := { r.g0 with tag := q.ktag }, g1 := { r.g1 with tag := q.atag },
                                      g2 := { r.g2 with tag := false }, g3 := { r.g3 with tag := false } }
      let serial := pktSerial packet
      match s.receive o (hostReq p) { st with serial := serial, ackmark := q.hostAck } fun s =>
          (match s.acceptPacket 0 p packet none p with
           | (w, s) => (stDone, w, s)) with
      | (status, w, s) =>
        if status = stDone then s.modPart p fun q => { q with results := put q.results (serial.toNat % 256) (w ||| ((1 : Word) <<< 63)) }
        else s
  | _ => s

/-- LAUNCH_TAG_WRITE: arg.a is the partition. -/
def execLaunchTagWrite (s : State) : Host.Outcome State Fault Refusal :=
  .next <| match s.arg.pay with
  | .word v => if s.attachUp then s.modPart (s.arg.a % 64) fun q => { q with ktag := v.getLsbD 0, atag := v.getLsbD 1 } else s
  | _ => s

/-- HOST_ACKMARK_WRITE: arg.a is the partition; the owners that serve the host apply it. -/
def execHostAckmarkWrite (s : State) : Host.Outcome State Fault Refusal :=
  let p := s.arg.a % 64
  .next <| match s.arg.pay with
  | .word v =>
    if !s.attachUp then s else
    let m : BitVec 32 := v.setWidth 32
    let s := s.modPart p fun q => { q with hostAck := m }
    [0, 256].foldl (fun (t : State) o => t.setOwner o ((t.owner o).ack (hostReq p) m)) s
  | _ => s

/-- PEER_LAUNCH_RECEIVE: arg.a is the port, arg.b the peer's device number, arg.c PART + 64 x REQID of the peer's requester. -/
def execPeerLaunchReceive (s : State) : Host.Outcome State Fault Refusal :=
  let port := s.arg.a % 18
  let p := s.arg.c % 64
  .next <| match s.arg.pay with
  | .packet st r =>
    if !(s.port port).up || s.bootFailed 0 then s
    else
      let req := s.arg.c / 64
      let s := s.deliver port .launch (4 * recTags r) (stampBytes req st ++ leBytes 16 p ++ recordBytes r)
      match s.forwardPeer port s.arg.b req st 0 fun _ => some (0, .launch p (some s.arg.b) r) with
      | (status, w, s) => s.peerReply port s.arg.b req st 0 status w []
  | _ => s

end Sys2Proof.Machine
end

