-- ==== Sys2Proof/Machine/Fabric.lean ====
section
/-!
DEFINITION. What the host, the fabric and the links do: CXL.mem accesses and CXL.cache requests (R206, R242, R446), flits and their digest
(R447, R477), links that are lost or train (R444, R420), the reset of a peer (R431).
-/
namespace Sys2Proof.Machine

/-! ## CXL.mem (R446) -/

def hdmEn (w : Word) : Bool := w.getLsbD 0
def hdmPages (w : Word) : Nat := (w.extractLsb' 1 17).toNat
def hdmFrame (w : Word) : Nat := (w.extractLsb' 18 34).toNat

/-- The physical address of a line of the window of partition `p`: none where the access completes with poison (R446, R487). -/
def State.hostLine (s : State) (p off : Nat) : Option Nat :=
  let w := (s.part p).hdmWin
  let pa := hdmFrame w * 2 ^ 18 + off / 64 * 64
  if hdmEn w && off < hdmPages w * 2 ^ 18 && backed pa && s.keyHeld (s.part p).pkeyId && s.attachUp then some pa else none

/-- What a host read of a line returns, after the home has combined its partials. -/
def State.hostRead (s : State) (p off : Nat) : Option (List Byte) :=
  (s.hostLine p off).map fun pa => (s.combine (pa / 64)).homeBytes (s.part p).pkeyId pa 64

/-- HOST_MEM_ACCESS: arg.a is the partition, arg.b the offset; a line to write, or none for a read, after which the host may hold the line (R444). -/
def execHostMemAccess (s : State) : Host.Outcome State Fault Refusal :=
  let p := s.arg.a % 64
  .next <| match s.hostLine p s.arg.b with
  | none => s
  | some pa =>
    let t := s.combine (pa / 64)
    match s.arg.pay with
    | .line (some w) => (t.removeSo (pa / 64)).homeWrite (s.part p).pkeyId pa (lineBytes w 0 64) false
    | _ => { t with hostHeld := addTo t.hostHeld (pa / 64) }

/-! ## CXL.cache (R206) -/

/-- CXL_CACHE_SNOOP: arg.a is the host line, as an offset of host memory in lines. The L2 gives the line up, combined; where the host then
writes its memory, the line holds what it wrote (log 14). -/
def execCxlCacheSnoop (s : State) : Host.Outcome State Fault Refusal :=
  let line := hostBase / 64 + s.arg.a % 2 ^ 45
  let t := s.combine line
  .next <| if !s.attachUp then s else match s.arg.pay with
  | .line (some w) => (t.removeSo line).homeWrite 0 (64 * line) (lineBytes w 0 64) false
  | _ => t

/-! ## Operations of a peer device (R421, R447, R477) -/

/-- Whether a peer's operation names bytes of one line of HBM, and the partition of its requester has a key. -/
def State.peerTarget (s : State) (m : PeerMsg) (pa n : Nat) : Bool :=
  pa < 2 ^ 40 && backed pa && 0 < n && pa % 64 + n ≤ 64 && s.keyHeld (s.part (reqPart m.req)).pkeyId

/-- A peer's operation as the interface forwards it: the owner and the operation; none for a read, an acknowledgement or a bad target. -/
def State.peerForward (s : State) (m : PeerMsg) : Option (Nat × RemOp) :=
  let key := (s.part (reqPart m.req)).pkeyId
  match m.op with
  | .write pa data rel =>
    if s.peerTarget m pa data.length then some (sliceOwner pa, .line (pa / 64) key false [(pa % 64, data, false)] false rel) else none
  | .amo pa n op v ord sc =>
    if s.peerTarget m pa n && (n = 4 || n = 8) && pa % n = 0 then some (stackOwner pa, .amo pa false false n op v ord sc) else none
  | .cas pa n e v ord sc =>
    if s.peerTarget m pa n && (n = 4 || n = 8) && pa % n = 0 then some (stackOwner pa, .cas pa false false n e v ord sc) else none
  | .famo pa op v ord sc => if s.peerTarget m pa 4 && pa % 4 = 0 then some (stackOwner pa, .famo pa false op v ord sc) else none
  | .read _ _ _ | .ack => none

/-- A read of a peer: the home combines the line and checks an acquire; a link that is down answers nothing (R422). -/
def State.peerRead (s : State) (port : Nat) (m : PeerMsg) (pa n : Nat) (acq : Option Nat) : State :=
  let reply (s : State) (st : Nat) (bs : List Byte) : State := s.peerReply port m.device m.req m.stamp m.cls st 0 bs
  if !s.peerTarget m pa n then reply s stFault []
  else if !s.homeUp (portDie port) pa then s
  else
    let s := s.combine (pa / 64)
    match acq with
    | some sc => if s.peerScope (pa / 64) sc then reply s stDone (s.homeBytes (s.part (reqPart m.req)).pkeyId pa n) else reply s stScope []
    | none => reply s stDone (s.homeBytes (s.part (reqPart m.req)).pkeyId pa n)

/-- A peer's operation at the interface that received it, its owner: a read carries no stamp; every other operation is executed at most once, by
forwarding (R421, R428). -/
def State.peerRun (s : State) (port : Nat) (m : PeerMsg) : State :=
  let o := 512 + port
  match m.op with
  | .ack =>
    (s.setOwner o ((s.owner o).ack (peerKey m.device m.req) m.stamp.ackmark)).portOut port m.cls m.device .ack 0 (stampBytes m.req m.stamp)
  | .read pa n acq => s.peerRead port m pa n acq
  | _ =>
    match s.forwardPeer port m.device m.req m.stamp m.cls (fun t => t.peerForward m) with
    | (status, w, s) => s.peerReply port m.device m.req m.stamp m.cls status w []

/-- FLIT_RECEIVE: arg.a is the port. A flit with a bad CRC is dropped; a message that is delivered enters the digest; the header's sequence number is
kept, and its credit returns. An operation of a peer is carried out; what else the message asks of the device is an event of its own (log 7). -/
def State.flitIn (s : State) (p : Nat) (f : BitVec 2048) (run : State → State) : State :=
  if (s.port p).up && flitOk f then
    run (s.modPort p fun x =>
      { x.deliver (((flitBytes f).drop 8).take 240) with rxSeq := linkSeq f, credits := x.credits + linkCredit f })
  else s

def execFlitReceive (s : State) : Host.Outcome State Fault Refusal :=
  let p := s.arg.a % 18
  .next <| match s.arg.pay with
  | .flit f => s.flitIn p f id
  | .peer f m => s.flitIn p f fun t => t.peerRun p m
  | _ => s

/-! ## Links -/

def State.setLink (s : State) (l : Link) (lanes : Nat) : State :=
  match l with
  | .module n => { s with modules := put s.modules (n % 4) lanes }
  | .port n => s.modPort (n % 18) fun p => { p with up := decide (lanes ≠ 0) }
  | .die a b => if neighbours (a % 8) (b % 8) then { s with dieLinks := put s.dieLinks (linkKey (a % 8) (b % 8)) (decide (lanes ≠ 0)) } else s

/-- LINK_LOST: a command that needs the link fails with LINK_DOWN when it accesses it next (R292, R299). -/
def execLinkLost (s : State) : Host.Outcome State Fault Refusal :=
  .next <| match s.arg.pay with
  | .link l _ => s.setLink l 0
  | _ => s

/-- The lanes a module may train at (R444). -/
def trains (l : Link) (lanes : Nat) : Bool := match l with
  | .module _ => lanes = 64 || lanes = 32
  | _ => lanes ≠ 0

/-- LINK_TRAIN. -/
def execLinkTrain (s : State) : Host.Outcome State Fault Refusal :=
  .next <| match s.arg.pay with
  | .link l lanes => if trains l lanes then s.setLink l lanes else s
  | _ => s

/-- An owner that has lost its cache or its marks (R431); the restart enters the felling record (R480). -/
def State.restartOwner (s : State) (o : Nat) : State :=
  -- a port's interface forgets what it has forwarded
  let s := if 512 ≤ o && o < 768 then s.modPort (o - 512) fun x => { x with fwd := [] } else s
  (s.setOwner o ⟨(s.owner o).incar + 1, [], []⟩).fell (ownerDie o) 0x05 none (unitSource (ownerDie o) 0)

/-- PEER_RESET: arg.a is the port. -/
def execPeerReset (s : State) : Host.Outcome State Fault Refusal := .next (s.restartOwner (512 + s.arg.a % 18))

end Sys2Proof.Machine
end

