-- ==== Sys2Proof/Machine/Launch.lean ====
section
/-!
DEFINITION. The launch unit: the checks of a packet and a kernel header (R157 to R160, R389), the launch queue (R161), the wake of a core
(R41, R162), completion (R163, R191).
-/
namespace Sys2Proof.Machine

/-! ## Leaving the queue -/

/-- An entry returns to EMPTY: its generation rises (R294). -/
def State.emptyEntry (s : State) (l : Nat × Nat) : State := s.modEntry l fun e => { gen := e.gen + 1 }

/-- The position of an entry advances; one without a position has none (R160). -/
def State.finishEntry (s : State) (l : Nat × Nat) (err : Bool) : State :=
  match (s.entry l).pos with
  | some p => s.finishPos l.1 (pktTlidx (s.entry l).packet) p err
  | none => s

/-- A refused launch: error record, advance with bit 63, EMPTY (R160, R161). -/
def State.refuseLaunch (s : State) (l : Nat × Nat) (e : Nat × Nat) : State :=
  ((s.errRecord l.1 (pktTlidx (s.entry l).packet) 6 0 e.1 e.2).finishEntry l true).emptyEntry l

/-! ## The kernel header (R157 to R159) -/

/-- Bits [i + n − 1 : i] of some bytes. -/
def bitsAt (bs : List Byte) (i n : Nat) : Nat := leNat bs / 2 ^ i % 2 ^ n

def stageAt (h : List Byte) (i : Nat) : Stage := ⟨bitsAt h (256 + 64 * i) 32, bitsAt h (288 + 64 * i) 12, bitsAt h (304 + 64 * i) 8⟩

def pointAt (t : List Byte) (i : Nat) : SafePoint :=
  let p := t.drop (16 * i)
  ⟨leNat (p.take 4), leNat ((p.drop 4).take 4), leNat ((p.drop 8).take 4), BitVec.ofNat 32 (leNat ((p.drop 12).take 4))⟩

/-- The header as its 256 bytes give it, without its safe points. -/
def headerOf (kcap : Cap) (h : List Byte) : Header :=
  { kcap := kcap, base := kcap.cursor, regs := 8 * (bitsAt h 48 8 + 1), twin := bitsAt h 56 1 = 1, scratch := bitsAt h 64 32,
    entry := bitsAt h 96 32, handler := bitsAt h 128 32, stages := (upTo (bitsAt h 208 8)).map (stageAt h), points := [] }

/-- A code offset is a multiple of 4 and lies within the kernel capability. -/
def offsetOk (kcap : Cap) (o : Nat) : Bool := o % 4 = 0 && kcap.base ≤ kcap.cursor + o && kcap.cursor + o < kcap.top

/-- The checks of the header's fields; the table's place is among them. -/
def fieldsOk (kcap : Cap) (h : List Byte) : Bool :=
  let hd := headerOf kcap h
  let sptab := bitsAt h 160 32
  let spcount := bitsAt h 192 16
  bitsAt h 0 32 = 0x4C504B44 && bitsAt h 32 16 = 1 && bitsAt h 48 8 ≤ 3 && hd.scratch ≤ 98304 && hd.scratch % 64 = 0 &&
  bitsAt h 208 8 ≤ 16 &&
  hd.stages.all (fun st => st.bound ≠ 0 && (st.out = 0xFF || st.out < hd.stages.length)) &&
  (hd.stages.map Stage.bound).sum ≤ 1024 && sptab % 16 = 0 && spcount ≤ 4096 &&
  offsetOk kcap hd.entry && offsetOk kcap hd.handler && hd.stages.all (fun st => offsetOk kcap st.sentry) &&
  (spcount = 0 || (kcap.base ≤ kcap.cursor + sptab && kcap.cursor + sptab + 16 * spcount ≤ kcap.top))

def pointOk (kcap : Cap) (p : SafePoint) : Bool := offsetOk kcap p.sppc && offsetOk kcap p.save && offsetOk kcap p.restore

/-- The launch unit of die 0 as an agent (R160; which die reads the header is DEDUCED, log 13). -/
def launchEng (p first : Nat) : Eng :=
  { via := ⟨none, 0, bankKey first 0, p, false⟩, req := reqId true 1 p, writer := Config.cores }

/-- The quad row of a core within its cluster (R389). -/
def quadRow (core : Nat) : Nat := core % 48 / 4 / 6

/-- The pairs of a twinned launch (R389). -/
def pairOk (a b : Nat) : Bool := clusterOf a = clusterOf b && quadOf a ≠ quadOf b && quadRow a ≠ quadRow b

/-- The checks of the core range (R160, R389). -/
def State.rangeOk (s : State) (p : Nat) (packet : Record) (twin : Bool) : Bool :=
  let first := pktFirst packet
  let count := pktCount packet
  let n := if twin then 2 * count else count
  count ≠ 0 && first + n ≤ Config.cores &&
  ((upTo (clusterOf (first + n - 1) + 1)).all fun c => c < clusterOf first || s.ownsCluster p c) &&
  (!twin || (upTo count).all fun i => pairOk (first + i) (first + count + i))

/-- The header with its safe points, or the code and the address with which the launch is refused: the packet's capability and TLIDX, the
cursor, the header and its fields, the table and its entries, the core range. -/
def State.readHeader (s : State) (p : Nat) (packet : Record) : Except (Nat × Nat) Header × State :=
  let kcap := packet.g0
  let va := kcap.cursor
  let e := launchEng p (pktFirst packet)
  if !kcap.tag || kcap.perm &&& (pX ||| pL) ≠ (pX ||| pL) then (.error (eCapFault, va), s)
  else if va % 64 ≠ 0 || 1024 ≤ pktTlidx packet then (.error (eMalformed, 0), s)
  else if va < kcap.base || kcap.top < va + 256 then (.error (eCapFault, va), s)
  else
    match s.engReadRange e va 256 with
    | (.error x, s) => (.error x, s)
    | (.ok h, s) =>
      if !fieldsOk kcap h then (.error (eMalformed, 0), s)
      else
        match s.engReadRange e (va + bitsAt h 160 32) (16 * bitsAt h 192 16) with
        | (.error x, s) => (.error x, s)
        | (.ok t, s) =>
          let hd := { headerOf kcap h with points := (upTo (bitsAt h 192 16)).map (pointAt t) }
          if !hd.points.all (pointOk kcap) || !s.rangeOk p packet hd.twin then (.error (eMalformed, 0), s)
          else (.ok hd, s)

/-- LAUNCH_HEADER_CHECK: arg.a is the partition, arg.b the entry. -/
def execLaunchHeaderCheck (s : State) : Host.Outcome State Fault Refusal :=
  let l := (s.arg.a, s.arg.b)
  .next <|
    if (s.entry l).st ≠ .queued then s
    else match s.readHeader l.1 (s.entry l).packet with
      | (.error x, s) => s.refuseLaunch l x
      | (.ok hd, s) => s.modEntry l fun e => { e with st := .waiting, hdr := some hd }

/-! ## The queue (R161) -/

/-- The cores and the clusters of a launch. -/
def State.coresOf (s : State) (l : Nat × Nat) : List Nat :=
  let r := s.launchCores l
  (upTo r.2).map fun i => r.1 + i
def State.clustersOf (s : State) (l : Nat × Nat) : List Nat := (upTo Config.clusters).filter fun c => s.clusterInRange l c

def Header.bounds (h : Header) : Nat := (h.stages.map Stage.bound).sum

/-- The scratchpad that a launch configures: 96 KiB for twins, else the smallest step of 16 KiB that holds 32 KiB and SCRATCH
(R162, R389). -/
def Header.spadSize (h : Header) : Nat := if h.twin then 98304 else (max 32768 h.scratch + 16383) / 16384 * 16384

/-- Whether a cluster holds two contexts (R405). -/
def Cluster.shared (c : Cluster) : Bool := c.ctx0.isSome && c.ctx1.isSome

/-- Whether a core is free for a launch: in the partition's bank it belongs to no launch, it is in service, and the SRAM that its context has
holds the scratchpad (R161, R388, R405; log 13). -/
def State.coreFree (s : State) (l : Nat × Nat) (core : Nat) : Bool :=
  let c := clusterOf core
  match s.bankOf c l.1 with
  | none => false
  | some b => (s.coreBank (bankKey core b)).launch = none && !(s.core core).stopped &&
      (!(s.cluster c).shared || (s.header l).spadSize ≤ 49152)

/-- Whether the record store of a cluster can reserve `n` more entries (R169). -/
def State.canReserve (s : State) (c n : Nat) : Bool := s.storeUsed c + n ≤ 1024

/-- The oldest entry of a partition that has not left the queue. -/
def Partition.oldest (q : Partition) : Option Nat :=
  let l := (upTo 16).filter fun i => (q.entry i).st = .queued || (q.entry i).st = .waiting
  l.find? fun i => l.all fun j => (q.entry i).order ≤ (q.entry j).order

/-- The cores are bound to the launch, the record store is reserved; WAKING. -/
def State.bindLaunch (s : State) (l : Nat × Nat) : State :=
  let cores := s.coresOf l
  let n := (s.header l).bounds
  let s := cores.foldl (fun (t : State) core =>
    t.modCoreBank (bankKey core ((t.bankOf (clusterOf core) l.1).getD 0)) fun b => { b with launch := some l }) s
  let s := (s.clustersOf l).foldl (fun (t : State) c => t.modCluster c fun x => { x with reserved := x.reserved ++ [(l, n)] }) s
  s.modEntry l fun e => { e with st := .waking, toWake := cores }

/-- LAUNCH_DEQUEUE: arg.a is the partition; its oldest entry leaves WAITING when it may. -/
def execLaunchDequeue (s : State) : Host.Outcome State Fault Refusal :=
  let p := s.arg.a
  .next <| match (s.part p).oldest with
  | none => s
  | some i =>
    let l := (p, i)
    if (s.entry l).st ≠ .waiting then s
    else if ((s.coresOf l).all fun c => s.coreFree l c) && ((s.clustersOf l).all fun c => s.canReserve c (s.header l).bounds) then
      s.bindLaunch l
    else if pktNowait (s.entry l).packet then s.refuseLaunch l (eTargetFull, 0)
    else s

/-! ## The wake of a core (R41, R162) -/

/-- `n` bytes of scratchpads from `a` become zero, without tags and poison. -/
def Mem.zeroRange (m : Mem) (a n : Nat) : Mem :=
  { cells := m.cells.filter fun c => c.1 < a || a + n ≤ c.1
    tags := m.tags.filter fun g => 16 * g < a || a + n ≤ 16 * g
    poison := m.poison.filter fun w => 8 * w < a || a + n ≤ 8 * w }

def permWindow : BitVec 7 := pL ||| pS ||| pLC ||| pSC ||| pE ||| pF

/-- The presets of slot 0 (R41); `i` is the strand's index, `n` the count. -/
def presetSlot (l : Nat × Nat) (h : Header) (acap : Cap) (i n : Nat) : Slot :=
  let sl : Slot := { Slot.reset with pcc := h.kcap.withCursor (h.base + h.entry), state := .starting, launch := some l }
  ((((((sl.setReg 1 (Cap.ofWord (BitVec.ofNat 64 i))).setReg 2 (Cap.ofWord (BitVec.ofNat 64 n))).setReg 3 acap).setReg 4
    (mkCap true permWindow 0 (BitVec.ofNat 20 h.scratch) (BitVec.ofNat 48 localBase) (BitVec.ofNat 48 localBase))).setReg 5
    (mkCap true permWindow 3 589824 (BitVec.ofNat 48 clusterBase) (BitVec.ofNat 48 clusterBase))).setReg 6
    (mkCap true (pS ||| pE) 0 64 (BitVec.ofNat 48 engineBase) (BitVec.ofNat 48 engineBase))).setReg 7
    (mkCap true (pL ||| pS ||| pE) 0 0x10000 (BitVec.ofNat 48 setBase) (BitVec.ofNat 48 setBase))

/-- The division of a core's SRAM for a launch: the L1 is emptied first (R162, R204, R405). -/
def State.divide (s : State) (core bank : Nat) (h : Header) : State :=
  let shared := (s.cluster (clusterOf core)).shared
  (s.emptyL1 (bankKey core bank)).modCoreBank (bankKey core bank) fun b => { b with
    spad := h.spadSize, spadBase := if shared then b.spadBase else 0
    l1Bytes := (if shared then 49152 else 98304) - h.spadSize
    ctl := Vector.replicate 4 0, ctlLast := Vector.replicate 4 0 }

/-- A core of a launch wakes. -/
def State.wakeCore (s : State) (l : Nat × Nat) (core : Nat) : State :=
  let e := s.entry l
  let h := s.header l
  let bank := (s.bankOf (clusterOf core) l.1).getD 0
  let first := pktFirst e.packet
  let count := pktCount e.packet
  let ck := bankKey core bank
  let k := bankKey (4 * core) bank
  let s := s.divide core bank h
  let s := if pktZerosp e.packet
    then ({ s with spad := s.spad.zeroRange (core * sliceSize + (s.coreBank ck).spadBase) h.spadSize }).modCoreBank ck fun b => { b with full := [] }
    else s
  let i := core - first
  let s := if h.twin
    then s.modCore core fun c => { c with twin := some (if i < count then (core + count, true) else (core - count, false)), twinMsgs := [] }
    else s
  let s := s.setSlotAt k (presetSlot l h e.packet.g1 (i % count) count)
  s.modEntry l fun e => { e with
    toWake := e.toWake.filter (· ≠ core), st := if e.toWake = [core] then .running else e.st }

/-- CORE_WAKE: arg.a is the partition, arg.b the entry, arg.c the core. -/
def execCoreWake (s : State) : Host.Outcome State Fault Refusal :=
  let l := (s.arg.a, s.arg.b)
  let c := clusterOf s.arg.c
  -- the flood goes on when a halted or swapped-out context does (R408, R473)
  let on : Bool := s.bankOf c l.1 = some (s.liveBank s.arg.c) && !(s.cluster c).resting
  .next (if (s.entry l).st = .waking && (s.entry l).toWake.contains s.arg.c && on then s.wakeCore l s.arg.c else s)

/-! ## Completion (R163, R191) -/

/-- Whether every strand of a launch has ended, no stage queue holds a record of it, and none is parked. -/
def State.launchQuiet (s : State) (l : Nat × Nat) : Bool :=
  (s.slots.all fun p => p.2.launch ≠ some l || p.2.state = .idle) &&
  (s.saved.all fun v => v.slots.all fun p => p.2.launch ≠ some l || p.2.state = .idle) &&
  (s.clusters.all fun c =>
    (c.2.queues.all fun q => q.launch ≠ l || q.queues.toList.all fun r => r = []) && c.2.parked.all fun r => r.launch ≠ l)

/-- The armed join cells of a launch. -/
def State.armedCells (s : State) (l : Nat × Nat) : Nat :=
  (s.clusters.map fun c => (c.2.joins.filter fun j => j.2.launch = l).length).sum

/-- What a cluster holds of a launch is freed. -/
def Cluster.forget (c : Cluster) (l : Nat × Nat) : Cluster :=
  { c with
    cells := c.cells.filter fun x => x.2.launch ≠ l
    joins := c.joins.filter fun x => x.2.launch ≠ l
    queues := c.queues.filter fun q => q.launch ≠ l
    reserved := c.reserved.filter fun r => r.1 ≠ l }

def Die.forget (d : Die) (l : Nat × Nat) : Die :=
  { d with cells := d.cells.filter fun x => x.2.launch ≠ l, pkgCells := d.pkgCells.filter fun x => x.2.launch ≠ l }

/-- A core bank returns to its partition: its queues are empty and it is bound to no launch. -/
def CoreBank.unbind (b : CoreBank) (l : Nat × Nat) : CoreBank :=
  if b.launch = some l then { b with launch := none, spad := 0, queues := Vector.replicate 4 [] } else b

def State.freeLaunch (s : State) (l : Nat × Nat) : State :=
  let cores := s.coresOf l
  let twin := (s.header l).twin
  let s := if twin then cores.foldl (fun (t : State) c => t.modCore c fun x => { x with twin := none, twinMsgs := [] }) s else s
  { s with
    clusters := s.clusters.map fun (c : Nat × Cluster) => (c.1, c.2.forget l)
    dies := s.dies.map fun (d : Nat × Die) => (d.1, d.2.forget l)
    coreBanks := s.coreBanks.map fun (b : Nat × CoreBank) => (b.1, b.2.unbind l)
    saved := s.saved.map fun v => { v with banks := v.banks.map fun (b : Nat × CoreBank) => (b.1, b.2.unbind l) } }

/-- One error record of the launch unit for each cell that it disarms. -/
def State.cellErrors (s : State) (l : Nat × Nat) (n : Nat) : State :=
  match n with
  | 0 => s
  | k + 1 => (s.errRecord l.1 (pktTlidx (s.entry l).packet) 6 0 eMalformed 0).cellErrors l k

/-- LAUNCH_COMPLETE: arg.a is the partition, arg.b the entry. -/
def execLaunchComplete (s : State) : Host.Outcome State Fault Refusal :=
  let l := (s.arg.a, s.arg.b)
  .next <|
    if (s.entry l).st ≠ .running || !s.launchQuiet l then s
    else
      let n := s.armedCells l
      let err := (s.entry l).abnormal || n ≠ 0
      (((s.cellErrors l n).freeLaunch l).finishEntry l err).emptyEntry l

end Sys2Proof.Machine
end

