-- ==== Sys2Proof/Machine/Supervisor.lean ====
section
/-!
DEFINITION. Supervisor CSRs: what a write keeps and what a read gives (the tables of R179, R211, R222, R295, R388, R403, R446 to R448,
R471, R487), the debug module (R473), the sweeper (R475), HBM refresh (R218, R219).
-/
namespace Sys2Proof.Machine

/-! ## Fields -/

def maskLow (n : Nat) : Word := BitVec.ofNat 64 (2 ^ n - 1)
/-- Bits [51:18]: a frame. -/
def frameMask : Word := (maskLow 34) <<< 18
def csrFrame (w : Word) : Nat := (w.extractLsb' 18 34).toNat

/-- The RW bits of the CSRs that a die keeps as words. -/
def csrMask (n : Nat) : Word :=
  if 0x380 ≤ n && n ≤ 0x47F then maskLow 44
  else if 0x4C0 ≤ n && n ≤ 0x4C3 then maskLow 60
  else match n with
  | 0x343 => maskLow 15
  | 0x352 => 0x7E ||| frameMask
  | 0x353 => maskLow 8
  | 0x370 => maskLow 24 &&& ~~~1
  | 0x372 => frameMask
  | 0x4C4 => 0x9FF
  | 0x4C5 => maskLow 24
  | 0x4C8 => 1 ||| frameMask
  | 0x4C9 => 1 ||| frameMask
  | 0x4CA => 1 ||| frameMask
  | 0x4CB => 0x7 ||| frameMask
  | 0x4CD => maskLow 12
  | _ => 0

/-- Whether the written word asks for an operation that has an event of its own. -/
def csrTrigger (n : Nat) (v : Word) : Bool :=
  match n with
  | 0x343 => v.getLsbD 15
  | 0x352 => v.getLsbD 0
  | 0x353 => v.extractLsb' 6 2 = 1 || v.extractLsb' 6 2 = 2
  | 0x370 => v.getLsbD 0
  | 0x4C4 => v.getLsbD 9 || v.getLsbD 10
  | _ => false

/-! ## Breakpoints (R471) -/

def bpCluster (w : Word) : Nat := (w.extractLsb' 51 9).toNat

/-- A DBGBP of a die stands in the debug module of the cluster it names, when that is a cluster of the die. -/
def State.setBp (s : State) (d i : Nat) (v : Word) : State :=
  let put (s : State) (c : Nat) (w : Word) : State :=
    if c / 48 = d then s.modCluster c fun x => { x with bps := x.bps.set (i % 4) w (Nat.mod_lt _ (by decide)) } else s
  (put (put s (bpCluster (s.csr d (0x4C0 + i))) 0) (bpCluster v) v).setCsr d (0x4C0 + i) v

/-! ## The record log (R479) -/

/-- RLOGCTL: the reserved mode 3 changes nothing; entering record mode begins a log, entering replay begins at its first entries;
DIVERGED is cleared by a written 1. -/
def State.setRlog (s : State) (d : Nat) (v : Word) : State :=
  let old := s.csr d 0x4CB
  let mode := v.extractLsb' 0 2
  if mode = 3 then s
  else
    let s := s.setCsr d 0x4CB ((v &&& csrMask 0x4CB) ||| (old &&& 8 &&& ~~~v))
    if mode = 1 && old.extractLsb' 0 2 ≠ 1 then (s.setCsr d 0x4CC 0).modDie d fun x => { x with rlog := [] }
    else if mode = 2 && old.extractLsb' 0 2 ≠ 2 then s.modDie d fun x => { x with rlogAt := [] }
    else s

/-! ## CSR_WRITE -/

/-- A write to a CSR of a die that is kept as a word. -/
def State.dieCsr (s : State) (d n : Nat) (v : Word) : State :=
  if 0x4C0 ≤ n && n ≤ 0x4C3 then s.setBp d (n - 0x4C0) (v &&& csrMask n)
  else if n = 0x4CB then s.setRlog d v
  -- a write of PKEYCTL while an operation runs is ignored (R487)
  else if csrTrigger n v || csrMask n = 0 || (n = 0x353 && (s.die d).pkeyBusy) then s
  else s.setCsr d n (v &&& csrMask n)

/-- An extend of a measurement register (R485). -/
def extended (m digest : BitVec 256) : BitVec 256 := Config.sha256 (leBytes 32 m.toNat ++ leBytes 32 digest.toNat)

def State.extendMeas (s : State) (d i : Nat) (digest : BitVec 256) : State :=
  let lt : i % 8 < 8 := Nat.mod_lt _ (by decide)
  s.modDie d fun x => { x with measurements := x.measurements.set (i % 8) (extended x.measurements[i % 8] digest) lt }

/-- CSR_WRITE: arg.a is the unit (the partition of a CSR of a partition, else the die), arg.b the number. With a digest in place of a word the
firmware of the die extends MEAS number arg.b, 1 to 7, for which the spec names no CSR and no event (R485, log 6). -/
def execCsrWrite (s : State) : Host.Outcome State Fault Refusal :=
  let p := s.arg.a % 64
  let n := s.arg.b
  .next <| match s.arg.pay with
  | .nonce digest => if 1 ≤ n && n ≤ 7 then s.extendMeas (s.arg.a % 8) n digest else s
  | .word v =>
    if 0x480 ≤ n && n ≤ 0x4BF then s.modPart (n - 0x480) fun q => { q with hdmWin := v &&& maskLow 52 }
    else match n with
    | 0x340 => s.modPart p fun q => { q with wdLimit := v }
    | 0x350 => s.modPart p fun q => { q with ptBase := v &&& (1 ||| frameMask) }
    | 0x351 => s.modPart p fun q => { q with pkeyId := v.setWidth 6 }
    | 0x360 => s.modPart p fun q => { q with eeqBase := v &&& (1 ||| (maskLow 39 <<< 13)) }
    | 0x37E => { s with fabId := v.setWidth 16 }
    | n => s.dieCsr (s.arg.a % 8) n v
  | _ => s

/-! ## The debug module (R471, R473) -/

/-- A halt or a resume is for a cluster of the die. -/
def dbgCluster (d : Nat) (v : Word) : Option Nat :=
  let c := (v.extractLsb' 0 9).toNat
  if c / 48 = d then some c else none

/-- Members of a killed domain that were halted while they waited end when they resume (R396). -/
def State.endKilled (s : State) (c : Nat) : State :=
  ((s.slots.filter fun p => clusterOf (p.1 / 8) = c && s.isLive p.1 && p.2.killed && (p.2.state matches .waiting _)).map Prod.fst).foldl
    (fun t k => t.abnormalEnd k 0) s

/-- The fields that a write of DBGCTL keeps; BRKHALT stands for the BRK of every cluster of the die (log 22). -/
def State.writeDbgctl (s : State) (d : Nat) (v : Word) : State := s.setCsr d 0x4C4 (v &&& csrMask 0x4C4)

/-- DBGCTL_HALT: arg.a is the die; DBGCTL is written with HALT. -/
def execDbgctlHalt (s : State) : Host.Outcome State Fault Refusal :=
  let d := s.arg.a % 8
  .next <| match s.arg.pay with
  | .word v =>
    if !v.getLsbD 9 then s
    else match dbgCluster d v with
    | some c => (s.writeDbgctl d v).haltCluster c
    | none => s.writeDbgctl d v
  | _ => s

/-- DBGCTL_RESUME: arg.a is the die; DBGCTL is written with RESUME and without HALT. -/
def execDbgctlResume (s : State) : Host.Outcome State Fault Refusal :=
  let d := s.arg.a % 8
  .next <| match s.arg.pay with
  | .word v =>
    if !v.getLsbD 10 || v.getLsbD 9 then s
    else match dbgCluster d v with
    | some c => ((s.writeDbgctl d v).resumeCluster c).endKilled c
    | none => s.writeDbgctl d v
  | _ => s

/-- The item of a slot that DBGSEL selects. -/
def Slot.dbgItem (sl : Slot) (item : Nat) : Word :=
  let r : BitVec 5 := BitVec.ofNat 5 item
  if item < 0x20 then (sl.reg r).dv
  else if item < 0x40 then (sl.reg r).val.extractLsb' 64 64
  else if item < 0x60 then BitVec.ofNat 64 (if (sl.reg r).tag then 1 else 0)
  else if item = 0x60 then BitVec.ofNat 64 sl.pcc.cursor
  else if item = 0x61 then (sl.preds ||| 1).setWidth 64
  else 0

def Slot.setDbgItem (sl : Slot) (item : Nat) (v : Word) : Slot :=
  let r : BitVec 5 := BitVec.ofNat 5 item
  let old := sl.reg r
  if item < 0x20 then sl.setReg r { old with val := old.val.extractLsb' 64 64 ++ v }
  else if item < 0x40 then sl.setReg r { old with val := v ++ old.val.extractLsb' 0 64 }
  else if item < 0x60 then sl.setReg r { old with tag := v.getLsbD 0 }
  -- bits [1:0] of the PC are always zero (R36)
  else if item = 0x60 then { sl with pcc := sl.pcc.setCursor (v.setWidth 48 &&& ~~~3) }
  else if item = 0x61 then { sl with preds := v.setWidth 8 ||| 1 }
  else sl

/-- The slot and the item that DBGSEL of a die selects. -/
def State.dbgSel (s : State) (d : Nat) : Nat × Nat :=
  let w := s.csr d 0x4C5
  (s.slotKey (4 * (w.extractLsb' 0 15).toNat + (w.extractLsb' 15 2).toNat), (w.extractLsb' 17 7).toNat)

/-- Whether DBGDATA of a die reaches the selected slot: a halted one of a core of the die (R471). -/
def State.dbgReaches (s : State) (d : Nat) : Bool :=
  let k := (s.dbgSel d).1
  dieOf (k / 8) = d && (s.slotAt k).halted

def State.dbgData (s : State) (d : Nat) : Word :=
  let (k, item) := s.dbgSel d
  if s.dbgReaches d then (s.slotAt k).dbgItem item else 0

/-- DBGDATA_WRITE: arg.a is the die. -/
def execDbgdataWrite (s : State) : Host.Outcome State Fault Refusal :=
  .next <| match s.arg.pay with
  | .word v =>
    let (k, item) := s.dbgSel (s.arg.a % 8)
    if s.dbgReaches (s.arg.a % 8) then s.modSlotAt k fun sl => sl.setDbgItem item v else s
  | _ => s

/-- PORTDIG_CLEAR: arg.a is the port. -/
def execPortdigClear (s : State) : Host.Outcome State Fault Refusal := .next (s.modPort (s.arg.a % 18) fun p => { p with digest := 0 })

/-! ## What a read gives -/

/-- The 16 bytes of a felling entry (R480). -/
def fellBits (f : Felling) : BitVec 128 := f.arg ++ BitVec.ofNat 16 f.code ++ BitVec.ofNat 32 f.source ++ f.time

/-- The entry that FELLIDX selects, counted back from the newest. FELLDATA reads 0 where FELLIDX selects none: its Reset column has a dash, so that
this is a DESIGN CHOICE (log 2). -/
def State.fellData (s : State) (d : Nat) : BitVec 128 :=
  match ((s.die d).felling.reverse)[(s.csr d 0x4CD).toNat]? with
  | some f => fellBits f
  | none => 0

def flagAt (b : Bool) (i : Nat) : Word := (BitVec.ofBool b).setWidth 64 <<< i

/-- Whether a fast swap that SWAPCTL of a die started still runs: a strand of the incoming context may issue, and none has (R403; log 16). -/
def State.swapRuns (s : State) (d : Nat) : Bool :=
  match (s.die d).swapRun with
  | some (c, _) => s.slots.any fun p => clusterOf (p.1 / 8) = c && s.isLive p.1 && !p.2.halted && !(s.core (p.1 / 8)).stopped &&
      (p.2.state = .ready || p.2.state = .starting)
  | none => false

/-- A supervisor CSR as the firmware of a die reads it; `u` is the unit as for CSR_WRITE. MIGREQ, for whose read R168 gives nothing, reads 0 (a DESIGN
CHOICE, log 2). -/
def State.csrValue (s : State) (u n : Nat) : Word :=
  let p := s.part (u % 64)
  let d := u % 8
  if 0x480 ≤ n && n ≤ 0x4BF then (s.part (n - 0x480)).hdmWin
  else if 0x4D0 ≤ n && n ≤ 0x4E1 then (s.port (n - 0x4D0)).digest
  else match n with
  | 0x340 => p.wdLimit
  | 0x341 => p.wdCount
  | 0x343 => s.csr d n ||| flagAt (s.core (s.csr d n).toNat).stopped 16
  | 0x350 => p.ptBase
  | 0x351 => p.pkeyId.setWidth 64
  | 0x352 => s.csr d n ||| flagAt (s.die d).clearing.isSome 0
  | 0x353 => s.csr d n ||| flagAt (s.die d).pkeyBusy 8 ||| flagAt (s.die d).pkeyRefused 9 |||
      flagAt (s.keyHeld ((s.csr d n).setWidth 6)) 10
  | 0x360 => p.eeqBase
  | 0x370 => s.csr d n ||| flagAt (s.swapRuns d) 0
  | 0x361 => p.eeqCount
  | 0x37E => s.fabId.setWidth 64
  | 0x4C4 => s.csr d n ||| flagAt (s.cluster ((s.csr d n).extractLsb' 0 9).toNat).halted 9
  | 0x4C6 => s.dbgData d
  | 0x4CE => (s.fellData d).extractLsb' 0 64
  | 0x4CF => (s.fellData d).extractLsb' 64 64
  | n => s.csr d n

/-! ## The sweeper (R475) -/

/-- The counter of event `e` of unit `u` in cluster `c`. -/
def State.counterOf (s : State) (c u e : Nat) : BitVec 32 :=
  let core (i : Nat) : BitVec 32 := ((s.core (48 * c + (if u < 192 then u / 4 else u - 192))).counters.toList[i]?).getD 0
  if u < 192 then (if e = 1 then core (u % 4) else if e = 2 then core (4 + u % 4) else 0)
  else if u < 240 then (if 1 ≤ e && e ≤ 3 then core (7 + e) else 0)
  else if u < 252 then (if 1 ≤ e then ((s.quad (12 * c + (u - 240))).counters.toList[e - 1]?).getD 0 else 0)
  else if u = 252 && 1 ≤ e then ((s.cluster c).counters.toList[e - 1]?).getD 0
  else 0

/-- SWEEPER_VISIT: arg.a is the die, arg.b the cluster within it, arg.c is 256 x unit + event. -/
def execSweeperVisit (s : State) : Host.Outcome State Fault Refusal :=
  let d := s.arg.a % 8
  let c := s.arg.b % 48
  let u := s.arg.c / 256 % 256
  let e := s.arg.c % 256
  let base := s.csr d 0x4C8
  .next <|
    if !base.getLsbD 0 then s
    else
      let count := s.counterOf (48 * d + c) u e
      let key := (c * 256 + u) * 256 + e
      let last := (look (s.die d).totals key).getD 0
      let pa := csrFrame base * 2 ^ 18 + 8 * key
      let total := leNat (s.mem.bytes pa 8)
      (s.rawWrite pa (leBytes 8 (total + (count - last).toNat))).modDie d fun x => { x with totals := put x.totals key count }

/-! ## HBM refresh (R218, R219) -/

/-- A key for the refreshes settled of a pseudo-channel as a whole, and of one of its banks. -/
def pcKey (pc : Nat) : Nat := pc * 2 ^ 16
def bankRef (pc bank : Nat) : Nat := pc * 2 ^ 16 + 1 + bank % (2 ^ 16 - 1)

/-- Refreshes due since cold reset: one for each 2,730 clk (R218; DEDUCED, log 15). -/
def State.refreshesDue (s : State) : Nat := s.now.toNat / 2730

def Die.settled (x : Die) (pc bank : Nat) : Nat := max ((look x.debts (pcKey pc)).getD 0) ((look x.debts (bankRef pc bank)).getD 0)

/-- What a bank owes. -/
def State.owed (s : State) (d pc bank : Nat) : Nat := s.refreshesDue - (s.die d).settled pc bank

/-- PER_BANK_REFRESH: arg.a is the die, arg.b the pseudo-channel, as `pcOf` numbers those of the die's two stacks, arg.c the bank. -/
def execPerBankRefresh (s : State) : Host.Outcome State Fault Refusal :=
  let d := s.arg.a % 8
  let pc := s.arg.b % 128
  let bank := s.arg.c % (2 ^ 16 - 1)
  .next (if 0 < s.owed d pc bank && s.owed d pc bank < 8 then
    s.modDie d fun x => { x with debts := put x.debts (bankRef pc bank) (x.settled pc bank + 1) } else s)

/-- FORCED_REFRESH: a bank owes 8. Every debt of the pseudo-channel is settled; requests to its lines (`pcOf`) wait for at most 287 clk, and in how many
clk the channel saw one wait is a free value. -/
def execForcedRefresh (s : State) : Host.Outcome State Fault Refusal :=
  let d := s.arg.a % 8
  let pc := s.arg.b % 128
  let bank := s.arg.c % (2 ^ 16 - 1)
  .next (if 8 ≤ s.owed d pc bank then
    let (w, s) := s.draw
    s.modDie d fun x => { x with
      debts := put x.debts (pcKey pc) s.refreshesDue
      hbmStall := put x.hbmStall (pc / 2) ((look x.hbmStall (pc / 2)).getD 0 + BitVec.ofNat 64 (w.toNat % 288)) } else s)

end Sys2Proof.Machine
end

