-- ==== Sys2Proof/Machine/Bringup.lean ====
section
/-!
DEFINITION. Preparation of clusters and cores (R220, R388), reset and boot (R483 to R485), attestation (R486), keys and page clears (R221, R222,
R487), storage errors (R216), the junction events (R489).
-/
namespace Sys2Proof.Machine

/-! ## Preparation (R220) -/

/-- A cluster as its next owner finds it: the record store, the TLB and the synchronisation units are empty (R196, R220). Counters are never
reset (R474), and the debug module and the copy engine are no part of the preparation. -/
def Cluster.prepared (c : Cluster) (owner : Option Nat) : Cluster :=
  { ctx0 := owner, counters := c.counters, bps := c.bps, halted := c.halted, copyQ := c.copyQ }

/-- A core back in service; its counters and its place in the cruise log go on (R474, R476). -/
def Core.prepared (c : Core) : Core :=
  { cruisePos := c.cruisePos, cruiseAt := c.cruiseAt, cruiseState := c.cruiseState, counters := c.counters }

/-- A cluster passes to an owner, or to none. -/
def State.prepareCluster (s : State) (c : Nat) (owner : Option Nat) : State :=
  { s with
    slots := s.slots.filter fun p => clusterOf (p.1 / 8) ≠ c
    coreBanks := s.coreBanks.filter fun p => clusterOf (p.1 / 2) ≠ c
    cores := s.cores.map fun (p : Nat × Core) => if clusterOf p.1 = c then (p.1, p.2.prepared) else p
    quads := s.quads.map fun (p : Nat × Quad) =>
      if p.1 / 12 = c then (p.1, { p.2 with weights := Vector.replicate 2 {} }) else p
    clusters := put s.clusters c ((s.cluster c).prepared owner)
    spad := s.spad.zeroRange (48 * c * sliceSize) (48 * sliceSize)
    saved := s.saved.filter fun v => v.cluster ≠ c }

/-- What a cluster holds of a partition goes. -/
def Cluster.dropPart (c : Cluster) (p : Nat) : Cluster :=
  { c with
    cells := c.cells.filter fun x => x.2.launch.1 ≠ p
    joins := c.joins.filter fun x => x.2.launch.1 ≠ p
    queues := c.queues.filter fun q => q.launch.1 ≠ p
    parked := c.parked.filter fun r => r.launch.1 ≠ p
    reserved := c.reserved.filter fun r => r.1.1 ≠ p
    tickets := c.tickets.filter fun t => t.1 / 64 ≠ p
    tlb := c.tlb.filter fun e => e.part ≠ p }

/-- One bank of a cluster, with its half of every core's SRAM, is prepared; what it holds belongs to `owner` (R403, R405, R406). -/
def State.prepareBank (s : State) (c bank : Nat) (owner : Option Nat) : State :=
  let s := s.dropMonitors c bank
  let live : Bool := (s.cluster c).liveBank % 2 = bank % 2
  let base (core : Nat) : Nat := (s.coreBank (bankKey core bank)).spadBase
  { s with
    slots := s.slots.filter fun p => !(clusterOf (p.1 / 8) = c && p.1 % 2 = bank)
    coreBanks := (upTo 48).foldl (fun m i =>
      put m (bankKey (48 * c + i) bank) { CoreBank.reset with spadBase := base (48 * c + i) }) s.coreBanks
    quads := s.quads.map fun (p : Nat × Quad) =>
      if p.1 / 12 = c then (p.1, { p.2 with weights := p.2.weights.set (bank % 2) {} (Nat.mod_lt _ (by decide)) }) else p
    -- a debug halt goes with its context (R411)
    clusters := put s.clusters c ({ (s.cluster c) with
      halted := !live && (s.cluster c).halted, shadowHalted := live && (s.cluster c).shadowHalted
      idled := !live && (s.cluster c).idled }.setCtx bank owner)
    spad := (upTo 48).foldl (fun m i => m.zeroRange ((48 * c + i) * sliceSize + base (48 * c + i)) 49152) s.spad }

/-- The partitions that system software has given a cluster: in a bank, or in a save area (R403, R410). -/
def State.partsHeld (s : State) : List Nat :=
  (s.clusters.flatMap (fun c => c.2.ctx0.toList ++ c.2.ctx1.toList) ++ s.saved.map Saved.part).eraseDups

/-- A timeline set as it is assigned to a partition (R289). -/
def Partition.beginSet (q : Partition) : Partition := { q with tl := [], errQ := [], eqCount := 0 }

/-- The lots of a partition that ends (R350). -/
def State.endLots (s : State) (p : Nat) : State :=
  (upTo Config.dies).foldl (fun t d =>
    if (t.die d).lots.any fun x => x.2.owner = some p then
      t.modDie d fun x => { x with lots := x.lots.map fun (y : Nat × Lot) => if y.2.owner = some p then (y.1, { y.2 with ending := true }) else y }.freeEnded
    else t) s

/-- After a change of assignments since `old`: a partition with its first cluster begins with a timeline set at reset, one without any has ended
(DESIGN CHOICE: the spec does not say by which act system software assigns a set or ends a partition; log 52). -/
def State.settleParts (s old : State) : State :=
  let was := old.partsHeld
  let now := s.partsHeld
  let s := (now.filter fun p => !was.contains p).foldl (fun (t : State) p => t.modPart p Partition.beginSet) s
  (was.filter fun p => !now.contains p).foldl (fun (t : State) p => t.endLots p) s

/-- Whether the firmware of every die runs: a package on which a die fails keeps its partitions unassigned (R484). -/
def State.allRunning (s : State) : Bool := (upTo Config.dies).all fun d => (s.die d).boot matches .running _

/-- CLUSTER_PREPARE: arg.a is the cluster; its owner, or none. With arg.b 1 or 2 system software removes the assignment of bank 0 or 1 of
a cluster with two contexts (R403). -/
def execClusterPrepare (s : State) : Host.Outcome State Fault Refusal :=
  let c := s.arg.a
  .next <| match s.arg.pay with
  | .owner o =>
    if Config.clusters ≤ c || (o.isSome && !s.allRunning) then s
    else if s.arg.b = 0 then (s.prepareCluster c (o.map (· % 64))).settleParts s
    else
      let bank := (s.arg.b - 1) % 2
      match (s.cluster c).shared, (s.cluster c).ctx bank with
      | true, some p => ((s.prepareBank c bank none).modCluster c fun x => x.dropPart p).settleParts s
      | _, _ => s
  | _ => s

/-! ## Stopped cores (R387, R388) -/

/-- CORE_STOP: arg.a is a core that has consumed poison. -/
def execCoreStop (s : State) : Host.Outcome State Fault Refusal :=
  .next (if s.arg.a < Config.cores then s.coreStop s.arg.a else s)

/-- A core prepared for service again: it keeps its launch and the division of its SRAM. -/
def State.prepareCore (s : State) (core : Nat) : State :=
  let bank (b : CoreBank) : CoreBank :=
    { CoreBank.reset with launch := b.launch, spad := b.spad, spadBase := b.spadBase, l1Bytes := b.l1Bytes }
  { s with
    slots := s.slots.filter fun p => p.1 / 8 ≠ core
    coreBanks := s.coreBanks.map fun (p : Nat × CoreBank) => if p.1 / 2 = core then (p.1, bank p.2) else p
    -- a core that has missed a flip joins the bank of its cluster (R411)
    cores := put s.cores core { (s.core core) with stopped := false, twinMsgs := [], liveBank := (s.cluster (clusterOf core)).liveBank % 2 }
    spad := s.spad.zeroRange (core * sliceSize) sliceSize }

/-- CORESVC_GO: arg.a is the die; CORESVC is written with GO. -/
def execCoresvcGo (s : State) : Host.Outcome State Fault Refusal :=
  .next <| match s.arg.pay with
  | .word v =>
    let core := (v.extractLsb' 0 15).toNat
    if !v.getLsbD 15 then s
    else
      let s := s.setCsr (s.arg.a % 8) 0x343 (v &&& csrMask 0x343)
      if (s.core core).stopped then s.prepareCore core else s
  | _ => s

/-! ## Keys (R221, R487) -/

/-- PKEY_DRAW: arg.a is the die; PKEYCTL is written with OP 1. -/
def execPkeyDraw (s : State) : Host.Outcome State Fault Refusal :=
  let d := s.arg.a % 8
  .next <| match s.arg.pay with
  | .word v =>
    let key : BitVec 6 := v.setWidth 6
    if v.extractLsb' 6 2 ≠ 1 || (s.die d).pkeyBusy then s
    else
      let s := s.setCsr d 0x353 (v &&& csrMask 0x353)
      if s.anyHolds key then s.pkeyOutcome d false true
      else { (s.setKey key true).pkeyOutcome d false false with keyDraws := put s.keyDraws key.toNat (s.drawsOf key + 1) }
  | _ => s

/-- PKEY_DESTROY: arg.a is the die; PKEYCTL is written with OP 2. Accesses under the key are waited for. -/
def execPkeyDestroy (s : State) : Host.Outcome State Fault Refusal :=
  let d := s.arg.a % 8
  .next <| match s.arg.pay with
  | .word v =>
    if v.extractLsb' 6 2 ≠ 2 || (s.die d).pkeyBusy then s
    else
      let s := s.setCsr d 0x353 (v &&& csrMask 0x353)
      if !s.anyHolds (s.pkeyOf d) then s.pkeyOutcome d false true
      else if s.keyInUse (s.pkeyOf d) then s.pkeyOutcome d true false
      else s.destroyKey d
  | _ => s

/-! ## Page clears (R222) -/

/-- Some lines of a page become zero under a key, with metadata TAGS 0 and SCOPE 7. -/
def State.clearLines (s : State) (frame : Nat) (key : BitVec 6) (which : Nat → Bool) : State :=
  ((upTo 4096).filter which).foldl (fun t i =>
    let line := frame * 4096 + i
    let t := (t.combine line).homeWrite key (64 * line) (List.replicate 64 0) false
    { t with lineMeta := del t.lineMeta line }) s

/-- Whether line `i` of a page is among the first that a clear reaches: a free value. -/
def clearedFirst (base i : Nat) : Bool := (Config.freeWord (base + i / 64)).getLsbD (i % 64)

/-- PGCLR_GO: arg.a is the die; PGCLR is written with GO. -/
def execPgclrGo (s : State) : Host.Outcome State Fault Refusal :=
  let d := s.arg.a % 8
  .next <| match s.arg.pay with
  | .word v =>
    if !v.getLsbD 0 || (s.die d).clearing.isSome then s
    else
      let s := s.setCsr d 0x352 (v &&& csrMask 0x352)
      let frame := csrFrame v
      let key : BitVec 6 := v.extractLsb' 1 6
      if !backed (frame * 2 ^ 18) then s
      else
        let n := s.free
        let s := { s with free := n + 64 }.clearLines frame key (clearedFirst n)
        s.modDie d fun x => { x with clearing := some (frame, key, n) }
  | _ => s

/-- PGCLR_DONE: arg.a is the die. -/
def execPgclrDone (s : State) : Host.Outcome State Fault Refusal :=
  let d := s.arg.a % 8
  .next <| match (s.die d).clearing with
  | some (frame, key, n) =>
    ((s.clearLines frame key fun i => !clearedFirst n i).modDie d fun x => { x with clearing := none }).pendingDestroys
  | none => s

/-! ## Boot (R484, R485) -/

def imageSvn (image : List Byte) : Nat := leNat ((image.drop 4).take 4)

/-- The body of an image, of the length that its header gives (R485). -/
def imageBody (image : List Byte) : List Byte := (image.drop 832).take (leNat ((image.drop 8).take 4))

/-- Whether some bytes are an image as R485 lays it out: magic, and a body whole, of a length that is a multiple of 64. -/
def imageWhole (image : List Byte) : Bool :=
  let n := leNat ((image.drop 8).take 4)
  leNat (image.take 4) = 0x46574450 && n % 64 = 0 && 832 + n ≤ image.length

/-- The step of R484 at which a die refuses an image: 0 for none. `arrives` says that the host attach and the die links bring the image to the die;
what is no image fails step 1 as well, which no rule states (log 6). -/
def bootStep (d : Nat) (arrives : Bool) (image : List Byte) : Nat :=
  let modulus := (image.drop 64).take 384
  if !arrives || !imageWhole image then 1
  else if Config.sha256 modulus ≠ Config.fuseKey d then 2
  else if !Config.signatureOk modulus ((image.drop 448).take 384) (Config.sha256 (image.take 64 ++ imageBody image)) then 3
  else if imageSvn image < Config.fuseSvn d then 4
  else 0

/-- A die after its boot ROM has run. -/
def Die.booted (x : Die) (d : Nat) (arrives : Bool) (image : List Byte) : Die :=
  match bootStep d arrives image with
  | 0 => { x with boot := .running (BitVec.ofNat 32 (imageSvn image))
                  measurements := (Vector.replicate 8 0).set 0 (extended 0 (Config.sha256 image)) }
  | n => { x with boot := .failed n, measurements := Vector.replicate 8 0 }

/-! ## Reset (R483) -/

/-- The package after a cold reset, before the boot: memory keeps what a read under a new key cannot give back (R221); what lies outside the
package, and the model's own fields, go on. -/
def State.coldState (s : State) : State :=
  { State.reset with
    mem := s.mem, lineMeta := s.lineMeta, keyOf := s.keyOf, keyDraws := s.keyDraws, modules := s.modules, dieLinks := s.dieLinks
    ports := s.ports.map fun (p : Nat × Port) => (p.1, { up := p.2.up })
    agenda := s.agenda, free := s.free, arg := s.arg }

/-- Whether the image in the boot window reaches a die: over the host attach, and the die links from die 0 (R484). -/
def State.imageArrives (s : State) (d : Nat) : Bool := s.attachUp && s.pathUp 0 d

/-- COLD_RESET: the image in the boot window. -/
def execColdReset (s : State) : Host.Outcome State Fault Refusal :=
  let image := match s.arg.pay with
    | .image b => b
    | _ => []
  .next ((upTo Config.dies).foldl (fun t d => t.modDie d fun x => x.booted d (s.imageArrives d) image) s.coldState)

/-- The owners of a die restart: its slices, the atomic units of its stacks, and the interfaces of the fabric ports it carries (R421, R431). -/
def State.restartOwners (s : State) (d : Nat) : State :=
  let bump (t : State) (o : Nat) : State := t.setOwner o ⟨(t.owner o).incar + 1, [], []⟩
  let s := (upTo 64).foldl (fun t i => bump t (64 * d + i)) s
  let s := bump (bump s (768 + 2 * d)) (768 + 2 * d + 1)
  ((upTo 18).filter fun p => portDie p = d).foldl (fun t p => bump t (512 + p)) s

/-- What a warm reset does to a cluster of the die: the debug module's CSRs take their Reset values too (R471, R483). -/
def State.resetCluster (s : State) (c : Nat) : State :=
  (s.prepareCluster c none).modCluster c fun x => { x with halted := false, shadowHalted := false, bps := Vector.replicate 4 0 }

/-- A die with its supervisor CSRs at their Reset values, and without its keys (R483). -/
def Die.resetCsrs (x : Die) : Die := { x with keys := 0, csr := [], pkeyBusy := false, pkeyRefused := false, clearing := none, swapRun := none }

/-- The destroyed keys enter the felling record (R480). -/
def State.fellKeys (s : State) (d : Nat) : State :=
  ((upTo 64).filter fun k => (s.die d).keys.getLsbD k).foldl (fun t k => t.fell d 0x06 (some k) (unitSource d 0)) s

/-- A package on which a die fails keeps its partitions unassigned (R484). -/
def State.unassignAll (s : State) : State :=
  ((upTo Config.clusters).filter fun c => (s.cluster c).ctx0.isSome || (s.cluster c).ctx1.isSome).foldl (fun t c => t.prepareCluster c none) s

/-- WARM_RESET: arg.a is the die; the image in the boot window. -/
def execWarmReset (s : State) : Host.Outcome State Fault Refusal :=
  let d := s.arg.a % 8
  let image := match s.arg.pay with
    | .image b => b
    | _ => []
  let old := s
  let s := (upTo 48).foldl (fun (t : State) c => t.resetCluster (48 * d + c)) s
  let s := ((s.fellKeys d).restartOwners d).modDie d fun x => x.resetCsrs.booted d (s.imageArrives d) image
  let s := ((upTo 18).filter fun p => portDie p = d).foldl (fun t p => t.modPort p fun x => { x with digest := 0, fwd := [], egress := [] }) s
  let s := s.fell d 0x05 none (unitSource d 0)
  .next ((if s.bootFailed d then s.unassignAll else s).settleParts old)

/-! ## Attestation (R486) -/

/-- Bytes 0 to 527 of a report. The SVN of a die 0 that runs no firmware is a free value. -/
def State.reportBody (s : State) (nonce : BitVec 256) (svn : BitVec 32) : List Byte :=
  leBytes 4 0x41545452 ++ leBytes 4 svn.toNat ++ leBytes 32 nonce.toNat ++ leBytes 8 Config.serialNumber.toNat ++
    (s.die 0).measurements.toList.flatMap (fun m => leBytes 32 m.toNat) ++
    ((upTo 7).flatMap fun d => leBytes 32 ((s.die (d + 1)).measurements[0]).toNat)

/-- ATTEST_REQUEST: a nonce replaces an earlier request. -/
def execAttestRequest (s : State) : Host.Outcome State Fault Refusal :=
  .next <| match s.arg.pay with
  | .nonce n =>
    let (svn, s) : BitVec 32 × State := match (s.die 0).boot with
      | .running v => (v, s)
      | _ => (s.draw.1.setWidth 32, s.draw.2)
    let body := s.reportBody n svn
    { s with attNonce := n, attReport := body ++ leBytes 384 (Config.sign body).toNat }
  | _ => s

/-! ## Storage errors (R216, R217) -/

/-- The core whose SRAM holds a place. -/
def placeCore (p : Place) : Option Nat := match p with
  | .cleanL1 c _ => some c
  | .dirtyL1 c _ => some c
  | .scratch c _ => some c
  | .tile c _ => some c
  | .acc c _ => some c
  | .queue c _ => some c
  | .skid c => some c
  | _ => none

/-- A corrected error, or the parity error of a clean line, is counted for the SRAM of a core (R474). -/
def State.countCorrected (s : State) (p : Place) : State :=
  match placeCore p with
  | some c => s.modCore c fun x => { x with counters := x.counters.set 9 (x.counters[9] + 1) }
  | none => s

/-- An uncorrectable error at a place; `n` is the entry of a queue or of the skid ring of the context that is swapped out, its ingress half first, or the 64-bit word of a tile, an accumulator or a weight block. -/
def State.poisonAt (s : State) (p : Place) (n : Nat) : State :=
  match p with
  | .cleanL1 c line =>
    -- the line is fetched again from its home
    match look (s.coreBank (s.coreKey c)).l1 line with
    | some l => if l.dirty = 0 && l.parts = [] then (s.setL1 (s.coreKey c) line none).countCorrected p else s
    | none => s
  | .dirtyL1 c line =>
    match look (s.coreBank (s.coreKey c)).l1 line with
    | some l => if l.dirty = 0 && l.parts = [] then s else s.setL1 (s.coreKey c) line (some { l with poison := true })
    | none => s
  | .l2 line => { s with mem := s.mem.setPoison line true }
  | .hbm line => { s with mem := s.mem.setPoison line true }
  | .scratch c w => { s with spad := s.spad.setPoison (c * (sliceSize / 8) + w % (sliceSize / 8)) true }
  | .tile c t => s.modCoreBank (s.coreKey c) fun b =>
      let x := b.tiles[t % 4]'(Nat.mod_lt _ (by decide))
      { b with tiles := b.tiles.set (t % 4) { x with poison := addTo x.poison (n % 1152) } (Nat.mod_lt _ (by decide)) }
  | .acc c a => s.modCoreBank (s.coreKey c) fun b =>
      let x := b.acc[a % 2]'(Nat.mod_lt _ (by decide))
      { b with acc := b.acc.set (a % 2) { x with poison := addTo x.poison (n % 2048) } (Nat.mod_lt _ (by decide)) }
  | .weights q => s.modQuad q fun x =>
      let i := s.liveBank (4 * q) % 2
      let w := x.weights[i]'(Nat.mod_lt _ (by decide))
      { x with weights := x.weights.set i { w with poison := addTo w.poison (n % 4096) } (Nat.mod_lt _ (by decide)) }
  | .queue c q => s.setQueue (s.coreKey c) q ((s.queue (s.coreKey c) q).modify n fun e => { e with poison := true })
  -- found when the entry is replayed (R411)
  | .skid c => s.modCoreBank (bankKey c (1 - s.liveBank c % 2)) fun b => { b with
      skidIn := b.skidIn.modify n fun e => { e with bad := true }
      skidOut := if n < b.skidIn.length then b.skidOut else b.skidOut.modify (n - b.skidIn.length) fun e => { e with bad := true } }
  | .ownerCache o => if o < 530 || (768 ≤ o && o < 784) then s.restartOwner o else s

/-- UNCORRECTABLE_ERROR: where, and whether the error was corrected; arg.a is the entry of a queue or a skid ring, or the word of a tile, an accumulator or a weight block. -/
def execUncorrectableError (s : State) : Host.Outcome State Fault Refusal :=
  .next <| match s.arg.pay with
  | .place p corrected => if corrected then s.countCorrected p else s.poisonAt p s.arg.a
  | _ => s

/-! ## Junction temperature (R489) -/

/-- JUNCTION_ALERT: arg.a is the die. The code of its entry is stated nowhere: a free value (log 4). -/
def execJunctionAlert (s : State) : Host.Outcome State Fault Refusal :=
  let d := s.arg.a % 8
  let (w, s) := s.draw
  .next (s.fell d (w.toNat % 2 ^ 16) none (unitSource d 0))

/-- JUNCTION_TRIP: the package removes its power. -/
def execJunctionTrip (s : State) : Host.Outcome State Fault Refusal := .next { s with powered := false }

end Sys2Proof.Machine
end

