-- ==== Sys2Proof/Machine/Projector.lean ====
section
/-!
DEFINITION. The drain projector on rows of FP32 patterns: sets, modes, records and masks (R331 to R344), and the vector-Jacobian product of
MADJ on one row (R346). Every rounding is RNE and no flag is raised (R335).
-/
namespace Sys2Proof.Machine

/-! ## Shared arithmetic (R335) -/

def rAdd (a b : Num) : Num := rne (numAdd 0 a b).1
def rSub (a b : Num) : Num := rne (numAdd 0 a b.negate).1
def rMul (a b : Num) : Num := rne (numMul a b).1
def rDiv (a b : Num) : Num := rne (numDiv a b).1
def fsum (l : List Num) : Num := l.foldl rAdd (.zero false)
def pat (x : Num) : Nat := (fp32 x).1
def atMost (a b : Num) : Bool := a.cmp b ≠ 1
def below (a b : Num) : Bool := a.cmp b = -1
def dnan32 : Nat := 0x7FC00000
def rMean (l : List Num) (n : Nat) : Num := rDiv (fsum l) (.ofInt n)
def maxZero (x : Num) : Num := (minmaxNum true true x (.zero false)).1

/-- The elements of a row at some indices. -/
def pickAt (z : List Num) (js : List Nat) : List Num := js.map fun j => z.getD j (.zero false)
def maskOf (js : List Nat) : Nat := (js.map fun j => 2 ^ j).sum
def largest (l : List Num) : Num :=
  match l with
  | [] => .inf true
  | a :: r => r.foldl (fun m x => (minmaxNum true false m x).1) a

/-- What a row comes to: patterns, support, COUNT, TAU and the flags of R333. -/
structure RowOut where
  out : List Nat
  mask : Nat
  count : Nat
  tau : Nat
  inside : Bool := false
  nan : Bool := false
  inf : Bool := false
deriving DecidableEq, Repr

def nanRow (n : Nat) : RowOut := { out := List.replicate n dnan32, mask := 0, count := 0, tau := dnan32, nan := true }

/-- Whether a row is a NaN row of a set. -/
def isNanRow (pset : Nat) (z : List Num) : Bool :=
  z.any fun x => x.isNan || (x.isInf && (pset = 2 || pset = 3 || pset = 5))

/-! ## Simplex (R336) -/

/-- The Michelot passes: the support and τ. -/
def michelot (z : List Num) (rho : Num) (fuel : Nat) (S : List Nat) : List Nat × Num :=
  let tau := rDiv (rSub (fsum (pickAt z S)) rho) (.ofInt S.length)
  let keep := S.filter fun j => !atMost (z.getD j (.zero false)) tau
  if keep = [] || keep.length = S.length then (S, tau)
  else match fuel with
    | 0 => (S, tau)
    | k + 1 => michelot z rho k keep

/-- Outputs, support, τ, INFROW. -/
def simplex (z : List Num) (rho : Num) : List Num × List Nat × Num × Bool :=
  let idx := upTo z.length
  let zeros := z.map fun _ => Num.zero false
  let V := idx.filter fun j => z.getD j (.zero false) ≠ .inf true
  if V = [] then (zeros, [], .inf true, false)
  else if rho.isZero then (zeros, [], largest (pickAt z V), false)
  else
    let P := V.filter fun j => z.getD j (.zero false) = .inf false
    if P ≠ [] then
      (idx.map fun j => if P.contains j then rDiv rho (.ofInt P.length) else .zero false, P, .inf false, true)
    else
      let (S, tau) := michelot z rho V.length V
      (idx.map fun j => if S.contains j then maxZero (rSub (z.getD j (.zero false)) tau) else .zero false, S, tau, false)
where
  upTo (n : Nat) : List Nat := List.range n

/-- A pattern with the sign of a number. -/
def withSign (p : Nat) (x : Num) : Nat := p % 2 ^ 31 + (if x.neg then 2 ^ 31 else 0)

/-! ## Cone (R341) -/

/-- Pools as start and length with their values, the last first. -/
def mergePools (z : List Num) (fuel : Nat) (l : List (Nat × Nat × Num)) : List (Nat × Nat × Num) :=
  match fuel, l with
  | k + 1, (_, n1, v1) :: (s0, n0, v0) :: r =>
    if below v1 v0 then mergePools z k ((s0, n0 + n1, rMean ((z.drop s0).take (n0 + n1)) (n0 + n1)) :: r) else l
  | _, _ => l

def cone (z : List Num) : List (Nat × Nat × Num) :=
  ((z.mapIdx fun j x => (j, x)).foldl (fun (l : List (Nat × Nat × Num)) p => mergePools z z.length ((p.1, 1, p.2) :: l)) []).reverse

/-! ## One row (R338 to R343) -/

/-- PROJECT of a row that is no NaN row. `row` are its patterns. -/
def projectRow (pset : Nat) (row : List Nat) (p1 p2 : Nat) : RowOut :=
  let z := row.map of32
  let n := row.length
  let all := 2 ^ n - 1
  -- a ρ of −0 counts as 0 (R344)
  let rho := if pset ≤ 3 then (of32 p1).setNeg false else of32 p1
  match pset with
  | 1 =>
    let (y, S, tau, inf) := simplex z rho
    { out := y.map pat, mask := maskOf S, count := S.length, tau := pat tau, inf := inf }
  | 2 =>
    let a := z.map fun x => x.setNeg false
    if atMost (fsum a) rho then { out := row, mask := all, count := n, tau := 0, inside := true }
    else
      let (y, S, tau, _) := simplex a rho
      { out := (y.zip z).mapIdx fun j p => if S.contains j then withSign (pat p.1) p.2 else 0
        mask := maskOf S, count := S.length, tau := pat tau }
  | 3 =>
    let q := fsum (z.map fun x => rMul x x)
    if atMost q (rMul rho rho) then { out := row, mask := all, count := n, tau := 0x3F800000, inside := true }
    else
      let scale := rDiv rho (rne (numSqrt q).1)
      { out := z.map fun x => pat (rMul x scale), mask := all, count := n, tau := pat scale }
  | 4 =>
    let hi := of32 p2
    let S := (List.range n).filter fun j => below rho (z.getD j (.zero false)) && below (z.getD j (.zero false)) hi
    { out := z.map fun x => pat (minmaxNum false false (minmaxNum true false x rho).1 hi).1
      mask := maskOf S, count := S.length, tau := 0 }
  | _ =>
    let ps := cone z
    { out := ps.flatMap fun p => List.replicate p.2.1 (pat p.2.2), mask := maskOf (ps.map Prod.fst), count := ps.length, tau := 0 }

/-- The values that EVAL and APPLY compare, and the set A (R342). -/
def evalValues (pset : Nat) (z : List Num) : List Num := if pset = 1 then z else z.map fun x => x.setNeg false
def evalSet (pset : Nat) (z : List Num) (tau : Num) : List Nat :=
  (List.range z.length).filter fun j => below tau ((evalValues pset z).getD j (.zero false))

/-- APPLY (R343). -/
def applyRow (pset : Nat) (row : List Nat) (p2 : Nat) : RowOut :=
  let z := row.map of32
  let tau := of32 p2
  let A := evalSet pset z tau
  let c := evalValues pset z
  { out := (List.range row.length).map fun j =>
      if A.contains j then
        let p := pat (maxZero (rSub (c.getD j (.zero false)) tau))
        if pset = 2 then withSign p (z.getD j (.zero false)) else p
      else 0
    mask := maskOf A, count := A.length, tau := p2 }

/-- The row of PROJECT or APPLY. -/
def drainRow (pset pmode : Nat) (row : List Nat) (p1 p2 : Nat) : RowOut :=
  if isNanRow pset (row.map of32) then nanRow row.length
  else if pmode = 2 then applyRow pset row p2 else projectRow pset row p1 p2

/-- The record of PROJECT and APPLY (R333). -/
def drainRecord (pset pmode mptr : Nat) (r : RowOut) : BitVec 128 :=
  BitVec.ofNat 64 (mptr % 2 ^ 48) ++ BitVec.ofNat 32 r.tau ++ (0 : BitVec 8) ++ BitVec.ofNat 2 pmode ++ BitVec.ofNat 3 pset ++
    BitVec.ofBool r.inf ++ BitVec.ofBool r.nan ++ BitVec.ofBool r.inside ++ BitVec.ofNat 16 r.count

/-- The record of EVAL (R333, R342). -/
def evalRecord (pset : Nat) (row : List Nat) (p2 : Nat) : BitVec 128 :=
  let z := row.map of32
  let nan := isNanRow pset z
  let A := if nan then [] else evalSet pset z (of32 p2)
  let c := pickAt (evalValues pset z) A
  let sum := if nan then dnan32 else pat (fsum c)
  let mx := if nan then dnan32 else pat (largest c)
  (0 : BitVec 32) ++ BitVec.ofNat 32 mx ++ BitVec.ofNat 32 sum ++ (0 : BitVec 8) ++ (1 : BitVec 2) ++ BitVec.ofNat 3 pset ++
    (0 : BitVec 1) ++ BitVec.ofBool nan ++ (0 : BitVec 1) ++ BitVec.ofNat 16 A.length

/-! ## Parameters (R331, R344) -/

/-- ρ is a NaN, an infinity or below −0. -/
def rhoBad (p : Nat) : Bool := let x := of32 p; x.isNan || x.isInf || (x.neg && !x.isZero)

/-- The conditions on PSET, PMODE, P1 and P2; EVAL does not read P1 (R332). -/
def projectBad (pset pmode p1 p2 : Nat) : Bool :=
  5 < pset || pmode = 3 ||
  (if pset = 0 then pmode ≠ 0
   else
    (pmode ≠ 0 && (2 < pset || (of32 p2).isNan)) ||
    (pset ≤ 3 && pmode ≠ 1 && rhoBad p1) ||
    (pset = 4 && ((of32 p1).isNan || (of32 p2).isNan || below (of32 p2) (of32 p1))))

/-! ## MADJ on one row (R346) -/

/-- The fields of a record that MADJ reads. -/
def recCount (r : Nat) : Nat := r % 2 ^ 16
def recInside (r : Nat) : Bool := r / 2 ^ 16 % 2 = 1
def recNan (r : Nat) : Bool := r / 2 ^ 17 % 2 = 1
def recSet (r : Nat) : Nat := r / 2 ^ 19 % 8
def recMode (r : Nat) : Nat := r / 2 ^ 22 % 4
def recTau (r : Nat) : Nat := r / 2 ^ 32 % 2 ^ 32
def recMptr (r : Nat) : Nat := r / 2 ^ 64

/-- The ends of the pools of a mask: start and length of each. -/
def poolsOf (n mask : Nat) : List (Nat × Nat) :=
  let starts := (List.range n).filter fun j => j = 0 || mask.testBit j
  starts.map fun b => (b, ((starts.find? fun e => b < e).getD n) - b)

/-- Whether MADJ reads Y for a row. -/
def needsY (pset rec_ : Nat) : Bool := (pset = 2 || pset = 3) && !recNan rec_ && !recInside rec_

/-- g_in of a row from g, the record, the mask, Y and ρ. -/
def madjRow (pset : Nat) (g : List Nat) (rec_ mask : Nat) (ys : List (Bool × Num)) (rho : Nat) : List Nat :=
  let n := g.length
  let gv := g.map of32
  let K := recCount rec_
  let S := (List.range n).filter mask.testBit
  let at_ (l : List Num) (j : Nat) : Num := l.getD j (.zero false)
  let neg (j : Nat) : Bool := ((ys[j]?).map Prod.fst).getD false
  let y := ys.map Prod.snd
  if recNan rec_ then g.map fun _ => dnan32
  else match pset with
  | 1 =>
    if K = 0 then g.map fun _ => 0
    else
      let m := rMean (pickAt gv S) K
      (List.range n).map fun j => if S.contains j then pat (rSub (at_ gv j) m) else 0
  | 4 => (List.range n).map fun j => if S.contains j then g.getD j 0 else 0
  | 5 => (poolsOf n mask).flatMap fun p => List.replicate p.2 (pat (rMean ((gv.drop p.1).take p.2) p.2))
  | _ =>
    if recInside rec_ then g
    else if pset = 2 then
      if K = 0 then g.map fun _ => 0
      else
        let h := (List.range n).map fun j => if neg j then (at_ gv j).negate else at_ gv j
        let m := rMean (pickAt h S) K
        (List.range n).map fun j =>
          if S.contains j then pat (rSub (at_ gv j) (if neg j then m.negate else m)) else 0
    else
      let d := fsum ((List.range n).map fun j => rMul (at_ y j) (at_ gv j))
      let c := rDiv d (rMul (of32 rho) (of32 rho))
      (List.range n).map fun j => pat (rMul (of32 (recTau rec_)) (rSub (at_ gv j) (rMul c (at_ y j))))

end Sys2Proof.Machine
end

