-- ==== Sys2Proof/Machine/Collective.lean ====
section
/-!
DEFINITION. Collectives (R456 to R463): the group descriptor and its meeting, the fixed combining tree, the six kinds, COLL, and the
events of a participant's arrival and expiry.
-/
namespace Sys2Proof.Machine

/-! ## Fields (R456) -/

def gStype (r : Record) : Nat := Record.bits r.g0 32 8
def gDtype (r : Record) : Nat := Record.bits r.g0 40 8
def gOp (r : Record) : Nat := Record.bits r.g0 48 3
def gClass (r : Record) : Nat := Record.bits r.g0 51 2
def gCount (r : Record) : Nat := Record.bits r.g0 64 32
def gRoot (r : Record) : Nat := Record.bits r.g0 112 16

/-! ## The tree (R459) -/

/-- One level: neighbours at distance 1 of the list combine, the lower rank as operand 1. -/
def pairUp {α : Type} (f : α → α → α) : List α → List α
  | a :: b :: r => f a b :: pairUp f r
  | l => l

/-- combine of R459. A level halves the list, so that level l combines ranks 2^l apart. -/
def combineTree {α : Type} (f : α → α → α) (fuel : Nat) (l : List α) : List α :=
  match fuel with
  | 0 => l
  | k + 1 => if l.length ≤ 1 then l else combineTree f k (pairUp f l)

/-- One element of a node of ALLRED and REDSCAT: 0 SUM, 1 MAX, 2 MIN, 3 MAXN, 4 MINN. -/
def nodeElem (t op a b : Nat) : Nat :=
  if t = tFP32 then
    match op with
    | 0 => (add32 a b).1
    | 1 => (minmax32 true false a b).1
    | 2 => (minmax32 false false a b).1
    | 3 => (minmax32 true true a b).1
    | _ => (minmax32 false true a b).1
  else
    let x := intOf t a
    let y := intOf t b
    intCode t (match op with
      | 0 => x + y
      | 1 => max x y
      | 3 => max x y
      | _ => min x y)

/-- rs_node of R462 on FP32 patterns: m, s, then v. -/
def rsNode (x y : List Nat) : List Nat :=
  let m1 := of32 (x.getD 0 0)
  let m2 := of32 (y.getD 0 0)
  let m := (minmaxNum true false m1 m2).1
  let f (a : Num) : Num := if a = .inf true then .zero false else rne (numExp2 (rSub a m)).1
  let one (a b : Nat) : Nat := pat (rAdd (rMul (of32 a) (f m1)) (rMul (of32 b) (f m2)))
  pat m :: ((x.drop 1).zip (y.drop 1)).map fun p => one p.1 p.2

/-! ## Sizes and validation (R458, R459) -/

/-- Bytes of `n` elements: blocks densely packed, their scale bytes after the data. -/
def srcBytes (t n : Nat) : Nat := if isBlock t then n / 32 * (blockBytes t + 1) else n * elemBytes t

def reducesType (t : Nat) : Bool := t = 5 || t = 6 || t = 7 || t = tFP32

/-- The conditions on the record's own fields. -/
def collFieldsBad (kind : Nat) (r : Record) : Bool :=
  let t := gStype r
  let d := gDtype r
  let n := gCount r
  let blocks : Bool := isBlock t && n % 32 ≠ 0
  4 < gOp r ||
  (match kind with
   | 0x40 => !reducesType t || d ≠ t || n = 0
   | 0x41 => !reducesType t || d ≠ t || n = 0
   | 0x42 => !isType t || t = tSCALE8 || blocks || !(d = t || (isBlock t && (d = 0x10 || d = 0x11)))
   | 0x43 => t ≠ 0 || d ≠ 0
   | 0x44 => !isType t || d ≠ t || blocks
   | _ => t ≠ tFP32 || d ≠ t || n = 0 || 16384 < n)

def memberOf (v : Nat) : Member := ⟨v % 2 ^ 16, v / 2 ^ 16 % 8, v / 2 ^ 19 % 64⟩

/-- The descriptor: its fixed part, then the participants, each checked before it is read (R285). Answers P, MYRANK and the list. -/
def readGroup (r : Record) (e : Eng) (s : State) : Except (Nat × Nat) (Nat × Nat × List Byte) × State :=
  let va := r.g3.cursor
  match engCap r.g3 pL va 8 with
  | some x => (.error x, s)
  | none =>
    match s.engReadRange e va 8 with
    | (.error x, s) => (.error x, s)
    | (.ok h, s) =>
      let h := leNat h
      let P := h % 2 ^ 16
      match engCap r.g3 pL (va + 8 : Nat) (8 * P) with
      | some x => (.error x, s)
      | none =>
        match s.engReadRange e (va + 8) (8 * P) with
        | (.error x, s) => (.error x, s)
        | (.ok bs, s) => (.ok (P, h / 2 ^ 16 % 2 ^ 16, bs), s)

def membersOf (P : Nat) (bs : List Byte) : List Member := (upTo P).map fun i => memberOf (leNat ((bs.drop (8 * i)).take 8))

/-- The narrowest scope that contains every participant. -/
def groupScope (ms : List Member) (fabId : Nat) : Nat :=
  if ms.any fun m => m.device ≠ fabId then 4
  else if (ms.map Member.die).eraseDups.length ≤ 1 then 2 else 3

/-- The conditions on the descriptor's content. -/
def collContentBad (kind : Nat) (r : Record) (j : Job) (P rank : Nat) (ms : List Member) (s : State) : Bool :=
  P = 0 || 1024 < P || P ≤ rank ||
  (match ms[rank]? with
   | some m => m.device ≠ s.fabId.toNat || m.die ≠ s.cur.die || m.part ≠ j.part
   | none => true) ||
  (kind = 0x44 && P ≤ gRoot r) ||
  ((s.part j.part).timeline (rTlidx r)).scope.toNat < groupScope ms s.fabId.toNat ||
  (kind = 0x41 && (gCount r % P ≠ 0 || gCount r < P))

/-- Bytes at SRC, and at DST. -/
def collSizes (kind : Nat) (r : Record) (P : Nat) : Nat × Nat :=
  let n := gCount r
  match kind with
  | 0x41 => (srcBytes (gStype r) n, srcBytes (gStype r) n / P)
  | 0x42 => (srcBytes (gStype r) n, P * srcBytes (gDtype r) n)
  | 0x43 => (2 * P, n)
  | 0x45 => (8 + 4 * n, 8 + 4 * n)
  | _ => (srcBytes (gStype r) n, srcBytes (gStype r) n)

/-- Whether a list holds each of 0 to P − 1 once. -/
def isPermutation (P : Nat) (l : List Nat) : Bool := l.length = P && (upTo P).all fun i => l.contains i

/-! ## Links and meetings -/

/-- Whether the links that a participant's messages need are up: the die links to its die, or to the die of the port that leads to its device, and
that port. -/
def State.memberUp (s : State) (die : Nat) (m : Member) : Bool :=
  if m.device = s.fabId.toNat then s.pathUp die m.die
  else
    let p := Config.portOf m.device
    (s.port p).up && s.pathUp die (portDie p)

/-- A message as the fabric carries it to the other devices; its layout is the integrator's (log 7). -/
def collMsgBytes (m : CollMsg) : List Byte :=
  leBytes 8 m.hash.toNat ++ leBytes 2 m.timeline ++ leBytes 8 m.nth ++ leBytes 2 m.rank ++ leBytes 1 m.kind ++ leBytes 1 m.stype ++
    leBytes 1 m.dtype ++ leBytes 1 m.op ++ leBytes 4 m.count ++ leBytes 2 m.root ++ leBytes 1 (if m.confirms then 1 else 0) ++ m.data

/-- A collective message leaves for another device, under its class (R453). -/
def State.collOut (s : State) (dev : Nat) (m : CollMsg) : State :=
  s.portOut (Config.portOf dev) m.cls dev .coll 0 (collMsgBytes m)

def Meeting.is (x : Meeting) (h : Word) (tl n : Nat) : Bool := x.hash = h && x.timeline = tl && x.nth = n

def State.meeting (s : State) (h : Word) (tl n : Nat) : Meeting := (s.meets.find? fun x => x.is h tl n).getD ⟨h, tl, n, [], []⟩

def State.setMeeting (s : State) (x : Meeting) : State :=
  { s with meets := (s.meets.filter fun y => !y.is x.hash x.timeline x.nth) ++ [x] }

/-- A message joins its meeting; the confirmation of a shard stands beside it. -/
def State.meet (s : State) (m : CollMsg) : State :=
  let x := s.meeting m.hash m.timeline m.nth
  s.setMeeting (if m.confirms then { x with confirmed := x.confirmed ++ [m.rank] } else { x with arrived := x.arrived ++ [m] })

/-- Whether the participants that have met differ (R458), or a rank has come twice. -/
def Meeting.differ (x : Meeting) : Bool :=
  let sig (m : CollMsg) : List Nat := [m.kind, m.stype, m.dtype, m.op, m.count, m.root]
  (match x.arrived with
   | m :: r => r.any fun k => sig k ≠ sig m
   | [] => false) || (x.arrived.map CollMsg.rank).eraseDups.length ≠ x.arrived.length

def Meeting.data (x : Meeting) (rank : Nat) : List Byte :=
  match x.arrived.find? fun m => m.rank = rank with
  | some m => m.data
  | none => []

/-! ## The kinds (R459 to R462) -/

def elemsOf (w : Nat) (bs : List Byte) : List Nat := (upTo (bs.length / w)).map fun i => leNat ((bs.drop (w * i)).take w)
def elemsBytes (w : Nat) (l : List Nat) : List Byte := l.flatMap (leBytes w)

/-- What every participant receives of a reducing kind: the root of the tree. -/
def reduceAll (t op : Nat) (srcs : List (List Byte)) : List Byte :=
  let w := elemBytes t
  elemsBytes w ((combineTree (fun a b => (a.zip b).map fun p => nodeElem t op p.1 p.2) 11 (srcs.map (elemsOf w))).headD [])

/-- ALLGATH with conversion: each element decoded under its block's scale and rounded once (R460). -/
def gatherConvert (t d n : Nat) (bs : List Byte) : List Byte :=
  let bb := blockBytes t
  (upTo (n / 32)).flatMap fun b =>
    let v := leNat ((bs.drop (bb * b)).take bb)
    let sc := leNat ((bs.drop (n / 32 * bb + b)).take 1)
    (upTo 32).flatMap fun i => leBytes (elemBytes d) (roundF (fmtOf d) {} (decodeScaled t (blockCode t v i) sc)).1

/-- The bytes that a participant of rank `rank` writes at DST. -/
def collResult (kind : Nat) (r : Record) (rank P : Nat) (perm : List Nat) (x : Meeting) : List Byte :=
  let srcs := (upTo P).map x.data
  match kind with
  | 0x40 => reduceAll (gStype r) (gOp r) srcs
  | 0x41 =>
    let n := (collSizes 0x41 r P).2
    ((reduceAll (gStype r) (gOp r) srcs).drop (rank * n)).take n
  | 0x42 => if gDtype r = gStype r then srcs.flatten else srcs.flatMap (gatherConvert (gStype r) (gDtype r) (gCount r))
  | 0x43 => x.data ((perm.idxOf? rank).getD 0)
  | 0x44 => x.data (gRoot r)
  | _ => elemsBytes 4 ((combineTree rsNode 11 (srcs.map (elemsOf 4))).headD [])

/-! ## A participant's command -/

/-- Whether a participant sends the data at its SRC, or its shard: in a BCAST the root alone does. -/
def contributes (kind : Nat) (r : Record) (rank : Nat) : Bool := kind ≠ 0x44 || rank = gRoot r

/-- The capability checks on SRC and DST (R285): a SRC from which nothing is read has no range. -/
def collCaps (kind : Nat) (r : Record) (rank P : Nat) : Option (Nat × Nat) :=
  let n := collSizes kind r P
  firstOf [engCap r.g1 pL r.g1.cursor (if contributes kind r rank then n.1 else 0),
    engCap r.g2 (if kind = 0x43 then pL ||| pS else pS) r.g2.cursor n.2]

/-- The bytes of the permutation of a RESHARD (R461), which the hash covers; another kind has none. -/
def collPerm (kind : Nat) (r : Record) (P : Nat) (e : Eng) (s : State) : Except (Nat × Nat) (List Byte) × State :=
  if kind ≠ 0x43 then (.ok [], s)
  else match engCap r.g1 pL r.g1.cursor (2 * P) with
  | some x => (.error x, s)
  | none => s.engReadRange e r.g1.cursor (2 * P)

/-- The contribution of a participant: SRC, the shard of a RESHARD, or nothing. -/
def collSource (kind : Nat) (r : Record) (rank P : Nat) (e : Eng) (s : State) : Except (Nat × Nat) (List Byte) × State :=
  if !contributes kind r rank then (.ok [], s)
  else if kind = 0x43 then s.engReadRange e r.g2.cursor (gCount r) else s.engReadRange e r.g1.cursor (collSizes kind r P).1

/-- The n of the next collective of a context on a hash and a timeline, from 0 (R457). -/
def State.nthOf (s : State) (d : Nat) (key : Nat × Word × Nat) : Nat × State :=
  let n := (((s.die d).collNth.find? fun x => x.1 = key).map Prod.snd).getD 0
  (n, s.modDie d fun x => { x with collNth := (x.collNth.filter fun y => y.1 ≠ key) ++ [(key, n + 1)] })

/-- What a participant makes of its group before it sends: the capability checks on SRC and DST, the permutation, and its contribution. -/
def collData (kind : Nat) (r : Record) (rank P : Nat) (perm : Except (Nat × Nat) (List Byte)) (e : Eng) (s : State) :
    Except (Nat × Nat) (List Byte) × State :=
  match collCaps kind r rank P, perm with
  | some x, _ => (.error x, s)
  | none, .error x => (.error x, s)
  | none, .ok pb =>
    if kind = 0x43 && !isPermutation P (elemsOf 2 pb) then (.error (eMalformed, 0), s)
    else collSource kind r rank P e s

/-- A participant sends its message: to the meeting on this device, and to the other devices of the group. -/
def State.collSend (s : State) (ms : List Member) (m : CollMsg) : State :=
  ((((ms.map Member.device).filter fun x => x ≠ s.fabId.toNat).eraseDups).foldl (fun t dev => t.collOut dev m) s).meet m

/-- The participant of a readable group, the collective counted on its pair (R457): its contribution is read and sent. One that cannot send its
contribution fails, and one of a BCAST that has none to send meets the others all the same, so that its failure shows at its own rank alone (R468);
so does one whose links are down (R458). The node of the tree is a merge point, which may hold the message (R479). -/
def collJoin (kind : Nat) (r : Record) (j : Job) (e : Eng) (rank : Nat) (ms : List Member) (bs : List Byte) (s : State) : State :=
  let P := ms.length
  let held := s
  let (perm, s) := collPerm kind r P e s
  match perm with
  | .error x => s.cmdFail j ((collCaps kind r rank P).getD x)
  | .ok pb =>
    let hash := crc64 (bs ++ pb)
    let tl := rTlidx r
    let (n, s) := s.nthOf s.cur.die (j.part, hash, tl)
    let msg (data : List Byte) : CollMsg := ⟨hash, tl, n, rank, kind, gStype r, gDtype r, gOp r, gCount r, gRoot r, data, gClass r, false⟩
    let node (s : State) : Option State := s.merge s.cur.die pointColl (unitSource s.cur.die 4)
    match collData kind r rank P (.ok pb) e s with
    | (.error x, s) =>
      if contributes kind r rank then s.cmdFail j x
      else match node s with
      | some s => (s.collSend ms (msg [])).cmdFail j x
      | none => held
    | (.ok data, s) =>
      match node s with
      | none => held
      | some s =>
        let s := s.collSend ms (msg data)
        if ms.any fun m => !s.memberUp s.cur.die m then s.cmdFail j (eLinkDown, 0)
        else s.setJob { j with started := true, group := some ⟨hash, rank, ms, elemsOf 2 pb⟩, nth := n, since := s.now }

/-- The start (R285, R457, R458). A malformed command whose group is readable is counted on its pair where its list alone gives the hash (log 26). -/
def collStart (kind : Nat) (r : Record) (j : Job) (s : State) : State :=
  let e := s.engOf j
  if collFieldsBad kind r then s.cmdFail j (eMalformed, 0)
  else match readGroup r e s with
  | (.error x, s) => s.cmdFail j x
  | (.ok (P, rank, bs), s) =>
    let ms := membersOf P bs
    if collContentBad kind r j P rank ms s then
      (if kind = 0x43 then s else (s.nthOf s.cur.die (j.part, crc64 bs, rTlidx r)).2).cmdFail j (eMalformed, 0)
    else collJoin kind r j e rank ms bs s

/-- A meeting of `P` participants to which all have come is forgotten when no command of the device waits for it any more. Until then it stands, so
that a participant that comes late meets the others: every participant of a meeting that differs fails (R458). -/
def State.endMeeting (s : State) (h : Word) (tl n P : Nat) : State :=
  let waits : Bool := s.dies.any fun d => d.2.coll.any fun j =>
    j.closing.isNone && rTlidx j.record = tl && j.nth = n && (match j.group with
      | some g => g.hash = h
      | none => false)
  if waits || (((s.meeting h tl n).arrived.map CollMsg.rank).eraseDups.length < P) then s else { s with meets := s.meets.filter fun x => !x.is h tl n }

/-- Whether the old bytes of a participant's shard have been confirmed by their receiver (R461): on this device they stand in the meeting; another
device sends its confirmation. Only a RESHARD overwrites what it sends. -/
def State.shardSafe (s : State) (kind : Nat) (g : Group) (x : Meeting) : Bool :=
  kind ≠ 0x43 ||
  match g.perm[g.rank]? with
  | some to_ => (match g.members[to_]? with
    | some m => m.device = s.fabId.toNat || x.confirmed.contains g.rank
    | none => true)
  | none => true

/-- A started participant: it fails when the participants differ or a link it needs is down, and writes its result when all have met. -/
def collGo (kind : Nat) (r : Record) (j : Job) (g : Group) (s : State) : State :=
  let tl := rTlidx r
  let x := s.meeting g.hash tl j.nth
  let P := g.members.length
  if x.differ then (s.cmdFail j (eMalformed, 0)).endMeeting g.hash tl j.nth P
  else if x.arrived.length < P || !s.shardSafe kind g x then
    (if g.members.any fun m => !s.memberUp s.cur.die m then (s.cmdFail j (eLinkDown, 0)).endMeeting g.hash tl j.nth P else s)
  else
    let (w, s) := s.engWriteRange (s.engOf j) r.g2.cursor (collResult kind r g.rank P g.perm x) 0
    (s.cmdEnd j w).endMeeting g.hash tl j.nth P

/-- The meaning of a collective at its engine: the start of its command, or a later look at its meeting. -/
def runCollective (kind : Nat) (r : Record) (s : State) : Host.Outcome State Fault Refusal :=
  .next <| s.withJob r fun j => match j.group with
    | some g => collGo kind r j g s
    | none => collStart kind r j s

def execAllred (r : Record) (s : State) : Host.Outcome State Fault Refusal := runCollective 0x40 r s
def execRedscat (r : Record) (s : State) : Host.Outcome State Fault Refusal := runCollective 0x41 r s
def execAllgath (r : Record) (s : State) : Host.Outcome State Fault Refusal := runCollective 0x42 r s
def execReshard (r : Record) (s : State) : Host.Outcome State Fault Refusal := runCollective 0x43 r s
def execBcast (r : Record) (s : State) : Host.Outcome State Fault Refusal := runCollective 0x44 r s
def execRsred (r : Record) (s : State) : Host.Outcome State Fault Refusal := runCollective 0x45 r s

/-! ## COLL (R463) -/

def collBody (f : MForm) (_ : Opnds) (s : State) : Res :=
  let r := s.group f.b
  s.gate true (msgHead 0x306 0 64 ++ recordBytes r ++ leBytes 1 (recTags r)) fun s =>
    if rOpcode r < 0x40 || 0x45 < rOpcode r then
      let (pos, s) := s.refuseRecord s.myPart s.mySlot s.myLaunch r
      .done (s.writeData f.d (acceptWord pos false true))
    else
      match s.beforeCommand.submit 5 s.myCluster s.myPart s.mySlot s.myLaunch r with
      | none => .wait s
      | some (pos, s) => .done (s.writeData f.d (acceptWord pos false false))

def execColl (f : MForm) (s : State) : Host.Outcome State Fault Refusal := runPlain (.coll f) 0x306 f (collBody f) s

/-! ## Events -/

/-- COLL_PARTICIPANT_ARRIVE: the message of a participant on the device arg.b arrives at port arg.a. The shard of a RESHARD is confirmed to its
sender (R461). -/
def execCollParticipantArrive (s : State) : Host.Outcome State Fault Refusal :=
  let p := s.arg.a % 18
  .next (match s.arg.pay with
    | .coll m =>
      if !(s.port p).up then s
      else
        match (if m.confirms then some s else s.merge (portDie p) pointColl (unitSource (portDie p) (1024 + p))) with
        | none => s
        | some s =>
          let s := (s.deliver p .coll 0 (collMsgBytes m)).meet m
          if m.kind = 0x43 && !m.confirms then
            s.portOut p m.cls s.arg.b .coll 0 (collMsgBytes { m with confirms := true, data := [] })
          else s
    | _ => s)

/-- COLLECTIVE_EXPIRE: arg.a is the die, arg.b the place of the command. -/
def execCollectiveExpire (s : State) : Host.Outcome State Fault Refusal :=
  let s' : State := { s with cur := .coll s.arg.a s.arg.b }
  .next <| match (s.die s.arg.a).coll[s.arg.b]? with
  | none => s
  | some j => match j.group with
    | none => s
    | some g =>
      let x := s.meeting g.hash (rTlidx j.record) j.nth
      if j.closing.isSome || (s.now - j.since).toNat < 2 ^ 32 ||
        (g.members.length ≤ x.arrived.length && s.shardSafe (rOpcode j.record) g x) then s
      else (s'.cmdFail j (eExpired, 0)).endMeeting g.hash (rTlidx j.record) j.nth g.members.length

end Sys2Proof.Machine
end

