-- ==== Sys2Proof/Machine/Control.lean ====
section
/-!
DEFINITION. Compares and predicates, class 0x3 (R78 to R80), control flow, class 0x4 (R81, R82), their S forms (R45, R46), and the
encodings that are no instruction (R53, R54).
-/
namespace Sys2Proof.Machine

/-! ## Class 0x3 -/

/-- CMP: ext[4] selects bits [31:0]. -/
def cmpBody (f : MForm) (x : Opnds) (s : State) : Res :=
  .done (s.setPred (f.d.setWidth 3) (icmp (f.ext.toNat % 16) (if f.ext.getLsbD 4 then 32 else 64) x.a.dv.toNat x.b.dv.toNat))

def execCmp (f : MForm) (s : State) : Host.Outcome State Fault Refusal := runPlain (.cmp f) 0x0C0 f (cmpBody f) s

def execFcmp (f : MForm) (s : State) : Host.Outcome State Fault Refusal :=
  runPlain (.fcmp f) 0x0C1 f (fun x s =>
    let r := fcmp f.ext.toNat (of32 x.a.dv.toNat) (of32 x.b.dv.toNat)
    .done ((s.addFlags r.2).setPred (f.d.setWidth 3) r.1)) s

/-- PAND, POR and PXOR: ext bit 0 negates the first source, bit 1 the second. -/
def predBody (f : MForm) (g : Bool → Bool → Bool) (_ : Opnds) (s : State) : Res :=
  .done (s.setPred (f.d.setWidth 3)
    (g (s.sl.pred (f.a.setWidth 3) != f.ext.getLsbD 0) (s.sl.pred (f.b.setWidth 3) != f.ext.getLsbD 1)))

def execPand (f : MForm) (s : State) : Host.Outcome State Fault Refusal := runPlain (.pand f) 0x0C2 f (predBody f and) s
def execPor (f : MForm) (s : State) : Host.Outcome State Fault Refusal := runPlain (.por f) 0x0C3 f (predBody f or) s
def execPxor (f : MForm) (s : State) : Host.Outcome State Fault Refusal := runPlain (.pxor f) 0x0C4 f (predBody f xor) s
def execPnot (f : MForm) (s : State) : Host.Outcome State Fault Refusal :=
  runPlain (.pnot f) 0x0C5 f (fun _ s => .done (s.setPred (f.d.setWidth 3) !(s.sl.pred (f.a.setWidth 3)))) s

/-- The predicates as a mask; bit 0 is always 1. -/
def Slot.predMask (sl : Slot) : Word := (sl.preds ||| 1).setWidth 64

def execPget (f : MForm) (s : State) : Host.Outcome State Fault Refusal :=
  runPlain (.pget f) 0x0C6 f (fun _ s => .done (s.writeData f.d s.sl.predMask)) s

/-- The bits of a mask that PFROM may write: 1 to 7 of imm16. -/
def pfromMask (f : MForm) : BitVec 8 := f.imm.setWidth 8 &&& 0xFE

def execPfrom (f : MForm) (s : State) : Host.Outcome State Fault Refusal :=
  runPlain (.pfrom f) 0x0C7 f (fun x s => .done (s.modSl fun sl =>
    { sl with preds := (sl.preds &&& ~~~(pfromMask f)) ||| (x.a.dv.setWidth 8 &&& pfromMask f) })) s

/-! ## Class 0x4 -/

/-- The cursor of PCC moves. -/
def State.goto (s : State) (cursor : Int) : State := s.modSl fun sl => { sl with pcc := sl.pcc.withCursor cursor }

def State.pc (s : State) : Nat := s.sl.pcc.cursor

/-- A branch by a word offset. -/
def State.branch (s : State) (off : Int) : State := s.goto (s.pc + off * 4)

/-- The link of CALL and CALLR: PCC with the cursor at the next instruction (R82). -/
def State.link (s : State) (len : Nat) : State := s.modSl fun sl => sl.setReg 1 (sl.pcc.withCursor (sl.pcc.cursor + len))

/-- cap_transfer of R81: the cause of the trap, if any. -/
def capTransfer (c : Cap) : Option Nat :=
  if !c.tag then some cTag
  else if c.perm &&& pX = 0 then some cPerm
  else if c.cursor % 4 ≠ 0 then some cAlign
  else none

/-- PCC := c. A restore routine ends when its RET reaches the resume PC (R166). -/
def State.transfer (s : State) (c : Cap) : State := s.modSl fun sl => { sl with pcc := c }

def retBody (_ : Opnds) (s : State) : Res :=
  let c := s.reg 1
  match capTransfer c with
  | some cause => .trap s cause c.cursor
  | none =>
    .jump ((s.transfer c).modSl fun sl =>
      if sl.routine = .restore c.cursor then { sl with routine := .none } else sl)

def execBra (f : MForm) (s : State) : Host.Outcome State Fault Refusal :=
  runPlain (.bra f) 0x100 f (fun _ s => .jump (s.branch f.off)) s

/-- JMP (R81). That ADDR of its ALIGNMENT trap is the 64-bit target, before it is cut to the 48 bits of a cursor, is a DESIGN CHOICE (log 60). -/
def execJmp (f : MForm) (s : State) : Host.Outcome State Fault Refusal :=
  runPlain (.jmp f) 0x101 f (fun x s =>
    let t : Word := x.a.dv + BitVec.ofInt 64 (f.immOff * 4)
    if t.setWidth 2 ≠ (0 : BitVec 2) then .trap s cAlign t.toNat
    else .jump (s.goto (t.setWidth 48 : BitVec 48).toNat)) s

def execCall (f : MForm) (s : State) : Host.Outcome State Fault Refusal :=
  runPlain (.call f) 0x102 f (fun _ s => .jump ((s.link f.len).branch f.off)) s

def execCallr (f : MForm) (s : State) : Host.Outcome State Fault Refusal :=
  runPlain (.callr f) 0x103 f (fun x s =>
    match capTransfer x.a with
    | some cause => .trap s cause x.a.cursor
    | none => .jump ((s.link f.len).transfer x.a)) s

def execRet (f : MForm) (s : State) : Host.Outcome State Fault Refusal := runPlain (.ret f) 0x104 f retBody s

def execLoop (f : MForm) (s : State) : Host.Outcome State Fault Refusal :=
  runPlain (.loop f) 0x105 f (fun x s =>
    let v := x.d.dv - 1
    let s := s.writeData f.d v
    if v = 0 then .done s else .jump (s.branch f.off)) s

def execNop (f : MForm) (s : State) : Host.Outcome State Fault Refusal := runPlain (.nop f) 0x106 f (fun _ s => .done s) s

/-! ## S forms -/

/-- The form of an S form without fields. -/
def MFormNone : MForm := .plain 0 0 0 0

/-- CMP: imm8[4:0] is ext. -/
def MFormCmpS (d : BitVec 3) (a b cond : BitVec 5) : MForm := .plain cond (d.setWidth 5) a b

def execCmpS (d : BitVec 3) (a b : BitVec 5) (cond : BitVec 5) (s : State) : Host.Outcome State Fault Refusal :=
  runS (.cmpS d a b cond) 0x0C0 (MFormCmpS d a b cond) (cmpBody (MFormCmpS d a b cond)) s

def execBraS (off : BitVec 22) (s : State) : Host.Outcome State Fault Refusal :=
  runS (.braS off) 0x100 MFormNone (fun _ s => .jump (s.branch off.toInt)) s

def execRetS (s : State) : Host.Outcome State Fault Refusal := runS .retS 0x104 MFormNone retBody s
def execNopS (s : State) : Host.Outcome State Fault Refusal := runS .nopS 0x106 MFormNone (fun _ s => .done s) s

end Sys2Proof.Machine
end

