-- ==== Sys2Proof/Machine/Copy.lean ====
section
/-!
DEFINITION. The commands of the copy engine: CPY, CPYX, GATH, SCAT (R296 to R299).
-/
namespace Sys2Proof.Machine

/-- The source and destination of CPY. -/
def cpyBody (r : Record) (e : Eng) (s : State) : Option (Nat × Nat) × State :=
  let n := Record.bits r.g3 0 64
  match firstOf [engCap r.g1 pL r.g1.cursor n, engCap r.g2 pS r.g2.cursor n] with
  | some x => (some x, s)
  | none => s.moveSegs s e (segsOf r.g1.cursor r.g2.cursor n none) 0

def execCpy (r : Record) (s : State) : Host.Outcome State Fault Refusal := runCommand r (fun _ e s => cpyBody r e s) s

/-! ## CPYX (R298) -/

structure Dim where
  extent : Nat
  sstride : Int
  dstride : Int
deriving DecidableEq, Repr

def dimOf (bs : List Byte) (k : Nat) : Dim :=
  let w (i : Nat) : Word := BitVec.ofNat 64 (leNat ((bs.drop (24 * k + 8 * i)).take 8))
  ⟨(w 0).toNat, (w 1).toInt, (w 2).toInt⟩

/-- The offsets of the elements in iteration order: dimension 0, the first of the list, is the innermost (R122). -/
def dimOffsets (l : List Dim) : List (Int × Int) :=
  match l with
  | [] => [(0, 0)]
  | d :: r => (dimOffsets r).flatMap fun o => (upTo d.extent).map fun (i : Nat) => (o.1 + (i : Int) * d.sstride, o.2 + (i : Int) * d.dstride)

/-- The footprint of some strides: lowest and highest byte. -/
def footOf (base : Int) (size : Nat) (l : List (Nat × Int)) : Int × Nat :=
  if l.any fun p => p.1 = 0 then (base, 0)
  else
    let span (p : Nat × Int) : Int := ((p.1 : Int) - 1) * p.2
    let lo : Int := (l.map fun p => min 0 (span p)).sum
    let hi : Int := (l.map fun p => max 0 (span p)).sum
    (base + lo, (hi - lo).toNat + size)

/-- The descriptor: fixed part, dimensions, each checked and read before its content is checked (R285, R298). -/
def readDims (r : Record) (e : Eng) (s : State) : Except (Nat × Nat) (Nat × List Dim) × State :=
  let va := r.g3.cursor
  match engCap r.g3 pL va 8 with
  | some x => (.error x, s)
  | none =>
    match s.engReadRange e va 8 with
    | (.error x, s) => (.error x, s)
    | (.ok h, s) =>
      let h := leNat h
      let rank := h % 16
      match engCap r.g3 pL (va + 8) (24 * rank) with
      | some x => (.error x, s)
      | none =>
        match s.engReadRange e (va + 8) (24 * rank) with
        | (.error x, s) => (.error x, s)
        | (.ok bs, s) =>
          let dims := (upTo rank).map (dimOf bs)
          let es := h / 256 % 8
          if rank = 0 || 9 < rank || 4 < es || dims.any (fun d => 2 ^ 32 < d.extent) then (.error (eMalformed, va), s)
          else (.ok (2 ^ es, dims), s)

def cpyxBody (r : Record) (e : Eng) (s : State) : Option (Nat × Nat) × State :=
  match readDims r e s with
  | (.error x, s) => (some x, s)
  | (.ok (size, dims), s) =>
    let fs := footOf r.g1.cursor size (dims.map fun d => (d.extent, d.sstride))
    let fd := footOf r.g2.cursor size (dims.map fun d => (d.extent, d.dstride))
    match firstOf [engCap r.g1 pL fs.1 fs.2, engCap r.g2 pS fd.1 fd.2] with
    | some x => (some x, s)
    | none =>
      s.moveSegs s e ((dimOffsets dims).map fun o =>
        let a := eaNat (r.g1.cursor + o.1)
        ⟨a, eaNat (r.g2.cursor + o.2), size, some (a, a + size)⟩) 0

def execCpyx (r : Record) (s : State) : Host.Outcome State Fault Refusal := runCommand r (fun _ e s => cpyxBody r e s) s

/-! ## GATH and SCAT (R297) -/

/-- Row `k` of a table capability: whether it lies inside. -/
def rowInside (c : Cap) (k bytes : Nat) : Bool := c.base ≤ c.cursor + k * bytes && c.cursor + k * bytes + bytes ≤ c.top

/-- The rows in ascending order. `gath` says that the table is the source. -/
def moveRows (gath : Bool) (table dense : Cap) (bytes : Nat) (old : State) (e : Eng) (l : List Nat) (k : Nat) (s : State) :
    Option (Nat × Nat) × State :=
  match l with
  | [] => (none, s)
  | i :: r =>
    if !rowInside table i bytes then (some (eCapFault, k), s)
    else
      let t := table.cursor + i * bytes
      let d := dense.cursor + k * bytes
      match s.moveSegs old e (if gath then segsOf t d bytes (some (t, t + bytes)) else segsOf d t bytes (some (d, d + bytes))) (k * bytes) with
      -- whole rows are the elements whose confirmation counts (R299)
      | (some x, s) => (some (if x.1 = eTargetFull || x.1 = eLinkDown then (x.1, k * bytes) else x), s)
      | (none, s) => moveRows gath table dense bytes old e r (k + 1) s

def rowsBody (gath : Bool) (r : Record) (e : Eng) (s : State) : Option (Nat × Nat) × State :=
  let bytes := Record.bits r.g0 32 32
  let n := Record.bits r.g0 64 64
  let table := if gath then r.g1 else r.g2
  let dense := if gath then r.g2 else r.g1
  if bytes = 0 || 2 ^ 24 < bytes || 2 ^ 32 < n then (some (eMalformed, 0), s)
  else
    match firstOf [engCap r.g1 pL r.g1.cursor (if gath then 0 else n * bytes), engCap r.g2 pS r.g2.cursor (if gath then n * bytes else 0),
        engCap r.g3 pL r.g3.cursor (4 * n)] with
    | some x => (some x, s)
    | none =>
      match s.engReadRange e r.g3.cursor (4 * n) with
      | (.error x, s) => (some x, s)
      | (.ok bs, s) =>
        moveRows gath table dense bytes s e ((upTo n).map fun i => leNat ((bs.drop (4 * i)).take 4)) 0 s

def execGath (r : Record) (s : State) : Host.Outcome State Fault Refusal := runCommand r (fun _ e s => rowsBody true r e s) s
def execScat (r : Record) (s : State) : Host.Outcome State Fault Refusal := runCommand r (fun _ e s => rowsBody false r e s) s

end Sys2Proof.Machine
end

