-- ==== Sys2Proof/Machine/Market.lean ====
section
/-!
DEFINITION. The market engine: lots, submissions and auctions (R349 to R365), and the dispatch unit with its ingress (R300, R366).
-/
namespace Sys2Proof.Machine

/-! ## Lots and their order (R350, R351) -/

/-- Commands accepted before the job whose step it is and not finished. -/
def State.earlier (s : State) : List Job := (s.jobs s.cur).take s.cur.index

/-- An AUCT that names the lot, accepted earlier and not finished (R355, R365). -/
def State.auctAhead (s : State) (lot : Nat) : Bool :=
  s.earlier.any fun j => rOpcode j.record = 0x32 && (lotsOf j.record).contains lot

/-- A command waits for earlier commands on its lots; MKTSUB never waits for an AUCT (R351, R355), and MKTSTAT for nothing while an AUCT that names
its lot has not finished (R365). -/
def State.lotBusy (s : State) (r : Record) : Bool :=
  !(rOpcode r = 0x36 && s.auctAhead (rLot r)) && s.earlier.any fun j =>
    !(rOpcode r = 0x31 && rOpcode j.record = 0x32) && (lotsOf j.record).any fun l => (lotsOf r).contains l

def State.lot (s : State) (n : Nat) : Lot := (s.die s.cur.die).lot n
def State.putLot (s : State) (n : Nat) (l : Lot) : State := s.modLot s.cur.die n fun _ => l

/-- A market command in the order of its lots. -/
def runMarket (r : Record) (body : Job → Eng → State → Option (Nat × Nat) × State) (s : State) : Host.Outcome State Fault Refusal :=
  if s.lotBusy r then .next s else runCommand r body s

def malformed (s : State) : Option (Nat × Nat) × State := (some (eMalformed, 0), s)

/-- A command on one lot that its partition owns. -/
def onLot (r : Record) (body : Job → Eng → Lot → State → Option (Nat × Nat) × State) (j : Job) (e : Eng) (s : State) :
    Option (Nat × Nat) × State :=
  let l := s.lot (rLot r)
  if l.owner = some j.part then body j e l s else malformed s

/-- 32-bit words of a list of bytes. -/
def wordsOf (bs : List Byte) (n : Nat) : List Nat := (upTo n).map fun i => leNat ((bs.drop (4 * i)).take 4)

def mapOf (vs : List Nat) : SMap Nat := vs.mapIdx fun i v => (i, v)
def mapOf32 (vs : List (BitVec 32)) : SMap (BitVec 32) := vs.mapIdx fun i v => (i, v)

def Lot.price (l : Lot) (e : Nat) : Int := ((look l.prices e).getD 0).toInt
def Lot.cap (l : Lot) (e : Nat) : Nat := (look l.caps e).getD 0
def Lot.pricesOf (l : Lot) : List Int := (upTo l.e).map l.price
def Lot.setPrices (l : Lot) (ps : List Int) : Lot := { l with prices := mapOf32 (ps.map fun p => BitVec.ofInt 32 p) }

/-! ## MKTCFG (R352, R353) -/

def setupBody (r : Record) (j : Job) (_ : Eng) (s : State) : Option (Nat × Nat) × State :=
  let l := s.lot (rLot r)
  let e := Record.bits r.g0 64 10
  let k := Record.bits r.g0 74 4
  let lim := Record.bits r.g0 80 12
  let eps := Record.bits r.g0 96 32
  if !(l.owner = none || l.owner = some j.part) || e = 0 || 512 < e || k = 0 || 8 < k || lim = 0 || eps = 0 || 2 ^ 31 ≤ eps
  then malformed s
  else
    let base : Lot := if l.owner = none then {} else l
    (none, s.putLot (rLot r) { base with
      owner := some j.part, e := e, k := k, surplus := r.g0.val.getLsbD 78, roundLim := lim, eps := BitVec.ofNat 32 eps,
      prices := base.prices.filter fun p => p.1 < e, caps := base.caps.filter fun p => p.1 < e })

def execMktcfgSetup (r : Record) (s : State) : Host.Outcome State Fault Refusal := runMarket r (setupBody r) s

def capsBody (r : Record) (_ : Job) (e : Eng) (l : Lot) (s : State) : Option (Nat × Nat) × State :=
  match engCap r.g1 pL r.g1.cursor (4 * l.e) with
  | some x => (some x, s)
  | none =>
    match s.engReadRange e r.g1.cursor (4 * l.e) with
    | (.error x, s) => (some x, s)
    | (.ok bs, s) =>
      let ws := wordsOf bs l.e
      if ws.any fun w => 65536 < w then malformed s else (none, s.putLot (rLot r) { l with caps := mapOf ws })

def execMktcfgCaps (r : Record) (s : State) : Host.Outcome State Fault Refusal := runMarket r (onLot r (capsBody r)) s

def buffersBody (r : Record) (_ : Job) (_ : Eng) (l : Lot) (s : State) : Option (Nat × Nat) × State :=
  match firstOf [engCap r.g1 pS r.g1.cursor 0, engCap r.g2 pS r.g2.cursor 0, engCap r.g3 pL r.g3.cursor 0] with
  | some x => (some x, s)
  | none => (none, s.putLot (rLot r) { l with asgn := r.g1, park := r.g2, rtab := r.g3, pidxOff := Record.bits r.g0 64 32 })

def execMktcfgBuffers (r : Record) (s : State) : Host.Outcome State Fault Refusal := runMarket r (onLot r (buffersBody r)) s

def execMktcfgRelease (r : Record) (s : State) : Host.Outcome State Fault Refusal :=
  runMarket r (onLot r fun _ _ _ s => (none, s.putLot (rLot r) {})) s

/-! ## MKTSUB (R354, R355) -/

def tokensOf (l : List Submission) : Nat := (l.map Submission.ntok).sum

/-- The footprint of the affinity rows of a submission. -/
def Submission.foot (u : Submission) (e : Nat) : Int × Nat :=
  let span : Int := ((u.ntok : Int) - 1) * u.astride
  ((u.aff.cursor : Int) + min 0 span, span.natAbs + 2 * e)

/-- The receipt. -/
def receiptBits (late : Bool) (first : Nat) (auctNo : BitVec 32) : BitVec 128 :=
  (0 : BitVec 64) ++ auctNo ++ BitVec.ofNat 16 first ++ (0 : BitVec 8) ++ BitVec.ofNat 8 (if late then 1 else 0)

/-- The receipt is written first; the submission takes its place when that succeeds (log 12). -/
def mktsubBody (r : Record) (_ : Job) (e : Eng) (l : Lot) (s : State) : Option (Nat × Nat) × State :=
  let u : Submission := ⟨Record.bits r.g0 64 17, (r.g0.val.extractLsb' 96 32).toInt, r.g1⟩
  if u.ntok = 0 || 65536 < u.ntok || u.astride % 2 ≠ 0 then malformed s
  else
    let fp := u.foot l.e
    match firstOf [engCap r.g1 pL fp.1 fp.2, engCap r.g2 pS r.g2.cursor 16] with
    | some x => (some x, s)
    | none =>
      let late := s.auctAhead (rLot r)
      let list := if late then l.late else l.pending
      if 16 ≤ list.length || 65536 / l.k < tokensOf list + u.ntok then (some (eTargetFull, 0), s)
      else
        let receipt := receiptBits late (tokensOf list) (l.auctNo + (if late then 2 else 1))
        match s.engWriteRange e r.g2.cursor (leBytes 16 receipt.toNat) 0 with
        | (some x, s) => (some x, s)
        | (none, s) =>
          (none, s.putLot (rLot r) (if late then { l with late := list ++ [u] } else { l with pending := list ++ [u] }))

def execMktsub (r : Record) (s : State) : Host.Outcome State Fault Refusal := runMarket r (onLot r (mktsubBody r)) s

/-! ## Auctions (R356 to R363) -/

/-- A seat's holder or bidder: its index, its bid, whether it held the seat before. -/
structure Bid where
  bidder : Nat
  bid : Int
  holder : Bool
deriving DecidableEq, Repr

/-- What an auction works on: K, the capacities, ε, the affinities by token. -/
structure AuctionIn where
  k : Nat
  caps : List Nat
  eps : Int
  aff : List (List Int)
deriving DecidableEq, Repr

structure AuctionState where
  hold : List (List Bid)
  prices : List Int
  rounds : Nat
deriving DecidableEq, Repr

def AuctionIn.value (x : AuctionIn) (prices : List Int) (i e : Nat) : Int :=
  ((x.aff.getD (i / x.k) []).getD e 0) * 256 - prices.getD e 0

def AuctionIn.siblings (x : AuctionIn) (i j : Nat) : Bool := i ≠ j && i / x.k = j / x.k
def AuctionIn.bidders (x : AuctionIn) : List Nat := upTo (x.aff.length * x.k)

/-- The expert with the largest value, ties to the lowest. -/
def argMax (v : Nat → Int) (l : List Nat) : Option Nat :=
  match l with
  | [] => none
  | a :: r => some (r.foldl (fun b x => if v b < v x then x else b) a)

/-- One bid of a round: `bids` are those of the bidders before it, as (expert, bid). -/
def AuctionIn.bidOf (x : AuctionIn) (st : AuctionState) (bids : List (Nat × Bid)) (i : Nat) : Option (Nat × Bid) :=
  let v := x.value st.prices i
  let A := (upTo x.caps.length).filter fun e =>
    0 < x.caps.getD e 0 && !((st.hold.getD e []).any fun h => x.siblings i h.bidder) &&
    !(bids.any fun b => b.1 = e && x.siblings i b.2.bidder)
  match argMax v A with
  | none => none
  | some e =>
    let w1 := v e
    let w2 := match argMax v (A.filter (· ≠ e)) with
      | some f => v f
      | none => w1
    some (e, ⟨i, min 0x7FFFFFFF (st.prices.getD e 0 + (w1 - w2) + x.eps), false⟩)

/-- The ranking of R358: higher bid, then a holder, then the lower index. -/
def Bid.before (a b : Bid) : Bool :=
  if a.bid ≠ b.bid then b.bid < a.bid
  else if a.holder ≠ b.holder then a.holder else a.bidder < b.bidder

def insertBid (b : Bid) (l : List Bid) : List Bid :=
  match l with
  | [] => [b]
  | c :: r => if b.before c then b :: c :: r else c :: insertBid b r

def rankBids (l : List Bid) : List Bid := l.foldl (fun acc b => insertBid b acc) []

/-- The bidders without a seat, ascending. -/
def AuctionIn.unplaced (x : AuctionIn) (hold : List (List Bid)) : List Nat :=
  x.bidders.filter fun i => !(hold.any fun h => h.any fun b => b.bidder = i)

def leastBid (l : List Bid) : Int :=
  match l with
  | [] => 0
  | b :: r => r.foldl (fun m c => min m c.bid) b.bid

def AuctionIn.round (x : AuctionIn) (u : List Nat) (st : AuctionState) : AuctionState :=
  let bids := u.foldl (fun (acc : List (Nat × Bid)) i => match x.bidOf st acc i with
    | some b => acc ++ [b]
    | none => acc) []
  let hold := st.hold.mapIdx fun e h =>
    ((rankBids (h ++ (bids.filter fun b => b.1 = e).map Prod.snd)).take (x.caps.getD e 0)).map fun b => { b with holder := true }
  { hold := hold, rounds := st.rounds + 1
    prices := st.prices.mapIdx fun e p =>
      let h := hold.getD e []
      if 0 < x.caps.getD e 0 && h.length = x.caps.getD e 0 then leastBid h else p }

/-- Rounds until every bidder is placed or the limit is reached. -/
def AuctionIn.rounds (x : AuctionIn) (limit : Nat) (st : AuctionState) : AuctionState :=
  match limit with
  | 0 => st
  | n + 1 =>
    let u := x.unplaced st.hold
    if u = [] then st else x.rounds n (x.round u st)

/-- One fallback placement (R359): seats, the bidder's flag FB or FB and DUP. -/
def AuctionIn.place (x : AuctionIn) (st : AuctionState) (i : Nat) : AuctionState × Bool :=
  let v := x.value st.prices i
  let free := (upTo x.caps.length).filter fun e => (st.hold.getD e []).length < x.caps.getD e 0
  let clean := free.filter fun e => !((st.hold.getD e []).any fun h => x.siblings i h.bidder)
  let dup : Bool := clean = []
  match argMax v (if dup then free else clean) with
  | none => (st, false)
  | some e =>
    ({ st with hold := st.hold.mapIdx fun f h => if f = e then h ++ [⟨i, st.prices.getD e 0, true⟩] else h }, dup)

/-- The result of an auction: seats, prices, rounds, the fallback bidders and the DUP ones. -/
structure AuctionOut where
  hold : List (List Bid)
  prices : List Int
  rounds : Nat
  fallback : List Nat
  dups : List Nat
deriving DecidableEq, Repr

def AuctionIn.run (x : AuctionIn) (limit : Nat) (prices : List Int) : AuctionOut :=
  let st := x.rounds limit ⟨x.caps.map fun _ => [], prices, 0⟩
  let u := x.unplaced st.hold
  let r := u.foldl (fun (r : AuctionState × List Nat) i =>
    let p := x.place r.1 i
    (p.1, if p.2 then r.2 ++ [i] else r.2)) (st, [])
  ⟨r.1.hold, st.prices, st.rounds, u, r.2⟩

/-- The assignment entry of bidder `i` (R360): seats in ascending bidder index. -/
def AuctionOut.entry (o : AuctionOut) (i : Nat) : BitVec 32 :=
  let e := o.hold.findIdx fun h => h.any fun b => b.bidder = i
  let seat := ((o.hold.getD e []).filter fun b => b.bidder < i).length
  (0 : BitVec 5) ++ BitVec.ofBool (o.dups.contains i) ++ BitVec.ofBool (o.fallback.contains i) ++ BitVec.ofNat 9 e ++ BitVec.ofNat 16 seat

/-- The affinities of the submissions, read for the experts with seats: rows by token (R354, R358). -/
def readAffinities (e : Eng) (caps : List Nat) (rows : List Nat) (s : State) : Except (Nat × Nat) (List (List Int)) × State :=
  rows.foldl (fun (r : Except (Nat × Nat) (List (List Int)) × State) va =>
    match r with
    | (.error x, t) => (.error x, t)
    | (.ok acc, t) =>
      let q := (upTo caps.length).foldl (fun (q : Except (Nat × Nat) (List Int) × State) k =>
        match q with
        | (.error x, u) => (.error x, u)
        | (.ok vs, u) =>
          if caps.getD k 0 = 0 then (.ok (vs ++ [0]), u)
          else match u.engReadRange e (va + 2 * k) 2 with
            | (.error x, u) => (.error x, u)
            | (.ok bs, u) => (.ok (vs ++ [(BitVec.ofNat 16 (leNat bs)).toInt]), u)) (.ok [], t)
      match q with
      | (.error x, u) => (.error x, u)
      | (.ok vs, u) => (.ok (acc ++ [vs]), u)) (.ok [], s)

/-- The address of every token row of the submissions, in order. -/
def rowAddrs (l : List Submission) : List Nat :=
  l.flatMap fun u => (upTo u.ntok).map fun (t : Nat) => eaNat ((u.aff.cursor : Int) + (t : Int) * u.astride)

/-- One lot of an AUCT: the snapshot, the auction, the last step. Answers the failure (R362). -/
def auctLot (j : Job) (e : Eng) (n : Nat) (s : State) : Option (Nat × Nat) × State :=
  let l := s.lot n
  let tokens := tokensOf l.pending
  let next (l : Lot) : Lot := { l with auctNo := l.auctNo + 1, pending := l.late, late := [], lastFail := false }
  -- a failed lot: the snapshot stands at the head of the pending list, ahead of the late entries
  let back (l : Lot) : Lot := { l with pending := l.pending ++ l.late, late := [], lastFail := true }
  if tokens = 0 then (none, s.putLot n (next { l with rounds := 0, fallback := 0, dups := 0 }))
  else
    let caps := (upTo l.e).map l.cap
    match readAffinities e caps (rowAddrs l.pending) s with
    | (.error x, s) => (some x, s.putLot n (back l))
    | (.ok aff, s) =>
      let x : AuctionIn := ⟨l.k, caps, l.eps.toInt, aff⟩
      let o := x.run l.roundLim l.pricesOf
      match s.engWriteRange e l.asgn.cursor (x.bidders.flatMap fun i => leBytes 4 (o.entry i).toNat) 0 with
      | (some y, s) => (some y, s.putLot n (back l))
      | (none, s) =>
        let s := s.putLot n (next { l.setPrices o.prices with rounds := o.rounds, fallback := o.fallback.length, dups := o.dups.length })
        (none, if o.fallback = [] then s
          else s.cmdRecord j 4 eFallback (o.fallback.length + n * 2 ^ 32))

/-- The conditions of R356 on a lot with tokens. -/
def lotFills (l : Lot) : Bool :=
  let n := tokensOf l.pending
  let caps := (upTo l.e).map l.cap
  n = 0 || ((if l.surplus then n * l.k ≤ caps.sum else caps.sum = n * l.k) && l.k ≤ (caps.filter (0 < ·)).length)

/-- The capabilities that a lot's auction uses. -/
def lotCaps (l : Lot) : Option (Nat × Nat) :=
  let n := tokensOf l.pending
  if n = 0 then none
  else firstOf (engCap l.asgn pS l.asgn.cursor (4 * n * l.k) :: l.pending.map fun u => let f := u.foot l.e; engCap u.aff pL f.1 f.2)

/-- AUCT: the lots in ascending order; the command reports the first failure. -/
def auctBody (r : Record) (j : Job) (e : Eng) (s : State) : Option (Nat × Nat) × State :=
  let lots := lotsOf r
  if lots.any (fun n => 255 < n || (s.lot n).owner ≠ some j.part || !lotFills (s.lot n)) then malformed s
  else match firstOf (lots.map fun n => lotCaps (s.lot n)) with
  | some x => (some x, s)
  | none =>
    lots.foldl (fun (a : Option (Nat × Nat) × State) n =>
      let b := auctLot j e n a.2
      (if a.1.isSome then a.1 else b.1, b.2)) (none, s)

def execAuct (r : Record) (s : State) : Host.Outcome State Fault Refusal := runMarket r (auctBody r) s

/-! ## Prices and status (R364, R365) -/

def clampPrice (v : Int) : Int := max 0 (min 0x7FFFFFFF v)

def mktnormBody (r : Record) (_ : Job) (_ : Eng) (l : Lot) (s : State) : Option (Nat × Nat) × State :=
  let ps := l.pricesOf
  let m := ps.foldl min (ps.headD 0)
  (none, s.putLot (rLot r) (l.setPrices (ps.map fun p => clampPrice (p - m))))

def execMktnorm (r : Record) (s : State) : Host.Outcome State Fault Refusal := runMarket r (onLot r (mktnormBody r)) s

def mktwrpBody (r : Record) (_ : Job) (e : Eng) (l : Lot) (s : State) : Option (Nat × Nat) × State :=
  match engCap r.g1 pL r.g1.cursor (4 * l.e) with
  | some x => (some x, s)
  | none =>
    match s.engReadRange e r.g1.cursor (4 * l.e) with
    | (.error x, s) => (some x, s)
    | (.ok bs, s) => (none, s.putLot (rLot r) { l with prices := mapOf32 ((wordsOf bs l.e).map (BitVec.ofNat 32)) })

def execMktwrp (r : Record) (s : State) : Host.Outcome State Fault Refusal := runMarket r (onLot r (mktwrpBody r)) s

def mktrdpBody (r : Record) (_ : Job) (e : Eng) (l : Lot) (s : State) : Option (Nat × Nat) × State :=
  match engCap r.g1 pS r.g1.cursor (4 * l.e) with
  | some x => (some x, s)
  | none => s.engWriteRange e r.g1.cursor ((upTo l.e).flatMap fun k => leBytes 4 ((look l.prices k).getD 0).toNat) 0

def execMktrdp (r : Record) (s : State) : Host.Outcome State Fault Refusal := runMarket r (onLot r (mktrdpBody r)) s

/-- The status record of R365. -/
def Lot.status (l : Lot) (running : Bool) : BitVec 512 :=
  (0 : BitVec 192) ++ l.eps ++ (0 : BitVec 4) ++ BitVec.ofNat 12 l.roundLim ++ (0 : BitVec 1) ++ BitVec.ofBool l.surplus ++
    BitVec.ofNat 4 l.k ++ BitVec.ofNat 10 l.e ++ (0 : BitVec 14) ++ BitVec.ofBool l.lastFail ++ BitVec.ofBool running ++
    BitVec.ofNat 8 l.late.length ++ BitVec.ofNat 8 l.pending.length ++ BitVec.ofNat 32 (tokensOf l.late) ++
    BitVec.ofNat 32 (tokensOf l.pending) ++ BitVec.ofNat 32 l.parked ++ BitVec.ofNat 32 l.dups ++ BitVec.ofNat 32 l.fallback ++
    (0 : BitVec 16) ++ BitVec.ofNat 16 l.rounds ++ l.auctNo

def mktstatBody (r : Record) (_ : Job) (e : Eng) (l : Lot) (s : State) : Option (Nat × Nat) × State :=
  match engCap r.g1 pS r.g1.cursor 64 with
  | some x => (some x, s)
  | none => s.engWriteRange e r.g1.cursor (leBytes 64 (l.status (s.auctAhead (rLot r))).toNat) 0

def execMktstat (r : Record) (s : State) : Host.Outcome State Fault Refusal := runMarket r (onLot r (mktstatBody r)) s

/-! ## DISPATCH (R300, R366) -/

/-- A read of an aligned granule with its tag, which arrives only from a page with TG. -/
def State.engReadCap (s : State) (e : Eng) (va : Nat) : Except Nat (Cap × Bool) × State :=
  match s.resolve e.via va 16 .load with
  | (.error _, s) => (.error eTranslation, s)
  | (.ok ps, s) =>
    match linkCode e.via.die false s ps with
    | some c => (.error c, s)
    | none =>
      let tg : Bool := va % 16 = 0 && ps.all fun p => match p.loc with
        | .spad _ => true
        | .mem _ pg => pg.tg
      let (g, s) := s.readPieces e.via ps false
      (.ok (⟨BitVec.ofNat 128 (leNat g.bytes), g.tag && tg⟩, g.poison), s)

/-- An entry of the residence table: BUF and the word after it. -/
def readResidence (e : Eng) (rtab : Cap) (x : Nat) (s : State) : Except (Nat × Nat) (Cap × Nat) × State :=
  let va := rtab.cursor + 32 * x
  match engCap rtab pL va 32 with
  | some y => (.error y, s)
  | none =>
    match s.engReadCap e va with
    | (.error c, s) => (.error (failAddr c va 0), s)
    | (.ok (buf, poison), s) =>
      if poison then (.error (eUncorrectable, va), s)
      else match s.engReadRange e (va + 16) 16 with
        | (.error y, s) => (.error y, s)
        | (.ok bs, s) => (.ok (buf, leNat bs), s)

/-- A row of tokens: its bytes and which of them are poisoned. -/
def State.readRow (s : State) (e : Eng) (va n : Nat) : Except (Nat × Nat) (List Byte × List Bool) × State :=
  (chunksOf va n).foldl (fun (r : Except (Nat × Nat) (List Byte × List Bool) × State) c =>
    match r with
    | (.error x, t) => (.error x, t)
    | (.ok (bs, p), t) =>
      match t.engRead e c.1 c.2 with
      | (.error code, t) => (.error (failAddr code c.1 0), t)
      | (.ok (g, q), t) => (.ok (bs ++ g, p ++ q), t)) (.ok ([], []), s)

/-- A row written with its poison; `done` bytes stand confirmed. -/
def State.writeRow (s : State) (e : Eng) (va : Nat) (bs : List Byte) (poison : List Bool) (done : Nat) : Option (Nat × Nat) × State :=
  (chunksOf va bs.length).foldl (fun (r : Option (Nat × Nat) × State) c =>
    match r with
    | (some x, t) => (some x, t)
    | (none, t) =>
      match t.engWrite e c.1 ((bs.drop (c.1 - va)).take c.2) ((poison.drop (c.1 - va)).take c.2) with
      | (.error code, t) => (some (failAddr code c.1 (done + (c.1 - va))), t)
      | (.ok (), t) => (none, t)) (none, s)

/-- What a DISPATCH gathers while it goes through its tokens: the table entries read so far, the packets, the parked rows, the bytes
written. -/
structure DispatchRun where
  table : SMap (Cap × Nat)
  packets : List Packet
  parked : Nat
  bytes : Nat
deriving DecidableEq, Repr

/-- The entry of an expert, read once. -/
def DispatchRun.lookup (d : DispatchRun) (e : Eng) (rtab : Cap) (x : Nat) (s : State) :
    Except (Nat × Nat) (Cap × Nat) × DispatchRun × State :=
  match look d.table x with
  | some v => (.ok v, d, s)
  | none =>
    match readResidence e rtab x s with
    | (.error y, s) => (.error y, d, s)
    | (.ok v, s) => (.ok v, { d with table := put d.table x v }, s)

/-- The entries of one token's copies. -/
def DispatchRun.lookups (d : DispatchRun) (e : Eng) (rtab : Cap) (l : List Nat) (s : State) :
    Except (Nat × Nat) (List (Cap × Nat)) × DispatchRun × State :=
  match l with
  | [] => (.ok [], d, s)
  | x :: r =>
    match d.lookup e rtab x s with
    | (.error y, d, s) => (.error y, d, s)
    | (.ok v, d, s) =>
      match d.lookups e rtab r s with
      | (.error y, d, s) => (.error y, d, s)
      | (.ok vs, d, s) => (.ok (v :: vs), d, s)

/-- A parked row: the row, then its index entry. -/
def DispatchRun.park (d : DispatchRun) (e : Eng) (l : Lot) (bytes token expert copy : Nat) (row : List Byte) (poison : List Bool) (s : State) :
    Option (Nat × Nat) × DispatchRun × State :=
  let va := l.park.cursor + d.parked * bytes
  let ia := l.park.cursor + l.pidxOff + 4 * d.parked
  match firstOf [engCap l.park pS va bytes, engCap l.park pS ia 4] with
  | some x => (some x, d, s)
  | none =>
    match s.writeRow e va row poison d.bytes with
    | (some x, s) => (some x, d, s)
    | (none, s) =>
      let idx : BitVec 32 := (0 : BitVec 4) ++ BitVec.ofNat 3 copy ++ BitVec.ofNat 9 expert ++ BitVec.ofNat 16 token
      match s.engWriteRange e ia (leBytes 4 idx.toNat) (d.bytes + bytes) with
      | (some x, s) => (some x, d, s)
      | (none, s) => (none, { d with parked := d.parked + 1, bytes := d.bytes + bytes }, s)

/-- One token: its packets, then its parked copies. `as_` are its assignment entries. -/
def DispatchRun.token (d : DispatchRun) (e : Eng) (l : Lot) (rows : Cap) (bytes t : Nat) (as_ : List Nat) (s : State) :
    Option (Nat × Nat) × DispatchRun × State :=
  match s.readRow e (rows.cursor + t * bytes) bytes with
  | (.error x, s) => (some x, d, s)
  | (.ok (row, poison), s) =>
    let experts := as_.map fun a => a / 2 ^ 16 % 512
    match d.lookups e l.rtab experts s with
    | (.error x, d, s) => (some x, d, s)
    | (.ok es, d, s) =>
      let here := (as_.zip es).filter fun p => p.2.1.tag && p.2.2 % 2 = 1
      let dies := (upTo 8).filter fun n => here.any fun p => p.2.2 / 2 % 8 = n
      let d := dies.foldl (fun (d : DispatchRun) n =>
        { d with packets := d.packets ++ [⟨d.packets.length, n, bytes, row, poison,
          (here.filter fun p => p.2.2 / 2 % 8 = n).map fun p => (p.2.1, p.1 % 2 ^ 16)⟩] }) d
      ((as_.zip es).mapIdx fun c p => (c, p)).foldl (fun (r : Option (Nat × Nat) × DispatchRun × State) q =>
        match r with
        | (some x, d, s) => (some x, d, s)
        | (none, d, s) =>
          if q.2.2.1.tag && q.2.2.2 % 2 = 1 then (none, d, s)
          else d.park e l bytes t (q.2.1 / 2 ^ 16 % 512) q.1 row poison s) (none, d, s)

def DispatchRun.tokens (d : DispatchRun) (e : Eng) (l : Lot) (rows : Cap) (bytes k : Nat) (ts : List Nat) (entries : List Nat) (s : State) :
    Option (Nat × Nat) × DispatchRun × State :=
  match ts with
  | [] => (none, d, s)
  | t :: r =>
    match d.token e l rows bytes t ((entries.drop (t * k)).take k) s with
    | (some x, d, s) => (some x, d, s)
    | (none, d, s) => d.tokens e l rows bytes k r entries s

/-- The packets of a job go out, to the dies whose links work. -/
def State.sendPackets (s : State) (j : Job) (ps : List Packet) : State :=
  { s with net := s.net ++ (ps.filter fun p => s.pathUp s.cur.die p.die).map fun p => Msg.row s.cur.die j.order p s.now }

/-- DISPATCH at its start: rows read, packets sent, rows parked. -/
def dispatchStart (r : Record) (j : Job) (s : State) : State :=
  let bytes := Record.bits r.g0 32 32
  let n := Record.bits r.g0 72 17
  let k := Record.bits r.g0 89 4
  let lot := dispatchLot r
  let e := s.engOf j
  -- PARKED counts the rows of this DISPATCH from its start (R365)
  let s := if (s.lot lot).owner = some j.part then s.putLot lot { s.lot lot with parked := 0 } else s
  let l := s.lot lot
  if l.owner ≠ some j.part || bytes % 16 ≠ 0 || bytes = 0 || 65536 < bytes || n = 0 || 65536 < n || k = 0 || 8 < k || 65536 < n * k ||
      ((s.part j.part).timeline (rTlidx r)).scope.toNat < 3 then s.cmdFail j (eMalformed, 0)
  else match firstOf [engCap r.g1 pL r.g1.cursor (n * bytes), engCap r.g2 pL r.g2.cursor (4 * n * k)] with
  | some x => s.cmdFail j x
  | none =>
    match s.engReadRange e r.g2.cursor (4 * n * k) with
    | (.error x, s) => s.cmdFail j x
    | (.ok bs, s) =>
      match DispatchRun.tokens ⟨[], [], 0, 0⟩ e l r.g1 bytes k (upTo n) (wordsOf bs (n * k)) s with
      | (some x, d, s) => (s.putLot lot { l with parked := d.parked }).cmdFail j x
      | (none, d, s) =>
        let s := s.putLot lot { l with parked := d.parked }
        let j := { j with started := true, packets := d.packets, parkedRows := d.parked, confirmed := d.bytes }
        if d.packets = [] then s.cmdDone j else (s.setJob j).sendPackets j d.packets

/-- A started DISPATCH: packets that the transport has lost go out again; a die out of reach fails the command. -/
def dispatchAgain (j : Job) (s : State) : State :=
  if j.packets.any fun p => !s.pathUp s.cur.die p.die then s.cmdFail j (eLinkDown, j.confirmed)
  else s.sendPackets j (j.packets.filter fun p => !(s.net.any fun m => match m with
    | .row d o q _ => d = s.cur.die && o = j.order && q.num = p.num
    | _ => false))

def execDispatch (r : Record) (s : State) : Host.Outcome State Fault Refusal :=
  .next <| s.withJob r fun j => if j.started then dispatchAgain j s else dispatchStart r j s

/-- The seats of a packet, one after another. -/
def ingressWrite (e : Eng) (p : Packet) (dest : List (Cap × Nat)) (done : Nat) (s : State) : Option (Nat × Nat) × State :=
  match dest with
  | [] => (none, s)
  | (buf, seat) :: r =>
    let va := buf.cursor + seat * p.rowBytes
    match engCap buf pS va p.rowBytes with
    | some x => (some x, s)
    | none =>
      match s.writeRow e va p.data p.poison done with
      | (some x, s) => (some x, s)
      | (none, s) => ingressWrite e p r (done + p.rowBytes) s

/-- DISPATCH_INGRESS: arg.a is the place of the message. A packet of a command that has ended makes no access (R241). -/
def execDispatchIngress (s : State) : Host.Outcome State Fault Refusal :=
  .next <| match s.net[s.arg.a]? with
  | some (.row src order p _) =>
    let s := { s with net := s.net.eraseIdx s.arg.a }
    match (s.die src).dispatch.findIdx? fun j => j.order = order with
    | none => s
    | some i =>
      match (s.die src).dispatch[i]? with
      | none => s
      | some j =>
        let s := { s with cur := .dispatch src i }
        let base := s.engOf j
        let e : Eng := { base with via := { base.via with die := p.die } }
        match ingressWrite e p p.dest j.confirmed s with
        | (some x, s) => s.cmdFail j x
        | (none, s) =>
          if !(j.packets.any fun q => q.num = p.num) then s
          else
            let j := { j with packets := j.packets.filter fun q => q.num ≠ p.num, confirmed := j.confirmed + p.dest.length * p.rowBytes }
            if j.packets = [] then s.cmdDone j else s.setJob j
  | _ => s

end Sys2Proof.Machine
end

