-- ==== Sys2Proof/Machine/Matrix.lean ====
section
/-!
DEFINITION. The quad matrix engine (R310 to R330): slices and their arbitration, the product classes, every matrix command, the drain
with its projector (R331 to R348), tile controls, the census (R478).
-/
namespace Sys2Proof.Machine

/-! ## Product classes (R317) -/

/-- The class of a type: 1 BF16, 2 FP16, 3 FP8, 4 MX 8-bit, 5 MXFP4, 6 BL6; 0 for none. -/
def classOf (t : Nat) : Nat := match t with
  | 0x11 => 1 | 0x12 => 2 | 0x13 => 3 | 0x14 => 3
  | 0x20 => 4 | 0x21 => 4 | 0x22 => 4 | 0x23 => 4 | 0x25 => 4 | 0x24 => 5 | 0x26 => 6
  | _ => 0

def groupOf (t : Nat) : Nat := if classOf t ≤ 2 then 8 else 32
def kLimit (t : Nat) : Nat := match classOf t with
  | 1 => 64 | 2 => 64 | 3 => 128 | 4 => 128 | _ => 256

/-! ## Fields of the records (R318 to R325, R345) -/

def xTile (r : Record) : Nat := Record.bits r.g0 32 2
def xPair (r : Record) : Bool := r.g0.val.getLsbD 34
def xKey (r : Record) : Nat := Record.bits r.g0 48 16
def xAcc (r : Record) : Bool := r.g0.val.getLsbD 35
def xDsta (r : Record) : Nat := Record.bits r.g0 36 1
def xKblk (r : Record) : Nat := Record.bits r.g0 37 2
def xNacc (r : Record) : Nat := Record.bits r.g0 39 1
def xSite (r : Record) : Nat := Record.bits r.g0 112 16
def xStride (r : Record) : Int := (r.g3.val.extractLsb' 0 32).toInt
def xScaleOff (r : Record) : Nat := Record.bits r.g3 32 32
/-- MLDA. -/
def aRows (r : Record) : Nat := Record.bits r.g0 33 7
def aCols (r : Record) : Nat := Record.bits r.g0 40 7
/-- MDRAIN. -/
def dSrca (r : Record) : Nat := Record.bits r.g0 32 1
def dPaira (r : Record) : Bool := r.g0.val.getLsbD 33
def dTile (r : Record) : Bool := r.g0.val.getLsbD 34
def dDtk (r : Record) : Nat := Record.bits r.g0 35 2
def dType (r : Record) : Nat := Record.bits r.g0 37 8
def dRc (r : Record) : Nat := Record.bits r.g0 45 3
def dSat (r : Record) : Bool := r.g0.val.getLsbD 48
def dRows (r : Record) : Nat := Record.bits r.g0 49 7
def dCols (r : Record) : Nat := Record.bits r.g0 56 8
def dSeed (r : Record) : BitVec 32 := r.g0.val.extractLsb' 64 32
def dPset (r : Record) : Nat := Record.bits r.g0 96 3
def dPmode (r : Record) : Nat := Record.bits r.g0 99 2
def dP1 (r : Record) : Nat := Record.bits r.g3 64 32
def dP2 (r : Record) : Nat := Record.bits r.g3 96 32
/-- MADJ. -/
def jRows (r : Record) : Nat := Record.bits r.g0 34 7
def jCols (r : Record) : Nat := Record.bits r.g0 41 8
def jPset (r : Record) : Nat := Record.bits r.g0 49 3
def jYtype (r : Record) : Nat := Record.bits r.g0 52 8

/-! ## Registers of the engine (R310) -/

def State.mxCtl (s : State) (core k : Nat) : BitVec 32 := (s.coreBank (s.coreKey core)).ctl[k % 4]'(Nat.mod_lt _ (by decide))
def State.mxTile (s : State) (core k : Nat) : Tile := (s.coreBank (s.coreKey core)).tiles[k % 4]'(Nat.mod_lt _ (by decide))
def State.mxAcc (s : State) (core k : Nat) : Acc := (s.coreBank (s.coreKey core)).acc[k % 2]'(Nat.mod_lt _ (by decide))
def State.setTile (s : State) (core k : Nat) (t : Tile) : State :=
  s.modCoreBank (s.coreKey core) fun b => { b with tiles := b.tiles.set (k % 4) t (Nat.mod_lt _ (by decide)) }
def State.setAcc (s : State) (core k : Nat) (a : Acc) : State :=
  s.modCoreBank (s.coreKey core) fun b => { b with acc := b.acc.set (k % 2) a (Nat.mod_lt _ (by decide)) }

/-- The resident weight block of the quad of a core. -/
def State.mxWeights (s : State) (core : Nat) : Weights :=
  (s.quad (quadOf core)).weights[s.liveBank core % 2]'(Nat.mod_lt _ (by decide))
def State.setWeights (s : State) (core : Nat) (w : Weights) : State :=
  let b := s.liveBank core
  s.modQuad (quadOf core) fun q => { q with weights := q.weights.set (b % 2) w (Nat.mod_lt _ (by decide)) }

/-- A value under a key of a map that lists no zero. -/
def putNZ (m : SMap Nat) (k v : Nat) : SMap Nat := if v = 0 then del m k else put m k v
def putAll (m : SMap Nat) (l : List (Nat × Nat)) : SMap Nat := l.foldl (fun m p => putNZ m p.1 p.2) m

/-- Free values of `bits` bits under some keys (log 4). -/
def State.freeInto (s : State) (m : SMap Nat) (keys : List Nat) (bits : Nat) : SMap Nat × State :=
  keys.foldl (fun (r : SMap Nat × State) k =>
    let (w, s) := r.2.draw
    (putNZ r.1 k (w.toNat % 2 ^ bits), s)) (m, s)

/-- The keys of the first `rows` rows and `cols` columns of a map whose rows are `pitch` apart. -/
def gridKeys (pitch rows cols : Nat) : List Nat := (upTo rows).flatMap fun r => (upTo cols).map fun c => pitch * r + c

/-- A tile whose every element under its control is a free value: after a failure (R327), or read under another control than the one it was
written under, since the arrangement of its bits is not architectural (R310). Bits that are all zero read as zero. -/
def State.freeTile (s : State) (ctl : BitVec 32) : Tile × State :=
  let t := tileType ctl
  let (es, s) := s.freeInto [] (gridKeys 512 (tileRows ctl) (tileCols ctl)) (elemBits t)
  let (ss, s) := if isBlock t then s.freeInto [] (gridKeys 16 (tileRows ctl) (tileCols ctl / 32)) 8 else ([], s)
  ({ ctl := ctl, elems := es, scales := ss }, s)

def State.tileUnder (s : State) (core k : Nat) : Tile × State :=
  let t := s.mxTile core k
  let c := s.mxCtl core k
  if t.ctl = c || (t.elems = [] && t.scales = []) then ({ t with ctl := c }, s)
  else let (u, s) := s.freeTile c; ({ u with poison := t.poison }, s)

/-- Whether a poisoned word lies in bits [lo, hi) of a store whose words are listed from `base` on. -/
def poisonIn (l : List Nat) (base lo hi : Nat) : Bool := l.any fun w => base ≤ w && 64 * (w - base) < hi && lo < 64 * (w - base) + 64

/-- Whether a row of a tile under its control, or its scale bytes, meets poison (R216, R217). -/
def Tile.rowPoison (t : Tile) (r : Nat) : Bool :=
  let n := tileCols t.ctl * elemBits (tileType t.ctl)
  let k := if isBlock (tileType t.ctl) then tileCols t.ctl / 32 * 8 else 0
  poisonIn (t.poison.filter fun w => w < 1024) 0 (n * r) (n * (r + 1)) || poisonIn t.poison 1024 (k * r) (k * (r + 1))

/-- The words that a command has overwritten once it has written the rows below `last` lose their poison (R217). -/
def Tile.cleaned (t : Tile) (last : Nat) : Tile :=
  let n := tileCols t.ctl * elemBits (tileType t.ctl) * last
  let k := tileCols t.ctl / 32 * 8 * last
  let fin : Bool := tileRows t.ctl ≤ last
  { t with poison := t.poison.filter fun w =>
      if w < 1024 then (if fin then n ≤ 64 * w else n < 64 * (w + 1))
      else (if fin then k ≤ 64 * (w - 1024) else k < 64 * (w - 1024 + 1)) }

/-- Whether `n` columns of a row of an accumulator meet poison. -/
def Acc.rowPoison (a : Acc) (row n : Nat) : Bool := poisonIn a.poison 0 (64 * row * 32) (64 * row * 32 + 32 * n)

/-- The tile operand of a product or a weight load: one tile, or two joined along their columns (R317). -/
structure Oper where
  typ : Nat
  rows : Nat
  cols : Nat
  first : Tile
  second : Tile
deriving DecidableEq, Repr

def State.oper (s : State) (core k : Nat) (pair : Bool) : Oper × State :=
  let (t, s) := s.tileUnder core k
  let (u, s) := if pair then s.tileUnder core (k + 1) else ({}, s)
  (⟨tileType t.ctl, tileRows t.ctl, tileCols t.ctl + (if pair then tileCols u.ctl else 0), t, u⟩, s)

def Oper.poison (o : Oper) (rows : List Nat) : Bool := rows.any fun r => o.first.rowPoison r || o.second.rowPoison r
def Oper.code (o : Oper) (r c : Nat) : Nat :=
  let n := tileCols o.first.ctl
  (if c < n then look o.first.elems (512 * r + c) else look o.second.elems (512 * r + (c - n))).getD 0
def Oper.scale (o : Oper) (r b : Nat) : Nat :=
  let n := tileCols o.first.ctl / 32
  (if b < n then look o.first.scales (16 * r + b) else look o.second.scales (16 * r + (b - n))).getD 0

def Weights.code (w : Weights) (k n : Nat) : Nat := (look w.elems (w.k * n + k)).getD 0
def Weights.scale (w : Weights) (k n : Nat) : Nat := (look w.scales (w.k / 32 * n + k / 32)).getD 0
/-- Whether the codes k in [lo, hi) of every n, or their scales, meet poison. -/
def Weights.badIn (w : Weights) (lo hi : Nat) : Bool :=
  let b := elemBits w.typ.toNat
  (upTo w.n).any fun n =>
    poisonIn (w.poison.filter fun i => i < 2048) 0 ((w.k * n + lo) * b) ((w.k * n + hi) * b) ||
    (isBlock w.typ.toNat && poisonIn w.poison 2048 ((w.k / 32 * n + lo / 32) * 8) ((w.k / 32 * n + (hi + 31) / 32) * 8))

/-! ## Products (R113, R114, R320) -/

def prodOf (ta tw ca cw : Nat) : Num := if ta = tBL6 then bl6Product ca cw else (numMul (decodeElem ta ca) (decodeElem tw cw)).1

/-- The exact sum of some products: a NaN, an infinity, or the sum with zero as +0 (R114). -/
def exactSum (l : List Num) : Num :=
  match l.foldl (fun a x => (numAdd 0 a x).1) (.zero false) with
  | .fin n m e t => if m = 0 then .zero false else .fin n m e t
  | x => x

def scaleBy (x : Num) (sc : Nat) : Num := if sc = 255 then .nan false else x.scale ((sc : Int) - 127)

/-- One addition of a group to an accumulator pattern. -/
def addGroup (acc : Nat) (S : Num) : Nat := pat (numAdd 0 (of32 acc) S).1

def mmaElem (o : Oper) (w : Weights) (m n acc : Nat) : Nat :=
  let G := groupOf o.typ
  (upTo ((w.k + G - 1) / G)).foldl (fun v g =>
    let ks := (upTo (min G (w.k - g * G))).map fun i => g * G + i
    let S := exactSum (ks.map fun k => prodOf o.typ w.typ.toNat (o.code m k) (w.code k n))
    addGroup v (if isBlock o.typ then scaleBy (scaleBy S (o.scale m g)) (w.scale (g * G) n) else S)) acc

def mmatElem (o : Oper) (w : Weights) (m k acc : Nat) : Nat :=
  let G := groupOf o.typ
  (upTo (w.n / G)).foldl (fun v g =>
    let ns := (upTo G).map fun i => g * G + i
    let S := exactSum (ns.map fun n =>
      let p := prodOf o.typ w.typ.toNat (o.code m n) (w.code k n)
      if isBlock o.typ then scaleBy p (w.scale k n) else p)
    addGroup v (if isBlock o.typ then scaleBy S (o.scale m g) else S)) acc

/-! ## The census (R478) -/

/-- Counts of NaN, infinity, saturation and underflow. -/
structure Census where
  nan : Nat := 0
  inf : Nat := 0
  sat : Nat := 0
  und : Nat := 0
deriving DecidableEq, Repr

def Census.add (a b : Census) : Census := ⟨a.nan + b.nan, a.inf + b.inf, a.sat + b.sat, a.und + b.und⟩
def censusOf (x : Num) (fl : Flags) : Census :=
  ⟨if x.isNan then 1 else 0, if x.isInf then 1 else 0, if fl &&& SA ≠ 0 then 1 else 0, if fl &&& UF ≠ 0 then 1 else 0⟩
def censusSum (l : List Census) : Census := l.foldl Census.add {}

/-- The twin of a primary counts nothing of its own (R390). -/
def State.census (s : State) (core site : Nat) (c : Census) : State :=
  let base := s.csr (dieOf core) 0x4C9
  if site = 0 || !base.getLsbD 0 || s.isTwin core then s
  else
    let pa := (base.extractLsb' 18 34).toNat * 2 ^ 18 + 16 * site
    let s := s.combine (pa / 64)
    s.rawWrite pa (([c.nan, c.inf, c.sat, c.und].mapIdx fun i v =>
      leBytes 4 (min 0xFFFFFFFF (leNat (s.mem.bytes (pa + 4 * i) 4) + v))).flatten)

/-! ## Validation (R326, R344, R347) -/

def badWhen (b : Bool) : Option (Nat × Nat) := if b then some (eMalformed, 0) else none

/-- A tile operand that is no operand: type 0, or a pair that does not join. -/
def State.operBad (s : State) (core k : Nat) (pair : Bool) : Bool :=
  let a := s.mxCtl core k
  let b := s.mxCtl core (k + 1)
  tileType a = 0 || (pair && (k % 2 = 1 || tileType a ≠ tileType b || tileRows a ≠ tileRows b))

def State.operCols (s : State) (core k : Nat) (pair : Bool) : Nat :=
  tileCols (s.mxCtl core k) + (if pair then tileCols (s.mxCtl core (k + 1)) else 0)

/-- The capability checks of a strided range of rows and of its scale stream. -/
def rowCaps (c : Cap) (perm : BitVec 7) (rows rowBytes : Nat) (stride : Int) (scaleOff scaleBytes : Nat) : Option (Nat × Nat) :=
  let f := footOf c.cursor rowBytes [(rows, stride)]
  firstOf [engCap c perm f.1 f.2, if scaleBytes = 0 then none else engCap c perm (c.cursor + scaleOff : Nat) scaleBytes]

def rowBytesOf (t cols : Nat) : Nat := (cols * elemBits t + 7) / 8
def scaleBytesOf (t cols : Nat) : Nat := if isBlock t then cols / 32 else 0
def unaligned (r : Record) : Bool := r.g1.cursor % 16 ≠ 0 || xStride r % 16 ≠ 0

def drainBad (s : State) (core : Nat) (r : Record) : Bool :=
  let t := dType r
  let ctl := s.mxCtl core (dDtk r)
  dRows r = 0 || 64 < dRows r || dCols r = 0 || (if dPaira r then 128 else 64) < dCols r || (dPaira r && dSrca r = 1) ||
  projectBad (dPset r) (dPmode r) (dP1 r) (dP2 r) ||
  (dPmode r ≠ 1 && (
    !(isInt t || isFloat t || isBlock t) || 6 ≤ dRc r || (t = tBL6 && dRc r ≠ 0 && dRc r ≠ 1 && dRc r ≠ 4) ||
    (isBlock t && dCols r % 32 ≠ 0) ||
    (if dTile r then tileBits t = 0 || tileType ctl ≠ t || tileRows ctl ≠ dRows r || tileCols ctl ≠ dCols r || xStride r % 16 ≠ 0
     else unaligned r)))

def adjBad (r : Record) : Bool :=
  let p := jPset r
  p = 0 || 5 < p || jRows r = 0 || 64 < jRows r || jCols r = 0 || (if dPaira r then 128 else 64) < jCols r ||
  (dPaira r && dSrca r = 1) ||
  ((p = 2 || p = 3) && (jYtype r < 0x10 || 0x14 < jYtype r || unaligned r)) || (p = 3 && rhoBad (dP1 r))

/-- What fails a command when it starts, conditions on the weight block apart. -/
def State.matrixCheck (s : State) (core : Nat) (i : Instr) : Option (Nat × Nat) :=
  match i with
  | .mwload r => badWhen (s.operBad core (xTile r) (xPair r) ||
      kLimit (tileType (s.mxCtl core (xTile r))) < s.operCols core (xTile r) (xPair r))
  | .mma r => badWhen (s.operBad core (xTile r) (xPair r))
  | .mmat r => badWhen (s.operBad core (xTile r) false || 1 < xDsta r + xNacc r)
  | .mldt r | .mstt r =>
    let c := s.mxCtl core (xTile r)
    let t := tileType c
    firstOf [badWhen (t = 0 || unaligned r),
      rowCaps r.g1 (match i with | .mldt _ => pL | _ => pS) (tileRows c) (rowBytesOf t (tileCols c)) (xStride r) (xScaleOff r)
        (tileRows c * scaleBytesOf t (tileCols c))]
  | .mlda r =>
    firstOf [badWhen (aRows r = 0 || 64 < aRows r || aCols r = 0 || 64 < aCols r || unaligned r),
      rowCaps r.g1 pL (aRows r) (4 * aCols r) (xStride r) 0 0]
  | .mdrain r | .mdrainEval r | .mdrainApply r =>
    firstOf [badWhen (drainBad s core r),
      if dPmode r = 1 || dTile r then none
      else rowCaps r.g1 pS (dRows r) (rowBytesOf (dType r) (dCols r)) (xStride r) (xScaleOff r) (dRows r * scaleBytesOf (dType r) (dCols r)),
      if dPset r = 0 then none else engCap r.g2 pS r.g2.cursor ((if dPmode r = 1 then 16 else 32) * dRows r)]
  | .madj r =>
    firstOf [badWhen (adjBad r),
      if jPset r = 2 || jPset r = 3 then rowCaps r.g1 pL (jRows r) (jCols r * elemBytes (jYtype r)) (xStride r) 0 0 else none,
      engCap r.g2 pL r.g2.cursor (16 * jRows r)]
  | .mzero _ | .msig _ => none
  | _ => some (eMalformed, 0)

/-- The conditions on the weight block, checked when the first slice would start. -/
def weightsBad (t cols : Nat) (transposed : Bool) (r : Record) (w : Weights) : Bool :=
  w.typ = 0 || classOf t ≠ classOf w.typ.toNat || (xKey r ≠ 0 && xKey r ≠ w.key.toNat) ||
  (if transposed then cols ≠ w.n || w.n % groupOf t ≠ 0 || w.k ≤ 64 * xKblk r else cols ≠ w.k)

/-! ## Slices (R314) -/

/-- What a slice comes to: a failure, the writes it makes in memory in order, and the state with its other effects. -/
structure SliceOut where
  bad : Option (Nat × Nat) := none
  out : List (Nat × List Byte) := []
  st : State
deriving DecidableEq, Repr

/-- The hash of the writes of a slice (R390, log 10). -/
def writesHash (l : List (Nat × List Byte)) : Word := crc64 (l.flatMap fun w => msgHead 0 w.1 w.2.length ++ w.2)

/-- Whether an address of the engine of a core lies in the core's own scratchpad. -/
def State.ownSpad (s : State) (e : Eng) (core va n : Nat) : Bool :=
  match (s.resolve e.via va n .store).1 with
  | .ok ps => ps.all fun p => match p.loc with
    | .spad a => a / sliceSize = core
    | .mem _ _ => false
  | .error _ => false

/-- The writes of a slice in order until the first failure; `done` destination bytes stand confirmed. The twin of a primary writes its own
scratchpad alone (R390). -/
def State.sliceWrites (s : State) (e : Eng) (core : Nat) (l : List (Nat × List Byte)) (done : Nat) : Option (Nat × Nat) × State :=
  match l with
  | [] => (none, s)
  | w :: r =>
    if s.isTwin core && !s.ownSpad e core w.1 (min 64 w.2.length) then s.sliceWrites e core r done
    else
      match s.engWriteRange e w.1 w.2 done with
      | (some x, s) => (some x, s)
      | (none, s) => s.sliceWrites e core r (done + w.2.length)

/-- One slice of the command at the head of the matrix queue whose step it is: validation when it starts, the slice, its writes, and the
end after the last one. `fail` leaves the destination as a failure leaves it (R327). -/
def runSlice (i : Instr) (r : Record) (total : Nat) (body : Job → Eng → Nat → State → SliceOut) (fail : State → State) (s : State) :
    Host.Outcome State Fault Refusal :=
  .next <| match s.curJob r, s.cur with
  | some j, .matrix core =>
    match j.closing, (if j.started then none else s.matrixCheck core i) with
    | some x, _ => s.cmdEnd j x
    | none, some x => s.cmdFail j x
    | none, none =>
      if total = 0 then s.cmdDone j
      else
        let e := s.engOf j
        let o := body j e j.slice s
        match o.bad with
        | some x => (fail o.st).cmdFail j x
        | none =>
          if o.out ≠ [] && (s.core core).twin.isSome && j.twin ≠ 2 then
            if j.twin = 1 then s
            else (s.modCore core fun c => { c with twinMsgs := c.twinMsgs ++ [⟨writesHash o.out, s.now, bankKey j.slot (s.liveBank core), 2⟩] }).setJob
              { j with twin := 1 }
          else
            match o.st.sliceWrites e core o.out j.confirmed with
            | (some x, t) => (fail t).cmdFail j x
            | (none, t) =>
              -- the body may have stepped the generators of the job
              let k := (t.curJob r).getD j
              let k : Job := { k with started := true, slice := j.slice + 1, twin := 0,
                                      confirmed := j.confirmed + (o.out.map fun w => w.2.length).sum }
              if total ≤ j.slice + 1 then t.cmdDone k else t.setJob k
  | _, _ => s

/-- The rows of slice `i` of `n` rows. -/
def sliceRows (i n : Nat) : List Nat := (upTo (min 16 (n - 16 * i))).map fun k => 16 * i + k
def slicesOf (n : Nat) : Nat := (n + 15) / 16

def coreOf (j : Job) : Nat := j.slot / 4
def poisoned : Option (Nat × Nat) := some (eUncorrectable, 0)

/-! ## MZERO and MSIG (R318, R325) -/

def mzeroBody (r : Record) (j : Job) (_ : Eng) (i : Nat) (s : State) : SliceOut :=
  let core := coreOf j
  let keys := (sliceRows i 64).flatMap fun row => (upTo 64).map fun c => (64 * row + c, 0)
  { st := (upTo 2).foldl (fun (t : State) k =>
      if r.g0.val.getLsbD (32 + k) then
        let a := t.mxAcc core k
        t.setAcc core k { elems := putAll a.elems keys, poison := a.poison.filter fun w => !(512 * i ≤ w && w < 512 * (i + 1)) }
      else t) s }

def execMzero (r : Record) (s : State) : Host.Outcome State Fault Refusal :=
  runSlice (.mzero r) r (if Record.bits r.g0 32 2 = 0 then 0 else 4) (mzeroBody r) id s

def execMsig (r : Record) (s : State) : Host.Outcome State Fault Refusal :=
  runSlice (.msig r) r 0 (fun _ _ _ s => { st := s }) id s

/-! ## MWLOAD (R319) -/

def emptyWeights : Weights := {}

def mwloadBody (r : Record) (j : Job) (_ : Eng) (i : Nat) (s : State) : SliceOut :=
  let core := coreOf j
  let (o, s) := s.oper core (xTile r) (xPair r)
  if o.poison (sliceRows i o.rows) then { bad := poisoned, st := s }
  else
    let w : Weights := if i = 0 then { typ := BitVec.ofNat 8 o.typ, key := BitVec.ofNat 16 (xKey r), n := o.rows, k := o.cols }
      else s.mxWeights core
    let ns := sliceRows i o.rows
    let es := ns.flatMap fun n => (upTo o.cols).map fun k => (o.cols * n + k, o.code n k)
    let ss := if isBlock o.typ then ns.flatMap fun n => (upTo (o.cols / 32)).map fun b => (o.cols / 32 * n + b, o.scale n b) else []
    { st := s.setWeights core { w with elems := putAll w.elems es, scales := putAll w.scales ss } }

def headRows (s : State) (r : Record) : Nat :=
  match s.cur with
  | .matrix core => tileRows (s.mxCtl core (xTile r))
  | _ => 0

def State.emptyBlock (s : State) : State :=
  match s.cur with
  | .matrix core => s.setWeights core emptyWeights
  | _ => s

def execMwload (r : Record) (s : State) : Host.Outcome State Fault Refusal :=
  runSlice (.mwload r) r (slicesOf (headRows s r)) (mwloadBody r) State.emptyBlock s

/-! ## MMA and MMAT (R320) -/

/-- The elements of accumulators that some rows and columns name, columns from 64 on in the next accumulator. -/
def State.accAt (s : State) (core k row col : Nat) : Nat := (look (s.mxAcc core (k + col / 64)).elems (64 * row + col % 64)).getD 0

/-- Rows of patterns written from accumulator `k` on; a word that a row covers loses its poison. -/
def State.putRows (s : State) (core k : Nat) (rows : List (Nat × List Nat)) : State :=
  (upTo 2).foldl (fun (t : State) h =>
    let ps := rows.flatMap fun p => ((p.2.drop (64 * h)).take 64).mapIdx fun c v => (64 * p.1 + c, v)
    if ps = [] then t
    else
      let a := t.mxAcc core (k + h)
      let covers (w : Nat) : Bool := rows.any fun p => p.1 = w / 32 && 2 * (w % 32) + 1 < min 64 (p.2.length - 64 * h)
      t.setAcc core (k + h) { elems := putAll a.elems ps, poison := a.poison.filter fun w => !covers w }) s

def State.freeAcc (s : State) (core k rows cols : Nat) : State :=
  (upTo 2).foldl (fun (t : State) h =>
    let n := min 64 (cols - 64 * h)
    if n = 0 then t
    else
      let a := t.mxAcc core (k + h)
      let (m, t) := t.freeInto a.elems (gridKeys 64 rows n) 32
      t.setAcc core (k + h) { a with elems := m }) s

/-- Whether `n` columns of some rows, from accumulator `k` on, meet poison. -/
def State.accBad (s : State) (core k n : Nat) (rows : List Nat) : Bool :=
  rows.any fun r => (s.mxAcc core k).rowPoison r (min 64 n) || (s.mxAcc core (k + 1)).rowPoison r (n - 64)

/-- One slice of a product: `width` columns from accumulator DSTA on, each element by `f` from its old value; `bad` says that what it reads of
the weight block is poisoned. -/
def productSlice (r : Record) (core : Nat) (o : Oper) (bad : Bool) (width : Nat) (f : Nat → Nat → Nat → Nat) (i : Nat) (s : State) :
    SliceOut :=
  let k := xDsta r
  let ms := sliceRows i o.rows
  if o.poison ms || bad || (xAcc r && s.accBad core k width ms) then
    { bad := poisoned, st := s }
  else
    let rows := ms.map fun m =>
      (m, (upTo width).map fun c => f m c (if xAcc r then s.accAt core k m c else 0))
    let t := s.putRows core k rows
    { st := t.census core (xSite r) (censusSum (rows.flatMap fun p => p.2.map fun v => censusOf (of32 v) 0)) }

def mmaBody (r : Record) (j : Job) (_ : Eng) (i : Nat) (s : State) : SliceOut :=
  let core := coreOf j
  let w := s.mxWeights core
  let (o, s) := s.oper core (xTile r) (xPair r)
  if i = 0 && weightsBad o.typ o.cols false r w then { bad := some (eMalformed, 0), st := s }
  else productSlice r core o (w.badIn 0 w.k) w.n (fun m n v => mmaElem o w m n v) i s

/-- The columns that MMAT covers. -/
def mmatSpan (r : Record) (w : Weights) : Nat := min (64 * (xNacc r + 1)) (w.k - 64 * xKblk r)

def mmatBody (r : Record) (j : Job) (_ : Eng) (i : Nat) (s : State) : SliceOut :=
  let core := coreOf j
  let w := s.mxWeights core
  let (o, s) := s.oper core (xTile r) false
  if i = 0 && weightsBad o.typ o.cols true r w then { bad := some (eMalformed, 0), st := s }
  else productSlice r core o (w.badIn (64 * xKblk r) (64 * xKblk r + mmatSpan r w)) (mmatSpan r w)
    (fun m c v => mmatElem o w m (64 * xKblk r + c) v) i s

/-- A failed product: malformed leaves no change, any other failure its elements free. -/
def productFail (r : Record) (transposed : Bool) (s : State) : State :=
  match s.cur with
  | .matrix core =>
    let w := s.mxWeights core
    let c := s.mxCtl core (xTile r)
    let started : Bool := match s.curJob r with
      | some j => j.started
      | none => false
    let cols := s.operCols core (xTile r) (xPair r && !transposed)
    if !started && weightsBad (tileType c) cols transposed r w then s
    else s.freeAcc core (xDsta r) (tileRows c) (if transposed then mmatSpan r w else w.n)
  | _ => s

def execMma (r : Record) (s : State) : Host.Outcome State Fault Refusal :=
  runSlice (.mma r) r (slicesOf (headRows s r)) (mmaBody r) (productFail r false) s

def execMmat (r : Record) (s : State) : Host.Outcome State Fault Refusal :=
  runSlice (.mmat r) r (slicesOf (headRows s r)) (mmatBody r) (productFail r true) s

/-! ## MLDT and MSTT (R321), MLDA (R322) -/

def rowAddr (r : Record) (row : Nat) : Nat := eaNat ((r.g1.cursor : Int) + (row : Int) * xStride r)
def scaleAddr (r : Record) (row n : Nat) : Nat := r.g1.cursor + xScaleOff r + row * n

/-- The codes of a packed row (R102). -/
def unpackRow (bits cols : Nat) (bs : List Byte) : List Nat :=
  let v := leNat bs
  (upTo cols).map fun i => v / 2 ^ (bits * i) % 2 ^ bits

def packRow (bits : Nat) (codes : List Nat) : List Byte :=
  leBytes ((codes.length * bits + 7) / 8) (codes.foldr (fun c acc => acc * 2 ^ bits + c % 2 ^ bits) 0)

/-- Rows read in order by `read` until the first failure. -/
def readRows {α : Type} (read : Nat → State → Except (Nat × Nat) α × State) (rows : List Nat) (s : State) :
    Except (Nat × Nat) (List (Nat × α)) × State :=
  match rows with
  | [] => (.ok [], s)
  | r :: more =>
    match read r s with
    | (.error x, s) => (.error x, s)
    | (.ok a, s) =>
      match readRows read more s with
      | (.error x, s) => (.error x, s)
      | (.ok l, s) => (.ok ((r, a) :: l), s)

/-- A tile row from memory: its bytes and its scale bytes. -/
def readTileRow (r : Record) (e : Eng) (t cols row : Nat) (s : State) : Except (Nat × Nat) (List Byte × List Byte) × State :=
  match s.engReadRange e (rowAddr r row) (rowBytesOf t cols) with
  | (.error x, s) => (.error x, s)
  | (.ok bs, s) =>
    let n := scaleBytesOf t cols
    match s.engReadRange e (scaleAddr r row n) n with
    | (.error x, s) => (.error x, s)
    | (.ok sc, s) => (.ok (bs, sc), s)

/-- Rows of codes and scales into a tile under control `c`. -/
def Tile.putRows (t : Tile) (rows : List (Nat × List Nat × List Nat)) : Tile :=
  { t.cleaned (rows.foldl (fun m p => max m (p.1 + 1)) 0) with
    elems := putAll t.elems (rows.flatMap fun p => p.2.1.mapIdx fun i v => (512 * p.1 + i, v))
    scales := putAll t.scales (rows.flatMap fun p => p.2.2.mapIdx fun i v => (16 * p.1 + i, v)) }

/-- The tile that the first slice of a command begins to write: nothing of the old content is left when the command has finished. -/
def State.destTile (s : State) (core k i : Nat) : Tile := if i = 0 then { ctl := s.mxCtl core k } else s.mxTile core k

def mldtBody (r : Record) (j : Job) (e : Eng) (i : Nat) (s : State) : SliceOut :=
  let core := coreOf j
  let c := s.mxCtl core (xTile r)
  let t := tileType c
  match readRows (readTileRow r e t (tileCols c)) (sliceRows i (tileRows c)) s with
  | (.error x, s) => { bad := some x, st := s }
  | (.ok l, s) =>
    { st := s.setTile core (xTile r) ((s.destTile core (xTile r) i).putRows (l.map fun p =>
        (p.1, unpackRow (elemBits t) (tileCols c) p.2.1, p.2.2.map BitVec.toNat))) }

/-- Every element of the tile that the command would have written is free. -/
def tileFail (k : Record → Nat) (r : Record) (s : State) : State :=
  match s.cur with
  | .matrix core => let (t, s) := s.freeTile (s.mxCtl core (k r)); s.setTile core (k r) t
  | _ => s

def execMldt (r : Record) (s : State) : Host.Outcome State Fault Refusal :=
  runSlice (.mldt r) r (slicesOf (headRows s r)) (mldtBody r) (tileFail xTile r) s

def msttBody (r : Record) (j : Job) (_ : Eng) (i : Nat) (s : State) : SliceOut :=
  let (o, s) := s.oper (coreOf j) (xTile r) false
  let n := scaleBytesOf o.typ o.cols
  if o.poison (sliceRows i o.rows) then { bad := poisoned, st := s }
  else
    { st := s, out := (sliceRows i o.rows).flatMap fun row =>
        (rowAddr r row, packRow (elemBits o.typ) ((upTo o.cols).map fun c => o.code row c)) ::
        (if n = 0 then [] else [(scaleAddr r row n, (upTo n).map fun b => BitVec.ofNat 8 (o.scale row b))]) }

def execMstt (r : Record) (s : State) : Host.Outcome State Fault Refusal :=
  runSlice (.mstt r) r (slicesOf (headRows s r)) (msttBody r) id s

def mldaBody (r : Record) (j : Job) (e : Eng) (i : Nat) (s : State) : SliceOut :=
  let core := coreOf j
  let k := dSrca r
  match readRows (fun row s => s.engReadRange e (rowAddr r row) (4 * aCols r)) (sliceRows i (aRows r)) s with
  | (.error x, s) => { bad := some x, st := s }
  | (.ok l, s) =>
    { st := s.putRows core k (l.map fun p => (p.1, unpackRow 32 (aCols r) p.2)) }

def accFail (k rows cols : Nat) (s : State) : State :=
  match s.cur with
  | .matrix core => s.freeAcc core k rows cols
  | _ => s

def execMlda (r : Record) (s : State) : Host.Outcome State Fault Refusal :=
  runSlice (.mlda r) r (slicesOf (aRows r)) (mldaBody r) (accFail (dSrca r) (aRows r) (aCols r)) s

/-! ## MDRAIN (R323, R324, R331 to R344) -/

/-- One use of a drain generator (R115). -/
def useGen (g : Vector (BitVec 32) 64) (j : Nat) : BitVec 32 × Vector (BitVec 32) 64 :=
  let v := genStep (g[j % 64]'(Nat.mod_lt _ (by decide)))
  (v, g.set (j % 64) v (Nat.mod_lt _ (by decide)))

/-- The roundings of a row's elements, from element `j` of the command's stream: under SR each uses its generator once (R116). -/
def rowRnds (rc : Nat) (sat : Bool) (row : List Nat) (j : Nat) (g : Vector (BitVec 32) 64) : List (Num × Rnd) × Vector (BitVec 32) 64 :=
  match row with
  | [] => ([], g)
  | x :: more =>
    let (v, g) := if rc = 5 then useGen g j else (0, g)
    let (l, g) := rowRnds rc sat more (j + 1) g
    ((of32 x, ⟨rc, sat, v, some (elemLsb tFP32 x)⟩) :: l, g)

/-- The census of a quantised block. -/
def blockCensus (t sc : Nat) (xs : List (Num × Rnd)) (codes : List Nat) : Census :=
  if sc = 255 then ⟨codes.length, 0, 0, 0⟩
  else
    let X : Int := (sc : Int) - 127
    censusSum ((xs.zip codes).map fun p =>
      censusOf (decodeScaled t p.2 sc) (blockElem t { p.1.2 with lsb := p.1.2.lsb.map (· - X) } (p.1.1.scale (-X))).2)

/-- Blocks of 32 of a row: codes, scales and census. -/
def quantRow (t : Nat) (fuel : Nat) (xs : List (Num × Rnd)) : List Nat × List Nat × Census :=
  match fuel with
  | 0 => ([], [], {})
  | k + 1 =>
    let b := xs.take 32
    let (sc, codes, _) := quantiseBlock t b
    let (cs, ss, n) := quantRow t k (xs.drop 32)
    (codes ++ cs, sc :: ss, (blockCensus t sc b codes).add n)

/-- The conversion of a row: codes, scales, census, and the generators after it. -/
def convertRow (t rc : Nat) (sat : Bool) (row : List Nat) (j : Nat) (g : Vector (BitVec 32) 64) :
    List Nat × List Nat × Census × Vector (BitVec 32) 64 :=
  if t = tFP32 then
    let ys := row.map fun x => if (of32 x).isNan then dnan32 else x
    (ys, [], censusSum (ys.map fun y => censusOf (of32 y) 0), g)
  else
    let (xs, g) := rowRnds rc sat row j g
    if isBlock t then
      let (cs, ss, n) := quantRow t (row.length / 32) xs
      (cs, ss, n, g)
    else
      let rs := xs.map fun p => convertElem t p.2 false p.1
      (rs.map Prod.fst, [], censusSum (rs.map fun p => censusOf (if isInt t then .zero false else decodeElem t p.1) p.2), g)

/-- What the rows of a slice come to. -/
structure DrainOut where
  out : List (Nat × List Byte) := []
  rows : List (Nat × List Nat × List Nat) := []
  census : Census := {}
  gens : Vector (BitVec 32) 64
deriving DecidableEq, Repr

/-- One row of a drain: record, mask, conversion, destination. -/
def drainOne (r : Record) (x : List Nat) (row : Nat) (d : DrainOut) : DrainOut :=
  let prec := r.g2.cursor
  let mptr := prec + 16 * dRows r + 16 * row
  if dPmode r = 1 then
    { d with out := d.out ++ [(prec + 16 * row, leBytes 16 (evalRecord (dPset r) x (dP2 r)).toNat)] }
  else
    let (y, pr) := if dPset r = 0 then (x, ([] : List (Nat × List Byte)))
      else
        let o := drainRow (dPset r) (dPmode r) x (dP1 r) (dP2 r)
        (o.out, [(prec + 16 * row, leBytes 16 (drainRecord (dPset r) (dPmode r) mptr o).toNat), (mptr, leBytes 16 o.mask)])
    let (cs, ss, n, g) := convertRow (dType r) (dRc r) (dSat r) y (row * dCols r) d.gens
    let mem : List (Nat × List Byte) := if dTile r then []
      else (rowAddr r row, packRow (elemBits (dType r)) cs) ::
        (if ss = [] then [] else [(scaleAddr r row ss.length, ss.map (BitVec.ofNat 8))])
    { out := d.out ++ mem ++ pr, rows := d.rows ++ [(row, cs, ss)], census := d.census.add n, gens := g }

/-- A row of accumulators as R324 reads it. -/
def State.accRow (s : State) (core k row n : Nat) : List Nat := (upTo n).map fun c => s.accAt core k row c

def drainBody (r : Record) (j : Job) (_ : Eng) (i : Nat) (s : State) : SliceOut :=
  let core := coreOf j
  if s.accBad core (dSrca r) (dCols r) (sliceRows i (dRows r)) then { bad := poisoned, st := s }
  else
    let g := if j.started then j.gens else seedDerive (dSeed r)
    let d := (sliceRows i (dRows r)).foldl (fun d row => drainOne r (s.accRow core (dSrca r) row (dCols r)) row d) { gens := g }
    let t := s.setJob { j with gens := d.gens }
    let t := t.census core (xSite r) d.census
    { out := d.out
      st := if dTile r && dPmode r ≠ 1 then t.setTile core (dDtk r) ((t.destTile core (dDtk r) i).putRows d.rows) else t }

def drainFail (r : Record) (s : State) : State := if dTile r && dPmode r ≠ 1 then tileFail dDtk r s else s

def execMdrain (r : Record) (s : State) : Host.Outcome State Fault Refusal :=
  runSlice (.mdrain r) r (slicesOf (dRows r)) (drainBody r) (drainFail r) s
def execMdrainEval (r : Record) (s : State) : Host.Outcome State Fault Refusal :=
  runSlice (.mdrainEval r) r (slicesOf (dRows r)) (drainBody r) (drainFail r) s
def execMdrainApply (r : Record) (s : State) : Host.Outcome State Fault Refusal :=
  runSlice (.mdrainApply r) r (slicesOf (dRows r)) (drainBody r) (drainFail r) s

/-! ## MADJ (R345 to R347) -/

/-- A code of Y as MADJ takes it: its sign bit and its value; the sign bit of a NaN counts too (R346). -/
def signedElem (t code : Nat) : Bool × Num := (code.testBit (elemBits t - 1), decodeElem t code)

/-- Row `row` of MADJ: g_in from the record, the mask and Y. -/
def adjRow (r : Record) (core : Nat) (e : Eng) (row : Nat) (s : State) : Except (Nat × Nat) (List Nat) × State :=
  let n := jCols r
  let p := jPset r
  match s.engReadRange e (r.g2.cursor + 16 * row) 16 with
  | (.error x, s) => (.error x, s)
  | (.ok bs, s) =>
    let q := leNat bs
    let m := recMptr q
    if recSet q ≠ p || recMode q = 1 || n < recCount q then (.error (eMalformed, 0), s)
    else if m < r.g2.base || r.g2.top < m + 16 then (.error (eCapFault, m), s)
    else
      match s.engReadRange e m 16 with
      | (.error x, s) => (.error x, s)
      | (.ok mask, s) =>
        let g := s.accRow core (dSrca r) row n
        if needsY p q then
          match s.engReadRange e (rowAddr r row) (n * elemBytes (jYtype r)) with
          | (.error x, s) => (.error x, s)
          | (.ok ys, s) =>
            (.ok (madjRow p g q (leNat mask) ((unpackRow (elemBits (jYtype r)) n ys).map (signedElem (jYtype r))) (dP1 r)), s)
        else (.ok (madjRow p g q (leNat mask) [] (dP1 r)), s)

def madjBody (r : Record) (j : Job) (e : Eng) (i : Nat) (s : State) : SliceOut :=
  let core := coreOf j
  if s.accBad core (dSrca r) (jCols r) (sliceRows i (jRows r)) then { bad := poisoned, st := s }
  else match readRows (adjRow r core e) (sliceRows i (jRows r)) s with
  | (.error x, s) => { bad := some x, st := s }
  | (.ok l, s) =>
    { st := (s.putRows core (dSrca r) l).census core (xSite r)
        (censusSum (l.flatMap fun p => p.2.map fun v => censusOf (of32 v) 0)) }

def execMadj (r : Record) (s : State) : Host.Outcome State Fault Refusal :=
  runSlice (.madj r) r (slicesOf (jRows r)) (madjBody r) (accFail (dSrca r) (jRows r) (jCols r)) s

/-! ## The sequencer (R313, R315, R316) -/

/-- The command at the head of a core's queue. -/
def State.matrixHead (s : State) (core : Nat) : Option (Job × Option Instr) :=
  (s.jobs (.matrix core)).head?.map fun j => (j, if j.mtcw.isSome then none else decodeRecord j.record)

/-- The resource of a head that passes the checks of its start: 0 the array, 1 the transfer port, 2 none, which is that of a command that has run
and ends; none for a tile control and for a head that waits for its twin. -/
def State.headResource (s : State) (core : Nat) : Option Nat :=
  match s.matrixHead core with
  | none => none
  | some (j, i) =>
    if j.mtcw.isSome || j.twin = 1 then none
    else if j.closing.isSome then some 2
    else match i with
      | none => some 2
      | some i =>
        if !j.started && (s.matrixCheck core i).isSome then some 2
        else match i with
          | .mzero r => some (if Record.bits r.g0 32 2 = 0 then 2 else 0)
          | .mwload _ | .mma _ | .mmat _ => some 0
          | .msig _ => some 2
          | _ => some 1

/-- What R316 looks at: 1 an MWLOAD, 2 a product, 0 anything else, and whether it has started. -/
def State.headKind (s : State) (core : Nat) : Nat × Bool :=
  match s.matrixHead core with
  | some (j, some (.mwload _)) => (1, j.started)
  | some (j, some (.mma _)) => (2, j.started)
  | some (j, some (.mmat _)) => (2, j.started)
  | _ => (0, false)

/-- Whether the head of a core may start a slice on a resource (R315, R316). -/
def State.eligible (s : State) (core res : Nat) : Bool :=
  s.headResource core = some res &&
  (let others := ((upTo 4).map fun i => 4 * quadOf core + i).filter (· ≠ core) |>.map s.headKind
   match s.headKind core with
   | (2, false) => others.all fun k => k.1 ≠ 1
   | (1, false) => others.all fun k => !k.2
   | _ => true)

/-- The slice of whatever stands at the head. -/
def runHead (i : Instr) (s : State) : Host.Outcome State Fault Refusal :=
  match i with
  | .mzero r => runSlice i r (if Record.bits r.g0 32 2 = 0 then 0 else 4) (mzeroBody r) id s
  | .mwload r => runSlice i r (slicesOf (headRows s r)) (mwloadBody r) State.emptyBlock s
  | .mma r => runSlice i r (slicesOf (headRows s r)) (mmaBody r) (productFail r false) s
  | .mmat r => runSlice i r (slicesOf (headRows s r)) (mmatBody r) (productFail r true) s
  | .mldt r => runSlice i r (slicesOf (headRows s r)) (mldtBody r) (tileFail xTile r) s
  | .mstt r => runSlice i r (slicesOf (headRows s r)) (msttBody r) id s
  | .mlda r => runSlice i r (slicesOf (aRows r)) (mldaBody r) (accFail (dSrca r) (aRows r) (aCols r)) s
  | .mdrain r | .mdrainEval r | .mdrainApply r => runSlice i r (slicesOf (dRows r)) (drainBody r) (drainFail r) s
  | .madj r => runSlice i r (slicesOf (jRows r)) (madjBody r) (accFail (dSrca r) (jRows r) (jCols r)) s
  | .msig r => runSlice i r 0 (fun _ _ _ s => { st := s }) id s
  | _ => .next (match s.cur, s.jobs s.cur with
    | .matrix _, j :: _ => s.cmdFail j (eMalformed, 0)
    | _, _ => s)

/-- Whether a product is refused by the conditions on the weight block before its first slice (R316, R326). -/
def State.blockRefuses (s : State) (core : Nat) (j : Job) (i : Instr) : Bool :=
  !j.started && match i with
  | .mma r => weightsBad (tileType (s.mxCtl core (xTile r))) (s.operCols core (xTile r) (xPair r)) false r (s.mxWeights core)
  | .mmat r => weightsBad (tileType (s.mxCtl core (xTile r))) (s.operCols core (xTile r) false) true r (s.mxWeights core)
  | _ => false

/-- Whether a slice of job `j` ran between two states: not when it was refused first, nor when it only sent its writes to the egress router. -/
def ranSlice (s u : State) (core : Nat) (j : Job) (i : Instr) : Bool :=
  !s.blockRefuses core j i && match u.matrixHead core with
  | some (k, _) => k.order ≠ j.order || k.slice ≠ j.slice || k.closing.isSome
  | none => true

/-- One slice of the head of a core; a slice that ran is counted (events 0x201 and 0x202). -/
def State.runSliceOf (s : State) (core res : Nat) : State :=
  let t := { s with cur := .matrix core }
  match s.matrixHead core with
  | none => s
  | some (j, none) => t.cmdFail j (eMalformed, 0)
  | some (j, some i) =>
    let u := match runHead i t with
      | .next u => u
      | _ => t
    if res = 2 || !ranSlice t u core j i then u
    else u.modQuad (quadOf core) fun q =>
      if res = 0 then { q with lastArray := core % 4, counters := q.counters.set 0 (q.counters[0] + 1) }
      else { q with lastPort := core % 4, counters := q.counters.set 1 (q.counters[1] + 1) }

/-- MATRIX_SLICE: arg.a is the quad, arg.b the resource (0 the array, 1 the transfer port, 2 a head without a slice, of the core that arg.c
names within the quad). Nothing runs while the cluster is halted (R328). -/
def execMatrixSlice (s : State) : Host.Outcome State Fault Refusal :=
  let q := s.arg.a
  let res := s.arg.b
  .next <|
    if Config.cores / 4 ≤ q || (s.cluster (q / 12)).halted then s
    else if res = 2 then
      let core := 4 * q + s.arg.c % 4
      if s.eligible core 2 then s.runSliceOf core 2 else s
    else
      let last := if res = 0 then (s.quad q).lastArray else (s.quad q).lastPort
      match ([1, 2, 3, 4].map fun i => 4 * q + (last + i) % 4).find? fun core => s.eligible core res with
      | some core => s.runSliceOf core res
      | none => s

/-- TILE_CONTROL_APPLY: arg.a is the core whose queue has an MTCW at its head (R307, R313). -/
def execTileControlApply (s : State) : Host.Outcome State Fault Refusal :=
  let core := s.arg.a
  .next <|
    if (s.cluster (clusterOf core)).halted then s
    else match s.matrixHead core with
    | some (j, _) => match j.mtcw with
      | some (k, w) => s.modCoreBank (s.coreKey core) fun b =>
          { b with ctl := b.ctl.set (k % 4) w (Nat.mod_lt _ (by decide)), mq := b.mq.drop 1 }
      | none => s
    | none => s

end Sys2Proof.Machine
end

