-- ==== Sys2Proof/Machine/Scalar.lean ====
section
/-!
DEFINITION. Integer arithmetic and logic, class 0x0 (R68 to R70), multiply and bit operations, class 0x1 (R71 to R73), capability
instructions, class 0x2 (R74 to R77), and the S forms that alias them (R45).
-/
namespace Sys2Proof.Machine

/-! ## Width and signedness (R68) -/

def opWidth (ext : BitVec 5) : Nat := if ext.toNat < 2 then 64 else 32

/-- Whether ext reads its operands as signed: .I64 and .I32. -/
def opSigned (ext : BitVec 5) : Bool := ext = 0 || ext = 2

/-- The low w bits of an operand. -/
def opArg (ext : BitVec 5) (c : Cap) : Nat := c.dv.toNat % 2 ^ opWidth ext

/-- A w-bit value as a signed number. -/
def signedOf (w v : Nat) : Int := if 2 ^ w ≤ 2 * v then (v : Int) - (2 ^ w : Nat) else v

/-- A w-bit value with the signedness of ext. -/
def opVal (ext : BitVec 5) (v : Nat) : Int := if opSigned ext then signedOf (opWidth ext) v else v

/-- The w-bit pattern of an integer. -/
def opWrap (w : Nat) (v : Int) : Nat := (v % (2 ^ w : Nat)).toNat

/-- The 64-bit result of a w-bit one. -/
def opExtend (ext : BitVec 5) (v : Nat) : Word :=
  if ext = 2 then (BitVec.ofNat 32 v).signExtend 64
  else if ext = 3 then (BitVec.ofNat 32 v).setWidth 64
  else BitVec.ofNat 64 v

/-- int_op of R68: `g` maps the width and the two operands to the result, which wraps. -/
def intOp2 (f : MForm) (g : Nat → Nat → Nat → Nat) (x : Opnds) (s : State) : Res :=
  let w := opWidth f.ext
  .done (s.writeData f.d (opExtend f.ext (g w (opArg f.ext x.a) (opArg f.ext x.b) % 2 ^ w)))

/-! ## The operations of R69 -/

def fAdd (_ a b : Nat) : Nat := a + b
def fSub (w a b : Nat) : Nat := a + (2 ^ w - b)
def fAnd (_ a b : Nat) : Nat := a &&& b
def fOr (_ a b : Nat) : Nat := a ||| b
def fXor (_ a b : Nat) : Nat := a ^^^ b
def fAndn (w a b : Nat) : Nat := a &&& (2 ^ w - 1 - b)
def fShl (w a b : Nat) : Nat := a <<< (b % w)
def fShr (w a b : Nat) : Nat := a >>> (b % w)
def fSar (w a b : Nat) : Nat := opWrap w (signedOf w a / (2 ^ (b % w) : Nat))
def fRot (w a b : Nat) : Nat := (a <<< (b % w)) ||| (a >>> (w - b % w))
/-- Minimum (or maximum) under the signedness of ext. -/
def fMin (ext : BitVec 5) (_ a b : Nat) : Nat := if opVal ext a ≤ opVal ext b then a else b
def fMax (ext : BitVec 5) (_ a b : Nat) : Nat := if opVal ext a ≤ opVal ext b then b else a
def fAbs (w a _ : Nat) : Nat := (signedOf w a).natAbs
def fNeg (w a _ : Nat) : Nat := 2 ^ w - a
def fMov (_ a _ : Nat) : Nat := a

def execAdd (f : MForm) (s : State) : Host.Outcome State Fault Refusal := runPlain (.add f) 0x000 f (intOp2 f fAdd) s
def execSub (f : MForm) (s : State) : Host.Outcome State Fault Refusal := runPlain (.sub f) 0x001 f (intOp2 f fSub) s
def execAnd (f : MForm) (s : State) : Host.Outcome State Fault Refusal := runPlain (.and f) 0x002 f (intOp2 f fAnd) s
def execOr (f : MForm) (s : State) : Host.Outcome State Fault Refusal := runPlain (.or f) 0x003 f (intOp2 f fOr) s
def execXor (f : MForm) (s : State) : Host.Outcome State Fault Refusal := runPlain (.xor f) 0x004 f (intOp2 f fXor) s
def execAndn (f : MForm) (s : State) : Host.Outcome State Fault Refusal := runPlain (.andn f) 0x005 f (intOp2 f fAndn) s
def execShl (f : MForm) (s : State) : Host.Outcome State Fault Refusal := runPlain (.shl f) 0x006 f (intOp2 f fShl) s
def execShr (f : MForm) (s : State) : Host.Outcome State Fault Refusal := runPlain (.shr f) 0x007 f (intOp2 f fShr) s
def execSar (f : MForm) (s : State) : Host.Outcome State Fault Refusal := runPlain (.sar f) 0x008 f (intOp2 f fSar) s
def execRot (f : MForm) (s : State) : Host.Outcome State Fault Refusal := runPlain (.rot f) 0x009 f (intOp2 f fRot) s
def execMin (f : MForm) (s : State) : Host.Outcome State Fault Refusal := runPlain (.min f) 0x00A f (intOp2 f (fMin f.ext)) s
def execMax (f : MForm) (s : State) : Host.Outcome State Fault Refusal := runPlain (.max f) 0x00B f (intOp2 f (fMax f.ext)) s
def execAbs (f : MForm) (s : State) : Host.Outcome State Fault Refusal := runPlain (.abs f) 0x00C f (intOp2 f fAbs) s
def execNeg (f : MForm) (s : State) : Host.Outcome State Fault Refusal := runPlain (.neg f) 0x00D f (intOp2 f fNeg) s

/-- SEL: the predicate k stands in imm16[2:0]. -/
def execSel (f : MForm) (s : State) : Host.Outcome State Fault Refusal :=
  runPlain (.sel f) 0x00E f (fun x s => intOp2 f (fun _ a b => if s.sl.pred (f.imm.setWidth 3) then a else b) x s) s

def execMov (f : MForm) (s : State) : Host.Outcome State Fault Refusal := runPlain (.mov f) 0x00F f (intOp2 f fMov) s

/-- The constant of R70: the literal, or imm16. -/
def MFormConst (f : MForm) : BitVec 32 :=
  match f.lit with
  | some l => l
  | none => f.imm.signExtend 32

def execLdi (f : MForm) (s : State) : Host.Outcome State Fault Refusal :=
  runPlain (.ldi f) 0x010 f (fun _ s => .done (s.writeData f.d ((MFormConst f).signExtend 64))) s

def execLdhi (f : MForm) (s : State) : Host.Outcome State Fault Refusal :=
  runPlain (.ldhi f) 0x011 f (fun x s => .done (s.writeData f.d (MFormConst f ++ (x.a.dv.setWidth 32 : BitVec 32)))) s

/-! ## Class 0x1 (R71 to R73) -/

def fMul (_ a b : Nat) : Nat := a * b
def fMulh (ext : BitVec 5) (w a b : Nat) : Nat := opWrap w (opVal ext a * opVal ext b / (2 ^ w : Nat))
def fClz (w a _ : Nat) : Nat := if a = 0 then w else w - 1 - Nat.log2 a
/-- The number of zero bits below the lowest one bit. -/
def ctzGo (a fuel n : Nat) : Nat :=
  match fuel with
  | 0 => n
  | k + 1 => if a.testBit n then n else ctzGo a k (n + 1)
def fCtz (w a _ : Nat) : Nat := ctzGo a w 0
def popGo (a : Nat) : Nat → Nat
  | 0 => 0
  | k + 1 => popGo a k + (if a.testBit k then 1 else 0)
def fPopc (w a _ : Nat) : Nat := popGo a w
/-- Bit i goes to bit w − 1 − i: the low `n` bits of a, reversed. -/
def brevGo (a : Nat) : Nat → Nat
  | 0 => 0
  | k + 1 => 2 * brevGo a k + (if a.testBit k then 1 else 0)
def fBrev (w a _ : Nat) : Nat := brevGo a w
/-- The low `n` bytes of a, reversed. -/
def bswapGo (a : Nat) : Nat → Nat
  | 0 => 0
  | k + 1 => 256 * bswapGo a k + a / 256 ^ k % 256
def fBswap (w a _ : Nat) : Nat := bswapGo a (w / 8)

def execMul (f : MForm) (s : State) : Host.Outcome State Fault Refusal := runPlain (.mul f) 0x040 f (intOp2 f fMul) s
def execMulh (f : MForm) (s : State) : Host.Outcome State Fault Refusal := runPlain (.mulh f) 0x041 f (intOp2 f (fMulh f.ext)) s

/-- Quotient and remainder of R72, for every pair of operands. -/
def divRem (w : Nat) (A B : Int) : Int × Int :=
  if B = 0 then (-1, A)
  else if A = -(2 ^ (w - 1) : Nat) && B = -1 then (A, 0)
  else (A.tdiv B, A - B * A.tdiv B)

/-- DIV and REM: a zero divisor sets DZ. -/
def divBody (f : MForm) (quot : Bool) (x : Opnds) (s : State) : Res :=
  let w := opWidth f.ext
  let B := opVal f.ext (opArg f.ext x.b)
  let r := divRem w (opVal f.ext (opArg f.ext x.a)) B
  let s := if B = 0 then s.addFlags DZ else s
  .done (s.writeData f.d (opExtend f.ext (opWrap w (if quot then r.1 else r.2))))

def execDiv (f : MForm) (s : State) : Host.Outcome State Fault Refusal := runPlain (.div f) 0x042 f (divBody f true) s
def execRem (f : MForm) (s : State) : Host.Outcome State Fault Refusal := runPlain (.rem f) 0x043 f (divBody f false) s

/-- MADD adds the old value of d (R71). -/
def execMadd (f : MForm) (s : State) : Host.Outcome State Fault Refusal :=
  runPlain (.madd f) 0x044 f (fun x s => intOp2 f (fun _ a b => a * b + opArg f.ext x.d) x s) s

def execClz (f : MForm) (s : State) : Host.Outcome State Fault Refusal := runPlain (.clz f) 0x045 f (intOp2 f fClz) s
def execCtz (f : MForm) (s : State) : Host.Outcome State Fault Refusal := runPlain (.ctz f) 0x046 f (intOp2 f fCtz) s
def execPopc (f : MForm) (s : State) : Host.Outcome State Fault Refusal := runPlain (.popc f) 0x047 f (intOp2 f fPopc) s
def execBrev (f : MForm) (s : State) : Host.Outcome State Fault Refusal := runPlain (.brev f) 0x048 f (intOp2 f fBrev) s
def execBswap (f : MForm) (s : State) : Host.Outcome State Fault Refusal := runPlain (.bswap f) 0x049 f (intOp2 f fBswap) s

/-- The field of R73: lsb and length. -/
def fieldLsb (f : MForm) : Nat := f.imm.toNat % 64
def fieldLen (f : MForm) : Nat := f.imm.toNat / 64 % 64 + 1

def execBfx (f : MForm) (s : State) : Host.Outcome State Fault Refusal :=
  runPlain (.bfx f) 0x04A f (fun x s =>
    let v := x.a.dv.toNat / 2 ^ fieldLsb f % 2 ^ fieldLen f
    .done (s.writeData f.d (if f.ext = 0 then BitVec.ofInt 64 (signedOf (fieldLen f) v) else BitVec.ofNat 64 v))) s

def execBfi (f : MForm) (s : State) : Host.Outcome State Fault Refusal :=
  runPlain (.bfi f) 0x04B f (fun x s =>
    let m : Word := BitVec.ofNat 64 ((2 ^ fieldLen f - 1) <<< fieldLsb f)
    .done (s.writeData f.d ((x.d.dv &&& ~~~m) ||| ((x.a.dv <<< fieldLsb f) &&& m)))) s

/-! ## Class 0x2 (R76, R77) -/

def execCbase (f : MForm) (s : State) : Host.Outcome State Fault Refusal :=
  runPlain (.cbase f) 0x080 f (fun x s => .done (s.writeData f.d (BitVec.ofNat 64 x.a.base))) s
def execClen (f : MForm) (s : State) : Host.Outcome State Fault Refusal :=
  runPlain (.clen f) 0x081 f (fun x s => .done (s.writeData f.d (BitVec.ofNat 64 x.a.len))) s
def execCperm (f : MForm) (s : State) : Host.Outcome State Fault Refusal :=
  runPlain (.cperm f) 0x082 f (fun x s => .done (s.writeData f.d (x.a.perm.setWidth 64))) s
def execCtag (f : MForm) (s : State) : Host.Outcome State Fault Refusal :=
  runPlain (.ctag f) 0x083 f (fun x s => .done (s.writeData f.d (if x.a.tag then 1 else 0))) s

/-- CBND and CBNDX (R77): CAP_TAG names the cursor of a, CAP_MONOTONIC nothing (R380). -/
def boundBody (f : MForm) (exact : Bool) (x : Opnds) (s : State) : Res :=
  let c := x.a
  let L := x.b.dv.toNat
  if !c.tag then .trap s cTag c.cursor
  else match encodeLen L with
    | none => .trap s cMonotonic 0
    | some (m, e) =>
      if exact && m * 2 ^ e ≠ L then .trap s cMonotonic 0
      else if c.cursor < c.base || c.top < c.cursor + m * 2 ^ e then .trap s cMonotonic 0
      else .done (s.writeD f.d
        (mkCap true c.perm (BitVec.ofNat 5 e) (BitVec.ofNat 20 m) (BitVec.ofNat 48 c.cursor) (BitVec.ofNat 48 c.cursor)))

def execCbnd (f : MForm) (s : State) : Host.Outcome State Fault Refusal := runPlain (.cbnd f) 0x084 f (boundBody f false) s
def execCbndx (f : MForm) (s : State) : Host.Outcome State Fault Refusal := runPlain (.cbndx f) 0x085 f (boundBody f true) s

/-- CINC: the cursor moves modulo 2^48 (R31). -/
def cincBody (f : MForm) (x : Opnds) (s : State) : Res :=
  .done (s.writeD f.d (x.a.setCursor (x.a.val.setWidth 48 + x.b.dv.setWidth 48)))

def execCinc (f : MForm) (s : State) : Host.Outcome State Fault Refusal := runPlain (.cinc f) 0x086 f (cincBody f) s
def execCset (f : MForm) (s : State) : Host.Outcome State Fault Refusal :=
  runPlain (.cset f) 0x087 f (fun x s => .done (s.writeD f.d (x.a.setCursor (x.b.dv.setWidth 48)))) s

def execCand (f : MForm) (s : State) : Host.Outcome State Fault Refusal :=
  runPlain (.cand f) 0x088 f (fun x s =>
    if !x.a.tag then .trap s cTag x.a.cursor
    else .done (s.writeD f.d ⟨(x.a.perm &&& x.b.dv.setWidth 7) ++ (x.a.val.setWidth 121 : BitVec 121), true⟩)) s

def execCclr (f : MForm) (s : State) : Host.Outcome State Fault Refusal :=
  runPlain (.cclr f) 0x089 f (fun x s => .done (s.writeD f.d ⟨x.a.val, false⟩)) s
def execCsub (f : MForm) (s : State) : Host.Outcome State Fault Refusal :=
  runPlain (.csub f) 0x08A f (fun x s => .done (s.writeData f.d (BitVec.ofNat 64 x.a.cursor - BitVec.ofNat 64 x.b.cursor))) s
def execCmov (f : MForm) (s : State) : Host.Outcome State Fault Refusal :=
  runPlain (.cmov f) 0x08B f (fun x s => .done (s.writeD f.d x.a)) s

/-! ## S forms (R45) -/

/-- The M form of an S form whose imm8 takes the place of b. -/
def MFormImm8 (d a : BitVec 5) (imm : BitVec 8) : MForm := { MForm.plain 0 d a 0 with lit := some (imm.signExtend 32) }

def execAddS (d a b : BitVec 5) (s : State) : Host.Outcome State Fault Refusal :=
  runS (.addS d a b) 0x000 (.plain 0 d a b) (intOp2 (.plain 0 d a b) fAdd) s
def execSubS (d a b : BitVec 5) (s : State) : Host.Outcome State Fault Refusal :=
  runS (.subS d a b) 0x001 (.plain 0 d a b) (intOp2 (.plain 0 d a b) fSub) s
def execAndS (d a b : BitVec 5) (s : State) : Host.Outcome State Fault Refusal :=
  runS (.andS d a b) 0x002 (.plain 0 d a b) (intOp2 (.plain 0 d a b) fAnd) s
def execOrS (d a b : BitVec 5) (s : State) : Host.Outcome State Fault Refusal :=
  runS (.orS d a b) 0x003 (.plain 0 d a b) (intOp2 (.plain 0 d a b) fOr) s
def execXorS (d a b : BitVec 5) (s : State) : Host.Outcome State Fault Refusal :=
  runS (.xorS d a b) 0x004 (.plain 0 d a b) (intOp2 (.plain 0 d a b) fXor) s
def execShlS (d a b : BitVec 5) (s : State) : Host.Outcome State Fault Refusal :=
  runS (.shlS d a b) 0x006 (.plain 0 d a b) (intOp2 (.plain 0 d a b) fShl) s
def execShrS (d a b : BitVec 5) (s : State) : Host.Outcome State Fault Refusal :=
  runS (.shrS d a b) 0x007 (.plain 0 d a b) (intOp2 (.plain 0 d a b) fShr) s
def execSarS (d a b : BitVec 5) (s : State) : Host.Outcome State Fault Refusal :=
  runS (.sarS d a b) 0x008 (.plain 0 d a b) (intOp2 (.plain 0 d a b) fSar) s
def execMovS (d a : BitVec 5) (s : State) : Host.Outcome State Fault Refusal :=
  runS (.movS d a) 0x00F (.plain 0 d a 0) (intOp2 (.plain 0 d a 0) fMov) s
def execAddiS (d a : BitVec 5) (imm : BitVec 8) (s : State) : Host.Outcome State Fault Refusal :=
  runS (.addiS d a imm) 0x000 (MFormImm8 d a imm) (intOp2 (MFormImm8 d a imm) fAdd) s
def execCincS (d a : BitVec 5) (imm : BitVec 8) (s : State) : Host.Outcome State Fault Refusal :=
  runS (.cincS d a imm) 0x086 (MFormImm8 d a imm) (cincBody (MFormImm8 d a imm)) s

end Sys2Proof.Machine
end

