-- ==== Sys2Proof/Machine/ScalarFp.lean ====
section
/-!
DEFINITION. Scalar FP32, class 0x5 (R83 to R90), and how an instruction finds its rounding (R39, R83, R105, R115, R116).
-/
namespace Sys2Proof.Machine

/-! ## Rounding of an instruction -/

/-- The rounding mode of ext, or of FCTL (R83). -/
def State.roundMode (s : State) (ext : BitVec 5) : Nat :=
  if ext.getLsbD 3 then (ext.setWidth 3 : BitVec 3).toNat else (s.sl.fctl.setWidth 3 : BitVec 3).toNat

/-- Saturation, written or from FCTL (R39, R83). -/
def State.roundSat (s : State) (ext : BitVec 5) : Bool := ext.getLsbD 4 || s.sl.fctl.getLsbD 3

/-- Generator `i` of the slot steps; its new state (R115). -/
def State.genUse (s : State) (i : Nat) : BitVec 32 × State :=
  let g := genStep (s.sl.gens[i % 64]'(Nat.mod_lt _ (by decide)))
  (g, s.modSl fun sl => { sl with gens := sl.gens.set (i % 64) g (Nat.mod_lt _ (by decide)) })

/-- The rounding of a scalar instruction: under SR generator 0 steps once (R84). -/
def State.scalarRnd (s : State) (ext : BitVec 5) (lsb : Option Int) : Rnd × State :=
  if s.roundMode ext = 5 then
    let (g, s) := s.genUse 0
    (⟨5, s.roundSat ext, g, lsb⟩, s)
  else (⟨s.roundMode ext, s.roundSat ext, 0, lsb⟩, s)

def fpArg (c : Cap) : Nat := c.dv.toNat % 2 ^ 32

/-- A result rounded once to FP32 (R84, R85): `g` gives the exact result and its flags under the mode. -/
def fpOp (f : MForm) (g : Nat → Opnds → Num × Flags) (x : Opnds) (s : State) : Res :=
  let r := g (s.roundMode f.ext) x
  let q := s.scalarRnd f.ext none
  let p := roundF fmtFP32 q.1 r.1
  .done ((q.2.addFlags (r.2 ||| p.2)).writeData f.d (BitVec.ofNat 64 p.1))

def fpA (x : Opnds) : Num := of32 (fpArg x.a)
def fpB (x : Opnds) : Num := of32 (fpArg x.b)
def fpD (x : Opnds) : Num := of32 (fpArg x.d)

def execFadd (f : MForm) (s : State) : Host.Outcome State Fault Refusal :=
  runPlain (.fadd f) 0x140 f (fpOp f fun m x => numAdd m (fpA x) (fpB x)) s
def execFsub (f : MForm) (s : State) : Host.Outcome State Fault Refusal :=
  runPlain (.fsub f) 0x141 f (fpOp f fun m x => numAdd m (fpA x) (fpB x).negate) s
def execFmul (f : MForm) (s : State) : Host.Outcome State Fault Refusal :=
  runPlain (.fmul f) 0x142 f (fpOp f fun _ x => numMul (fpA x) (fpB x)) s
def execFfma (f : MForm) (s : State) : Host.Outcome State Fault Refusal :=
  runPlain (.ffma f) 0x143 f (fpOp f fun m x => numFma m (fpA x) (fpB x) (fpD x)) s
def execFdiv (f : MForm) (s : State) : Host.Outcome State Fault Refusal :=
  runPlain (.fdiv f) 0x144 f (fpOp f fun _ x => numDiv (fpA x) (fpB x)) s
def execFsqrt (f : MForm) (s : State) : Host.Outcome State Fault Refusal :=
  runPlain (.fsqrt f) 0x145 f (fpOp f fun _ x => numSqrt (fpA x)) s

/-- Minimum and maximum of R87, exact. -/
def fpMinMax (f : MForm) (mx num : Bool) (x : Opnds) (s : State) : Res :=
  let p := minmax32 mx num (fpArg x.a) (fpArg x.b)
  .done ((s.addFlags p.2).writeData f.d (BitVec.ofNat 64 p.1))

def execFmin (f : MForm) (s : State) : Host.Outcome State Fault Refusal := runPlain (.fmin f) 0x146 f (fpMinMax f false false) s
def execFmax (f : MForm) (s : State) : Host.Outcome State Fault Refusal := runPlain (.fmax f) 0x147 f (fpMinMax f true false) s
def execFminn (f : MForm) (s : State) : Host.Outcome State Fault Refusal := runPlain (.fminn f) 0x148 f (fpMinMax f false true) s
def execFmaxn (f : MForm) (s : State) : Host.Outcome State Fault Refusal := runPlain (.fmaxn f) 0x149 f (fpMinMax f true true) s

def execFabs (f : MForm) (s : State) : Host.Outcome State Fault Refusal :=
  runPlain (.fabs f) 0x14A f (fun x s => .done (s.writeData f.d (x.a.dv &&& 0x7FFFFFFF))) s
def execFneg (f : MForm) (s : State) : Host.Outcome State Fault Refusal :=
  runPlain (.fneg f) 0x14B f (fun x s => .done (s.writeData f.d ((x.a.dv &&& 0xFFFFFFFF) ^^^ 0x80000000))) s

/-- FCVT (R88): imm16[0] widens. -/
def fcvtBody (f : MForm) (x : Opnds) (s : State) : Res :=
  let t := f.typ.toNat
  if f.imm.getLsbD 0 then
    let p := roundF fmtFP32 {} (decodeF (fmtOf t) (x.a.dv.toNat % 2 ^ elemBits t))
    .done ((s.addFlags p.2).writeData f.d (BitVec.ofNat 64 p.1))
  else
    let q := s.scalarRnd f.ext (some (lsbOf fmtFP32 (fpArg x.a)))
    let p := roundF (fmtOf t) q.1 (of32 (fpArg x.a))
    .done ((q.2.addFlags p.2).writeData f.d (BitVec.ofNat 64 p.1))

def execFcvt (f : MForm) (s : State) : Host.Outcome State Fault Refusal := runPlain (.fcvt f) 0x14C f (fcvtBody f) s

/-- FCVTI (R89): the result extended to 64 bits by the signedness of the type. -/
def execFcvti (f : MForm) (s : State) : Host.Outcome State Fault Refusal :=
  runPlain (.fcvti f) 0x14D f (fun x s =>
    let q := s.scalarRnd f.ext (some (lsbOf fmtFP32 (fpArg x.a)))
    let p := roundInt f.typ.toNat q.1 (of32 (fpArg x.a))
    .done ((q.2.addFlags p.2).writeData f.d (BitVec.ofInt 64 p.1))) s

/-- ICVTF (R89). -/
def execIcvtf (f : MForm) (s : State) : Host.Outcome State Fault Refusal :=
  runPlain (.icvtf f) 0x14E f (fun x s =>
    let q := s.scalarRnd f.ext (some 0)
    let p := roundF fmtFP32 q.1 (.ofInt (intOf f.typ.toNat x.a.dv.toNat))
    .done ((q.2.addFlags p.2).writeData f.d (BitVec.ofNat 64 p.1))) s

/-- The bit of R90. -/
def fclassBit (c : Nat) : Nat :=
  let s : Bool := 2 ^ 31 ≤ c
  let e := c / 2 ^ 23 % 256
  let m := c % 2 ^ 23
  if e = 255 then (if m = 0 then (if s then 0 else 7) else if m < 2 ^ 22 then 8 else 9)
  else if e = 0 then (if m = 0 then (if s then 3 else 4) else if s then 2 else 5)
  else if s then 1 else 6

def execFclass (f : MForm) (s : State) : Host.Outcome State Fault Refusal :=
  runPlain (.fclass f) 0x14F f (fun x s => .done (s.writeData f.d (BitVec.ofNat 64 (2 ^ fclassBit (fpArg x.a))))) s

end Sys2Proof.Machine
end

