-- ==== Sys2Proof/Machine/Streams.lean ====
section
/-!
DEFINITION. Vector streams (R119 to R125, R130 to R135): shape records and their checks, the walk of a stream, footprints, and the run of a
vector instruction in groups of 64 elements. The shape instructions (R150).
-/
namespace Sys2Proof.Machine

/-! ## Shape records (R120) -/

/-- A shape record: TYPE, RANK, EXTENT0 to 3, STRIDE0 to 3, SCALEOFF. NT and LU are performance only. -/
structure Shape where
  typ : Nat
  rank : Nat
  ext : List Nat
  stride : List Int
  scaleOff : Nat
deriving DecidableEq, Repr

def shapeOf (r : BitVec 256) : Shape where
  typ := (r.extractLsb' 0 8).toNat
  rank := (r.extractLsb' 16 8).toNat
  ext := [0, 1, 2, 3].map fun k => (r.extractLsb' (32 + 16 * k) 16).toNat
  stride := [0, 1, 2, 3].map fun k => (r.extractLsb' (96 + 32 * k) 32).toInt
  scaleOff := (r.extractLsb' 224 32).toNat

/-- A dense stream of rank 1 with one byte per element, such as the mask of VSEL (R140). -/
def denseBytes (n : Nat) : Shape := ⟨2, 1, [n], [1], 0⟩

/-- The dimensions below RANK: extent and stride. -/
def Shape.dims (sh : Shape) : List (Nat × Int) := (sh.ext.zip sh.stride).take sh.rank

/-- EXTENT0, the row length. -/
def Shape.row (sh : Shape) : Nat := sh.ext.headD 0

/-- R122: the product of the extents. -/
def Shape.count (sh : Shape) : Nat := sh.dims.foldl (fun n d => n * d.1) 1

/-- The byte offset of index `j` through the dimensions, innermost first (R122). -/
def dimOffset (dims : List (Nat × Int)) (j : Nat) : Int :=
  match dims with
  | [] => 0
  | (e, st) :: r => ((j % e : Nat) : Int) * st + dimOffset r (j / e)

/-- R121: a record that no instruction accepts. -/
def Shape.bad (sh : Shape) : Bool :=
  sh.rank = 0 || 4 < sh.rank || (isBlock sh.typ && (sh.row % 32 ≠ 0 || sh.stride.headD 0 ≠ 0))

/-! ## Streams -/

/-- A stream: capability, shape, the permissions it needs, the access kind of its translation. -/
structure Stream where
  cap : Cap
  sh : Shape
  perm : BitVec 7
  acc : Access
deriving DecidableEq, Repr

def Stream.src (c : Cap) (sh : Shape) : Stream := ⟨c, sh, pL, .load⟩
def Stream.dst (c : Cap) (sh : Shape) : Stream := ⟨c, sh, pS, .store⟩
def Stream.both (c : Cap) (sh : Shape) : Stream := ⟨c, sh, pL ||| pS, .amo⟩

/-- The address of element `j` of a type of whole bytes (R122); a stream of count 1 is read as its element 0 (R124). -/
def Stream.addr (st : Stream) (j : Nat) : Int :=
  (st.cap.cursor : Int) + dimOffset st.sh.dims (if st.sh.count = 1 then 0 else j)

/-- The address of block `B` (R123): the row's base and the block's place within the row. -/
def Stream.blockAddr (st : Stream) (B : Nat) : Int :=
  let n := st.sh.row / 32
  (st.cap.cursor : Int) + (B % n * blockBytes st.sh.typ : Nat) + dimOffset (st.sh.dims.drop 1) (B / n)

/-- The address of the scale byte of block `B`: the scale stream is dense (R123). -/
def Stream.scaleAddr (st : Stream) (B : Nat) : Int := ((st.cap.cursor + st.sh.scaleOff + B : Nat) : Int)

/-- The footprint (R125): lowest byte and length of the data range, then of the scale range. -/
def Stream.ranges (st : Stream) : List (Int × Nat) :=
  if st.sh.count = 0 then []
  else
    let blk := isBlock st.sh.typ
    let dims := if blk then st.sh.dims.drop 1 else st.sh.dims
    let size := if blk then st.sh.row / 32 * blockBytes st.sh.typ else elemBytes st.sh.typ
    let moves := dims.map fun d => ((d.1 : Int) - 1) * d.2
    let lo := (st.cap.cursor : Int) + (moves.filter (· < 0)).foldl (· + ·) 0
    let hi := (st.cap.cursor : Int) + (moves.filter (0 ≤ ·)).foldl (· + ·) 0
    (lo, (hi - lo).toNat + size) ::
      (if blk then [(st.scaleAddr 0, st.sh.count / 32)] else [])

/-- The first element whose address is no multiple of its size (R125). -/
def Stream.misaligned (st : Stream) : Option Int :=
  let z := elemBytes st.sh.typ
  if isBlock st.sh.typ || z < 2 || st.sh.count = 0 then none
  else if st.cap.cursor % z ≠ 0 then some st.cap.cursor
  else (st.sh.dims.find? fun d => 1 < d.1 && d.2 % (z : Int) ≠ 0).map fun d => (st.cap.cursor : Int) + d.2

/-! ## The checks of R125 -/

/-- Capabilities of every stream, then alignment of every stream: cause and address. -/
def streamCheck (ss : List Stream) : Option (Nat × Nat) :=
  match ss.findSome? fun st => st.ranges.findSome? fun r => (capCheck st.cap r.1 r.2 st.perm).map fun c => (c, eaNat r.1) with
  | some e => some e
  | none => ss.findSome? fun st => st.misaligned.map fun a => (cAlign, eaNat a)

/-- Translates the pages, or window slices, of a range: the faults with their addresses, lowest first. A fault names the first byte of the
range within the page, slice or region that faults (DESIGN CHOICE, log 48). -/
def State.spanCheck (s : State) (v : Via) (acc : Access) (fuel lo hi : Nat) : List (Nat × Nat) × State :=
  match fuel with
  | 0 => ([], s)
  | k + 1 =>
    if hi ≤ lo then ([], s)
    else
      let (fault, n, s) : Option Nat × Nat × State := match regionOf lo with
        | .memory =>
          let r := s.resolve v lo 1 acc
          (match r.1 with
            | .ok _ => none
            | .error e => some e.cause, 2 ^ 18 - lo % 2 ^ 18, r.2)
        | .localW =>
          let n := min hi (localBase + sliceSize) - lo
          (if (s.window (v.ck % 2) (v.ck / 2) (v.ck / 2) (lo - localBase) n).isSome then none else some cNotPresent, n, s)
        | .clusterW =>
          let c := (lo - clusterBase) / sliceSize
          let o := (lo - clusterBase) % sliceSize
          let n := min (hi - lo) (sliceSize - o)
          (if (s.window (v.ck % 2) (v.ck / 2) (clusterOf (v.ck / 2) * 48 + c) o n).isSome then none else some cNotPresent, n, s)
        | .engine => (some (engineFault lo 1).cause, hi - lo, s)
        | .reserved => (some cNotPresent, hi - lo, s)
      let (r, s) := s.spanCheck v acc k (lo + n) hi
      ((fault.map fun c => (c, lo)).toList ++ r, s)

/-- The first block of a stream that crosses two pages whose attributes differ (R213). -/
def State.blockCheck (s : State) (v : Via) (st : Stream) : Option (Nat × Nat) :=
  if !isBlock st.sh.typ then none
  else (upTo (st.sh.count / 32)).findSome? fun B =>
    match (s.resolve v (eaNat (st.blockAddr B)) (blockBytes st.sh.typ) st.acc).1 with
    | .error e => some (e.cause, eaNat (st.blockAddr B))
    | .ok _ => none

/-- Every page of every footprint is translated: the faults in the order of streams and ranges. -/
def State.streamsFaults (s : State) (v : Via) (ss : List Stream) : List (Nat × Nat) × State :=
  match ss with
  | [] => ([], s)
  | st :: rest =>
    let (es, s) := st.ranges.foldl (fun (r : List (Nat × Nat) × State) g =>
      let q := r.2.spanCheck v st.acc (g.2 / 0x10000 + 2) (eaNat g.1) (eaNat g.1 + g.2)
      (r.1 ++ q.1, q.2)) ([], s)
    let es := if es = [] then (s.blockCheck v st).toList else es
    let (r, s) := s.streamsFaults v rest
    (es ++ r, s)

/-- The fault that R42 ranks first among those of one instruction: ALIGNMENT, PAGE_NOT_PRESENT, PAGE_PERMISSION; within a rank the first. -/
def firstFault (es : List (Nat × Nat)) : Option (Nat × Nat) :=
  let of (c : Nat) := es.find? fun e => e.1 = c
  ((of cAlign).or (of cNotPresent)).or es.head?

def State.streamsTranslate (s : State) (v : Via) (ss : List Stream) : Option (Nat × Nat) × State :=
  let r := s.streamsFaults v ss
  (firstFault r.1, r.2)

/-! ## A vector instruction as it runs (R130 to R135) -/

/-- The run: the state, the state as the run began, whether sources are read from it (1), from the present state (0; 3 where each element's
write comes before the reads of the next, R131) or from either (2, R132), poison met, flags, the running value of a scan, the writes of the group and of the groups before. -/
structure VRun where
  s : State
  old : State
  mix : Nat
  poison : Bool := false
  fl : Flags := 0
  acc : List Num := []
  out : List (Nat × List Byte) := []
  log : List (List (Nat × List Byte)) := []

def State.vecBytes (s : State) (va n : Nat) : Got × State :=
  match s.resolve s.via va n .load with
  | (.ok ps, s) =>
    let (g, s) := s.readPieces s.via ps false
    (s.overlay s.me s.via va n g, s)
  | (.error _, s) => (⟨List.replicate n 0, false, false⟩, s)

/-- `n` bytes of a source. -/
def VRun.read (v : VRun) (va n : Nat) : List Byte × VRun :=
  let (g, s) := v.s.vecBytes va n
  let v := { v with s := s, poison := v.poison || g.poison }
  if v.mix = 0 || v.mix = 3 then (g.bytes, v)
  else
    let o := (v.old.vecBytes va n).1.bytes
    if v.mix = 1 || o = g.bytes then (o, v)
    else
      let (w, s) := v.s.draw
      ((upTo n).map fun i => if w.getLsbD (i % 64) then o.getD i 0 else g.bytes.getD i 0, { v with s := s })

/-- An element as it is read: its code, the scale byte of its block, its exact value (R103). -/
structure Elem where
  code : Nat
  scale : Nat
  val : Num
deriving DecidableEq, Repr

/-- The weight of the least significant bit of the source at an element (R105). -/
def Elem.lsb (t : Nat) (e : Elem) : Int :=
  if isBlock t then elemLsb t e.code + ((e.scale : Int) - 127) else elemLsb t e.code

def elemOf (t code scale : Nat) : Elem :=
  ⟨code, scale, if isBlock t then decodeScaled t code scale else decodeElem t code⟩

/-- Block `B` of a stream: scale byte and the block as a number. -/
def VRun.block (v : VRun) (st : Stream) (B : Nat) : Nat × Nat × VRun :=
  let (bs, v) := v.read (eaNat (st.blockAddr B)) (blockBytes st.sh.typ)
  let (sc, v) := v.read (eaNat (st.scaleAddr B)) 1
  (leNat sc, leNat bs, v)

/-- `n` blocks from block `B`. -/
def VRun.blocks (v : VRun) (st : Stream) (B n : Nat) : List Elem × VRun :=
  match n with
  | 0 => ([], v)
  | k + 1 =>
    let (sc, w, v) := v.block st B
    let (es, v) := v.blocks st (B + 1) k
    ((upTo 32).map (fun i => elemOf st.sh.typ (blockCode st.sh.typ w i) sc) ++ es, v)

/-- Elements `lo` to `lo + n − 1` of a type of whole bytes. -/
def VRun.elems (v : VRun) (st : Stream) (lo n : Nat) : List Elem × VRun :=
  match n with
  | 0 => ([], v)
  | k + 1 =>
    let (bs, v) := v.read (eaNat (st.addr lo)) (elemBytes st.sh.typ)
    let (es, v) := v.elems st (lo + 1) k
    (elemOf st.sh.typ (leNat bs) 127 :: es, v)

/-- Elements `lo` to `lo + n − 1` of a stream, whichever its type: of blocks, those that the range touches. -/
def VRun.load (v : VRun) (st : Stream) (lo n : Nat) : List Elem × VRun :=
  if isBlock st.sh.typ then
    let (es, v) := v.blocks st (lo / 32) ((lo + n + 31) / 32 - lo / 32)
    ((es.drop (lo % 32)).take n, v)
  else v.elems st lo n

/-- A write of the group. -/
def VRun.write (v : VRun) (va : Int) (bs : List Byte) : VRun := { v with out := v.out ++ [(eaNat va, bs)] }
def VRun.flag (v : VRun) (f : Flags) : VRun := { v with fl := v.fl ||| f }

/-- Element `j` of a destination of whole bytes. -/
def VRun.put (v : VRun) (d : Stream) (j code : Nat) : VRun := v.write (d.addr j) (leBytes (elemBytes d.sh.typ) code)

/-- Block `B` of a destination with its scale byte. -/
def VRun.putBlock (v : VRun) (d : Stream) (B scale : Nat) (codes : List Nat) : VRun :=
  (v.write (d.blockAddr B) (packBlock d.sh.typ codes)).write (d.scaleAddr B) (leBytes 1 scale)

/-- The rounding of element `j`: under SR its generator steps once (R116). -/
def VRun.rnd (v : VRun) (mode : Nat) (sat : Bool) (j : Nat) (lsb : Option Int) : Rnd × VRun :=
  if mode = 5 then
    let (g, s) := v.s.genUse j
    (⟨5, sat, g, lsb⟩, { v with s := s })
  else (⟨mode, sat, 0, lsb⟩, v)

/-- A value to be written: exact, with the least significant weight of a converted source, and whether the source is an integer. -/
structure VVal where
  num : Num
  lsb : Option Int := none
  int : Bool := false
deriving DecidableEq, Repr

/-- One block quantised (R104). Answers the decoded values too, which VQUANT needs. -/
def VRun.quantise (v : VRun) (d : Stream) (lo : Nat) (mode : Nat) (sat : Bool) (xs : List VVal) : List Num × VRun :=
  let r := xs.foldl (fun (a : List (Num × Rnd) × VRun) x =>
    let (q, v) := a.2.rnd mode sat (lo + a.1.length) x.lsb
    (a.1 ++ [(x.num, q)], v)) ([], v)
  let (sc, codes, fl) := quantiseBlock d.sh.typ r.1
  (codes.map fun c => decodeScaled d.sh.typ c sc, (r.2.putBlock d (lo / 32) sc codes).flag fl)

/-- Values written to elements from `lo` on, converted (R104 to R109, R136). A destination of blocks takes whole blocks. -/
def VRun.emit (v : VRun) (d : Stream) (lo : Nat) (mode : Nat) (sat : Bool) (xs : List VVal) : VRun :=
  if isBlock d.sh.typ then
    (upTo ((xs.length + 31) / 32)).foldl (fun v b => (v.quantise d (lo + 32 * b) mode sat ((xs.drop (32 * b)).take 32)).2) v
  else
    (xs.foldl (fun (a : Nat × VRun) x =>
      -- a conversion to SCALE8 ignores the mode (R109)
      let (q, v) := if d.sh.typ = tSCALE8 then (⟨0, false, 0, none⟩, a.2) else a.2.rnd mode sat a.1 x.lsb
      let p := convertElem d.sh.typ q x.int x.num
      (a.1 + 1, (v.put d a.1 p.1).flag p.2)) (lo, v)).2

/-- Integer results: modulo 2^w, or under saturation at the nearest bound with SA (R136, R137). -/
def VRun.emitInt (v : VRun) (d : Stream) (lo : Nat) (sat : Bool) (xs : List Int) : VRun :=
  (xs.foldl (fun (a : Nat × VRun) x =>
    let p := if sat then clampInt d.sh.typ x else (x, 0)
    (a.1 + 1, (a.2.put d a.1 (intCode d.sh.typ p.1)).flag p.2)) (lo, v)).2

/-- The writes of a group are posted (R134). -/
def State.vecWrite (s : State) (w : Nat × List Byte) : State :=
  match s.resolve s.via w.1 w.2.length .store with
  | (.ok ps, s) => s.performBytes s.me w.1 w.2 false ps
  | (.error _, s) => s

def VRun.post (v : VRun) : VRun := { v with s := v.out.foldl State.vecWrite v.s, out := [], log := v.out :: v.log }

/-- One group. In an SO page whose elements overlap, the writes of each `unit` elements perform before the next are read (R131). -/
def VRun.group (v : VRun) (fuel : Nat) (body : VRun → Nat → Nat → VRun) (unit lo n : Nat) : VRun :=
  if v.mix ≠ 3 then body v lo n
  else match fuel with
    | 0 => v
    | k + 1 =>
      if n = 0 then v
      else
        let w := body v lo (min unit n)
        if w.poison then w else w.post.group k body unit (lo + min unit n) (n - min unit n)

/-- The groups of 64 elements from `done` on, at most `limit` of them. A group that meets poison is not posted. -/
def VRun.groups (v : VRun) (fuel : Nat) (body : VRun → Nat → Nat → VRun) (unit total done : Nat) (limit : Option Nat) : Nat × VRun :=
  match fuel with
  | 0 => (done, v)
  | k + 1 =>
    if total ≤ done || limit = some 0 then (done, v)
    else
      let w := v.group 64 body unit done (min 64 (total - done))
      if w.poison then (done, { v with poison := true })
      else w.post.groups k body unit total (done + min 64 (total - done)) (limit.map (· - 1))

/-- Whether two streams walk the same addresses with the same type (R132). -/
def sameWalk (a d : Stream) : Bool :=
  a.sh.typ = d.sh.typ && a.sh.count = d.sh.count &&
  (if isBlock a.sh.typ then
    a.scaleAddr 0 = d.scaleAddr 0 && (upTo (a.sh.count / 32)).all fun B => a.blockAddr B = d.blockAddr B
  else (upTo a.sh.count).all fun j => a.addr j = d.addr j)

def rangesMeet (a d : Stream) : Bool :=
  a.ranges.any fun x => d.ranges.any fun y => x.1 < y.1 + y.2 && y.1 < x.1 + x.2

def Stream.reads (st : Stream) : Bool := st.perm &&& pL ≠ 0
def Stream.writes (st : Stream) : Bool := st.perm &&& pS ≠ 0

/-- How sources are read (R131, R132): in place from the values before the instruction; with another overlap from either; in an SO page
in iteration order. -/
def mixOf (ss : List Stream) (so : Bool) : Nat :=
  let pairs := ss.flatMap fun a => if a.reads then (ss.filter fun d => d.writes).map fun d => (a, d) else []
  let meet := pairs.filter fun p => rangesMeet p.1 p.2
  if meet = [] then 0 else if meet.any fun p => sameWalk p.1 p.2 then 1 else if so then 3 else 2

/-- The pieces of the pages of a stream, one byte each. -/
def State.pagePieces (s : State) (v : Via) (st : Stream) : List Piece :=
  st.ranges.flatMap fun r =>
    let lo := eaNat r.1
    (upTo ((lo + r.2 - 1) / 2 ^ 18 - lo / 2 ^ 18 + 1)).flatMap fun i =>
      match (s.resolve v (if i = 0 then lo else (lo / 2 ^ 18 + i) * 2 ^ 18) 1 st.acc).1 with
      | .ok ps => ps
      | .error _ => []

/-- Whether an element of a source is read over a die link. -/
def State.streamCrosses (s : State) (v : Via) (st : Stream) : Bool :=
  st.reads &&
  ((s.pagePieces v st).any fun p => match p.loc with
    | .mem pa _ => crosses v.die pa
    | .spad _ => false) &&
  (let far (va n : Nat) : Bool := match (s.resolve v va n .load).1 with
    | .ok ps => s.readCrosses v ps false
    | .error _ => false
  if isBlock st.sh.typ then
    (upTo (st.sh.count / 32)).any fun B =>
      far (eaNat (st.blockAddr B)) (blockBytes st.sh.typ) || far (eaNat (st.scaleAddr B)) 1
  else (upTo st.sh.count).any fun j => far (eaNat (st.addr j)) (elemBytes st.sh.typ))

def numCode (x : Num) : Nat × Bool × Nat × Int := match x with
  | .fin n m e _ => (0, n, m, e)
  | .inf n => (1, n, 0, 0)
  | .nan s => (2, s, 0, 0)
def codeNum (c : Nat × Bool × Nat × Int) : Num :=
  if c.1 = 0 then .fin c.2.1 c.2.2.1 c.2.2.2 false else if c.1 = 1 then .inf c.2.1 else .nan c.2.1

/-- The slot's vector instruction takes its place in the order of issue of its core (R130). -/
def State.takeUnit (s : State) : State :=
  if s.sl.vecTurn.isSome then s
  else { s with order := s.order + 1 }.modSl fun sl => { sl with vecTurn := some s.order }

/-- Whether no slot of the core issued a vector instruction earlier that has not completed: the unit runs one at a time (R130). -/
def State.unitMine (s : State) : Bool :=
  (upTo 4).all fun i =>
    match (s.slotAt (bankKey (4 * s.myCore + i) (s.me % 2))).vecTurn, s.sl.vecTurn with
    | some n, some m => m ≤ n
    | _, _ => true

/-- A vector instruction over its streams: the checks of R125, then the groups, once the vector unit is free (R130). `body` computes one
group: its first element and its length. A group that must wait for stores, replies or a link read holds the unit. -/
def State.vector (s : State) (op : Nat) (ss : List Stream) (total : Nat) (body : VRun → Nat → Nat → VRun) : Res :=
  match streamCheck ss with
  | some (cause, addr) => .trap s cause addr
  | none =>
    match (ss.flatMap Stream.ranges).findSome? fun r => s.dataBp (eaNat r.1) r.2 with
    | some w => s.hitBp w
    | none =>
      let s := s.takeUnit
      if !s.unitMine then .wait s else
      let v := s.via
      match s.streamsTranslate v ss with
      | (some (cause, addr), s) => .trap s cause addr
      | (none, s) =>
        let pieces := ss.flatMap (s.pagePieces v)
        let so := pieces.any soPiece
        let run (s : State) (limit : Option Nat) : Nat × VRun :=
          VRun.groups { s := s, old := s, mix := mixOf ss so, fl := s.sl.vecFlags, acc := s.sl.vecAcc.map codeNum }
            ((total + 63) / 64) body (if ss.any fun st => isBlock st.sh.typ then 32 else 1) total s.sl.vecDone limit
        if so && s.repliesOut then .wait s
        else
          let leaves := pieces.any (pieceLeaves s.myCore)
          s.gate leaves ((ss.flatMap fun st => st.ranges.flatMap fun r => msgHead op (eaNat r.1) r.2) ++
              ((run s none).2.log.reverse.flatMap fun g => g.flatMap fun w => w.2)) fun s =>
            let far := ss.any (s.streamCrosses v)
            s.overLink (eaNat ((ss.flatMap Stream.ranges).head?.map Prod.fst |>.getD 0)) far (!far || s.piecesUp v pieces) fun s =>
              let r := run s s.groups
              if r.2.poison then .next (r.2.s.coreStop s.myCore)
              else if r.1 < total then
                .wait (r.2.s.modSl fun sl => { sl with vecDone := r.1, vecFlags := r.2.fl, vecAcc := r.2.acc.map numCode })
              else .done (r.2.s.addFlags r.2.fl)

/-! ## Shape checks (R121, R124, R101) -/

def vecShape (s : State) (f : MForm) (at_ : Nat) : Shape :=
  shapeOf (s.sl.shapes[f.imm.toNat / 2 ^ at_ % 16]'(Nat.mod_lt _ (by decide)))
def vecD (s : State) (f : MForm) : Shape := vecShape s f 12
def vecA (s : State) (f : MForm) : Shape := vecShape s f 8
def vecB (s : State) (f : MForm) : Shape := vecShape s f 4

/-- SB of R127, and X. -/
def vecSB (f : MForm) : Bool := f.imm.getLsbD 0
def vecX (f : MForm) : Bool := f.imm.getLsbD 1

/-- R124: a source count neither equal to the destination's nor 1; blocks are never broadcast. -/
def countBad (d a : Shape) : Bool := a.count ≠ d.count && (a.count ≠ 1 || isBlock a.typ)

/-- R101: a BL6 destination refuses RMI, RPL and SR. -/
def bl6Bad (t mode : Nat) : Bool := t = tBL6 && (mode = 2 || mode = 3 || mode = 5)

/-- The shapes that an instruction names, with the types it accepts for each stream. -/
def vecNamed (s : State) (op : Nat) (f : MForm) : List (Shape × (Nat → Bool)) :=
  let t := f.typ.toNat
  let is (x : Nat) : Nat → Bool := fun y => y = x
  let half : Nat → Bool := fun y => y = 0x10 || y = 0x11 || y = 0x12
  let b2 : List (Shape × (Nat → Bool)) := if vecSB f then [] else [(vecB s f, is t)]
  let o := op % 64
  if op / 64 = 9 then
    if o = 9 || o = 10 || o = 11 then [(vecA s f, is t), (vecD s f, is t)]
    else if o = 13 then (vecA s f, is t) :: b2 ++ [(vecD s f, is 2)]
    else (vecA s f, is t) :: b2 ++ [(vecD s f, is t)]
  else if o < 9 then [(vecA s f, is t), (vecD s f, is 0x10)]
  else match o with
  | 9 => [(vecA s f, isType), (vecD s f, is t)]
  | 10 => (vecA s f, half) :: (if vecX f then [(vecB s f, is 0x10)] else []) ++ [(vecD s f, is t)]
  | 11 => [(vecA s f, is t), (vecD s f, fun y => y = t || y = if isInt t then 7 else 0x10)]
  | 12 => [(vecA s f, is t), (vecD s f, fun y => y = t || y = if isInt t then 7 else 0x10)]
  | 13 => [(vecA s f, is t), (vecB s f, fun y => 3 ≤ y && y ≤ 6), (vecD s f, is t)]
  | 14 => [(vecA s f, is t), (vecB s f, fun y => 3 ≤ y && y ≤ 6), (vecD s f, is t)]
  | 15 => [(vecA s f, is t), (vecD s f, is t)]
  | 16 => [(vecD s f, is t)]
  | 17 => [(vecD s f, is t)]
  | _ => []

/-- Element counts that break R124 or the entry's own rule (R144 to R148). A VSCAN destination of the same count and other extents is accepted
(DESIGN CHOICE, log 48). -/
def vecCountBad (s : State) (op : Nat) (f : MForm) : Bool :=
  let d := vecD s f
  let a := vecA s f
  let b := vecB s f
  let o := op % 64
  if op / 64 = 9 then
    countBad d a || (!(o = 9 || o = 10 || o = 11) && !vecSB f && countBad d b)
  else match o with
  | 10 => countBad d a || (vecX f && b.count ≠ d.count)
  | 11 => d.count ≠ a.count / a.row
  | 12 => d.count ≠ a.count
  | 13 => a.rank ≠ 2 || d.count ≠ b.count * a.row
  | 14 => d.rank ≠ 2 || a.count ≠ b.count * d.row
  | 15 => countBad d a
  | _ => o < 10 && countBad d a

/-- The destination type of an entry whose ext selects a rounding mode under R83: the type that R101 looks at. -/
def vecRoundsTo (s : State) (op : Nat) (f : MForm) : Option Nat :=
  let o := op % 64
  if op / 64 = 9 then (if o < 12 then some f.typ.toNat else none)
  else match o with
  | 9 => some f.typ.toNat
  | 10 => some f.typ.toNat
  | 11 => some (vecD s f).typ
  | 12 => some (vecD s f).typ
  | 16 => some f.typ.toNat
  | _ => none

/-- Whether an opcode is a vector instruction over streams. -/
def isVector (op : Nat) : Bool := op / 64 = 9 || (op / 64 = 10 && op % 64 < 18)

/-- ILLEGAL_INSTRUCTION of R121 and R101, made whatever the guard. -/
def vecIll (op : Nat) (f : MForm) (s : State) : Bool :=
  isVector op &&
  (((vecNamed s op f).any fun p => p.1.bad) || vecCountBad s op f ||
    (match vecRoundsTo s op f with
     | some t => bl6Bad t (s.roundMode f.ext)
     | none => false))

/-- ILLEGAL_TYPE of R121. -/
def vecTyp (op : Nat) (f : MForm) (s : State) : Bool :=
  isVector op && (vecNamed s op f).any fun p => !isType p.1.typ || !p.2 p.1.typ

/-- A vector instruction in its frame: an empty one has no effect and pops no queue (R135). -/
def runVec (i : Instr) (op : Nat) (f : MForm) (body : Opnds → State → Res) (s : State) : Host.Outcome State Fault Refusal :=
  if !vecIll op f s && !vecTyp op f s && !s.regBad op f && s.guard f && (vecD s f).count = 0 then
    .next (s.advance f.len f.yield)
  else runM i op f f.len (vecIll op f) (vecTyp op f) body s

/-! ## The shape instructions (R150) -/

/-- A record with its must-be-zero fields cleared. -/
def shapeKeep (r : BitVec 256) : BitVec 256 := r &&& ~~~(0xFF00FC00 : BitVec 256)

/-- A field of a shape register: its lowest bit and its width. -/
def shapeField (code : Nat) : Nat × Nat :=
  if code = 0 then (0, 8)
  else if code = 1 then (8, 2)
  else if code = 2 then (16, 8)
  else if code = 12 then (224, 32)
  else if code < 8 then (32 + 16 * (code - 4), 16)
  else (96 + 32 * (code - 8), 32)

def State.setShape (s : State) (k : BitVec 5) (r : BitVec 256) : State :=
  s.modSl fun sl => { sl with shapes := sl.shapes.set (k.toNat % 16) r (Nat.mod_lt _ (by decide)) }
def State.shape (s : State) (k : BitVec 5) : BitVec 256 := s.sl.shapes[k.toNat % 16]'(Nat.mod_lt _ (by decide))

/-- The address of SHLD and SHST: a multiple of 8. -/
def State.shapeAddress (s : State) (f : MForm) (c : Cap) (perm : BitVec 7) (k : Nat → Res) : Res :=
  let ea := (c.cursor : Int) + f.immOff
  match capCheck c ea 32 perm with
  | some cause => .trap s cause (eaNat ea)
  | none => if eaNat ea % 8 ≠ 0 then .trap s cAlign (eaNat ea) else s.withAddress c ea 32 perm false k

def execShld (f : MForm) (s : State) : Host.Outcome State Fault Refusal :=
  runPlain (.shld f) 0x292 f (fun x s =>
    s.shapeAddress f x.a pL fun va =>
      s.loadAt 0x292 va 32 none fun _ g s => .done (s.setShape f.d (shapeKeep (BitVec.ofNat 256 (leNat g.bytes))))) s

def execShst (f : MForm) (s : State) : Host.Outcome State Fault Refusal :=
  runPlain (.shst f) 0x293 f (fun x s =>
    s.shapeAddress f x.a pS fun va =>
      if inQueueWindow va 32 then .trap s cPermission va
      else s.postStore va (leBytes 32 (shapeKeep (s.shape f.b)).toNat) .plain) s

def execShset (f : MForm) (s : State) : Host.Outcome State Fault Refusal :=
  runPlain (.shset f) 0x294 f (fun x s =>
    if f.typ = 0x0F then .done (s.setShape f.d 0)
    else
      let v : Word := x.a.dv + f.imm.signExtend 64
      let (lo, w) := shapeField f.typ.toNat
      let m : BitVec 256 := BitVec.ofNat 256 (2 ^ w - 1) <<< lo
      .done (s.setShape f.d ((s.shape f.d &&& ~~~m) ||| ((v.setWidth 256 <<< lo) &&& m)))) s

end Sys2Proof.Machine
end

