-- ==== Sys2Proof/Machine/Swap.lean ====
section
/-!
DEFINITION. Context swaps (R401 to R411). A swap is one step: the halt is the boundary between two steps, and a context whose bank is not live is
HALTED. What is served within the cluster mesh is served with the step that asks for it, so the skid ring takes what waits at the interfaces, and the
answers from outside the cluster that arrive while a context is swapped out (log 16).
-/
namespace Sys2Proof.Machine

/-! ## SWAPCTL and SWAPSTAT (R403) -/

structure SwapReq where
  slow : Bool
  noin : Bool
  outp : Nat
  inp : Nat
  cluster : Nat
deriving DecidableEq, Repr

def swapReq (v : Word) : SwapReq :=
  ⟨v.getLsbD 1, v.getLsbD 2, (v.extractLsb' 3 6).toNat, (v.extractLsb' 9 6).toNat, (v.extractLsb' 15 9).toNat⟩

/-- A refused GO: REFUSED and REASON. -/
def State.refuseSwap (s : State) (d reason : Nat) : State :=
  s.setCsr d 0x371 ((s.csr d 0x371 &&& ~~~0x3800) ||| 0x800 ||| BitVec.ofNat 64 (reason % 4 * 2 ^ 12))

/-- The entries that the skid ring of a bank holds on the core that uses most of it. -/
def State.skidMax (s : State) (c bank : Nat) : Nat :=
  ((upTo 48).map fun i => let b := s.coreBank (bankKey (48 * c + i) bank); b.skidIn.length + b.skidOut.length).foldl max 0

/-- SWAPSTAT after a swap that left bank `out` of the cluster: SKIDMAX, and no refusal. -/
def State.swapStat (s : State) (d c out : Nat) : State :=
  s.setCsr d 0x371 ((s.csr d 0x371 &&& 0x7FF) ||| BitVec.ofNat 64 (min 32 (s.skidMax c out) * 2 ^ 14))

/-- GO of a fast swap reads 1 until the incoming context issues. Where no strand of it can issue, the swap has ended, and LAST, of at most 1,120 clk, is a
free value (R403; log 4, log 16). -/
def State.swapBegins (s : State) (d c : Nat) : State :=
  let t := s.modDie d fun x => { x with swapRun := some (c, s.now) }
  if t.swapRuns d then t
  else
    let (a, s) := s.draw
    s.setCsr d 0x371 ((s.csr d 0x371 &&& ~~~0x7FF) ||| BitVec.ofNat 64 (a.toNat % 1121))

/-! ## Conditions (R403, R404, R406) -/

def coresIn (c : Nat) : List Nat := (upTo 48).map fun i => 48 * c + i

def State.anyStopped (s : State) (c : Nat) : Bool := (coresIn c).any fun n => (s.core n).stopped

/-- Whether the context in a bank is swap-eligible: no launch on its cores is twinned or declares more than 48 KiB. -/
def State.ctxEligible (s : State) (c bank : Nat) : Bool :=
  (coresIn c).all fun n => match (s.coreBank (bankKey n bank)).launch with
    | some l => !(s.header l).twin && (s.header l).scratch ≤ 49152
    | none => true

/-- Where the save area of R403 lies: the first byte of the area of a core of the cluster. -/
def areaOf (frame i : Nat) : Nat := (frame + i) * 2 ^ 18

/-- The saved context of a partition that an area holds: nothing has written the lines of its state since, and the keys of its SRAM lines are still those
of the writes (log 16). -/
def State.areaHolds (s : State) (v : Saved) : Bool :=
  (upTo 48).all fun i =>
    let a := areaOf v.frame i / 64
    let mine := s.keyOf.filter fun p => a ≤ p.1 && p.1 < a + 4096
    ((mine.filter fun p => a + 1536 ≤ p.1 && p.2 = (64, v.mark)).length = 2560) &&
      mine.all fun p => a + 1536 ≤ p.1 || 64 ≤ p.2.1 || p.2.2 = s.drawsOf (BitVec.ofNat 6 p.2.1)

def State.savedIn (s : State) (frame part cluster : Nat) : Option Saved :=
  s.saved.find? fun v => v.frame = frame && v.part = part && v.cluster = cluster && s.areaHolds v

/-- Whether a saved context fits beside another one: as a swap-eligible one does (R404, R405). -/
def State.fitsBeside (s : State) (v : Saved) : Bool := v.banks.all fun b => b.2.spad ≤ 49152 && (match b.2.launch with
  | some l => !(s.header l).twin
  | none => true)

/-- The reason for which a swap is refused: a stopped core, banks that do not match, a context that is not eligible. A live bank that holds no
context matches any OUTP (log 16). -/
def State.swapReason (s : State) (frame : Nat) (q : SwapReq) : Option Nat :=
  let c := q.cluster
  let x := s.cluster c
  let b := x.liveBank % 2
  let live := x.ctx b
  let shadow := x.ctx (1 - b)
  if Config.clusters ≤ c then some 2
  else if s.anyStopped c then some 3
  else if live.isSome && live ≠ some q.outp then some 2
  else if q.slow then
    (if q.noin then none
     else if shadow = some q.inp then some 2
     else match s.savedIn frame q.inp c with
       | some v => if shadow.isSome && !s.fitsBeside v then some 1 else none
       | none => none)
  else if !s.ctxEligible c b then some 1
  else if q.noin then none
  else if shadow.isSome then (if shadow ≠ some q.inp then some 2 else if !s.ctxEligible c (1 - b) then some 1 else none)
  else none

/-! ## The flip (R408, R409) -/

/-- The interface of a context sends its outstanding operations again under their serials. -/
def State.resendAll (s : State) (c p : Nat) : State :=
  (s.requesters.filter fun r => r.1 / 2 ^ 17 % 2 = 0 && clusterOf (reqCore r.1) = c && reqPart r.1 = p).foldl
    (fun t r => r.2.table.foldl (fun u e => u.resend r.1 e) t) s

/-- A swap that brings no context halts the live one where it stands (R403). -/
def State.idle (s : State) (c : Nat) : State :=
  let b := (s.cluster c).liveBank % 2
  let here (p : Nat × Slot) : Bool := clusterOf (p.1 / 8) = c && p.1 % 2 = b && p.2.state ≠ .idle
  let s := (s.dropMonitors c b).modCluster c fun x => { x with idled := true }
  { s with slots := s.slots.map fun p => if here p then (p.1, { p.2 with halted := true }) else p }

/-- Its slots are halted no longer, but for a debug halt. -/
def State.unidle (s : State) (c : Nat) : State :=
  if !(s.cluster c).idled then s
  else
    let b := (s.cluster c).liveBank % 2
    let h := (s.cluster c).halted
    let here (p : Nat × Slot) : Bool := clusterOf (p.1 / 8) = c && p.1 % 2 = b && p.2.state ≠ .idle
    let s := s.modCluster c fun x => { x with idled := false }
    { s with slots := s.slots.map fun p => if here p then (p.1, { p.2 with halted := h }) else p }

/-- Messages that wait at the interface of a core enter the egress half of its skid ring, in order and up to 16; what is left stays behind them (phases
3 and 4, R402). -/
def State.egress (s : State) (c bank : Nat) : State :=
  match (s.cluster c).ctx bank with
  | none => s
  | some p => (coresIn c).foldl (fun (t : State) n =>
      let id (i : Nat) : Nat := reqId false (4 * n + i) p
      let all : List SkidOut := (upTo 4).flatMap fun i => (t.requester (id i)).queue.map fun q => { slot := i, op := q }
      let out := all.take 16
      if out = [] then t
      else (upTo 4).foldl (fun (u : State) i =>
        let r := u.requester (id i)
        let n := (out.filter fun m => m.slot = i).length
        if n = 0 then u else u.setRequester (id i) { r with queue := r.queue.drop n, away := true })
        (t.modCoreBank (bankKey n bank) fun b => { b with skidOut := out })) s

/-- The incoming context replays the egress half of a core, in order, and delivers the ingress half to the slots that wait (phase 7); an entry that is
uncorrectable stops the core (R411). -/
def State.replay (s : State) (p core bank : Nat) : State :=
  let ck := bankKey core bank
  let b := s.coreBank ck
  if b.skidIn = [] && b.skidOut = [] then s
  else if (b.skidIn.any fun e => e.bad) || b.skidOut.any fun e => e.bad then s.coreStop core
  else
    let s := (upTo 4).foldl (fun (t : State) i =>
      let r := t.requester (reqId false (4 * core + i) p)
      if r.away then t.setRequester (reqId false (4 * core + i) p)
        { r with queue := ((b.skidOut.filter fun m => m.slot = i).map SkidOut.op) ++ r.queue, away := false } else t) s
    let s := b.skidIn.foldl (fun (t : State) e => t.modSlotAt (bankKey (4 * core + e.slot) bank) fun sl => { sl with ingress := some e.got }) s
    s.modCoreBank ck fun x => { x with skidIn := [], skidOut := [] }

/-- The banks of a cluster exchange their roles; a debug halt stays with its context, and a core that is stopped does not flip (R411). A context that a
swap without another had halted is no longer (R403). -/
def State.flip (s : State) (c : Nat) : State :=
  let o := (s.cluster c).liveBank % 2
  let b := 1 - o
  let s := ((s.unidle c).dropMonitors c o).egress c o
  let s := (coresIn c).foldl (fun (t : State) n => if (t.core n).stopped then t else t.modCore n fun x => { x with liveBank := b }) s
  s.modCluster c fun x => { x with liveBank := b, halted := x.shadowHalted, shadowHalted := x.halted }

/-- The incoming context goes on: the skid ring is replayed, outstanding operations are sent again, members of killed domains that waited end (R396, R408,
R409). -/
def State.resumeCtx (s : State) (c : Nat) : State :=
  let b := (s.cluster c).liveBank % 2
  let s := match (s.cluster c).ctx b with
    | some p => ((coresIn c).foldl (fun (t : State) n => t.replay p n b) s).resendAll c p
    | none => s
  s.endKilled c

/-- A swap of the cluster out of bank `out` has reached its last phase. -/
def State.finishSwap (s : State) (d c out : Nat) : State :=
  (((s.swapStat d c out).resumeCtx c)).fell d 0x04 none (unitSource d 0)

/-- A core that stops before phase 5 (R411): arg.c is 0, or one more than its number. -/
def State.stopsFirst (s : State) (c : Nat) : State :=
  if s.arg.c ≠ 0 && clusterOf (s.arg.c - 1) = c then s.coreStop (s.arg.c - 1) else s

/-- A write of SWAPCTL with GO, for the kind of swap that `want` accepts; it is ignored while a swap that the die started runs. -/
def State.swapWrite (s : State) (want : State → SwapReq → Bool) (k : Nat → SwapReq → State → State) : State :=
  let d := s.arg.a % 8
  match s.arg.pay with
  | .word v =>
    let q := swapReq v
    if !v.getLsbD 0 || s.swapRuns d || !want s q then s
    else
      let s := (s.setCsr d 0x370 (v &&& csrMask 0x370)).modDie d fun x => { x with swapRun := none }
      match s.swapReason (csrFrame (s.csr d 0x372)) q with
      | some r => s.refuseSwap d r
      | none => k d q s
  | _ => s

/-- Whether the shadow bank of a cluster holds a context. -/
def State.shadowHeld (s : State) (c : Nat) : Bool := ((s.cluster c).ctx (1 - (s.cluster c).liveBank % 2)).isSome

/-! ## The entry swap (R406) -/

/-- Step 1 for a core: its L1 goes home and is narrowed into the half of its scratchpad. -/
def State.narrow (s : State) (core bank : Nat) : State :=
  let ck := bankKey core bank
  let b := s.coreBank ck
  let s := s.emptyL1 ck
  -- the incoming bank takes the other half
  let s := s.modCoreBank (bankKey core (1 - bank)) fun x => { x with spadBase := if b.launch.isSome && b.spadBase ≠ 0 then 0 else 49152 }
  s.modCoreBank ck fun x => { x with
    l1Bytes := if b.launch.isSome then 49152 - b.spad else 0
    spadBase := if b.launch.isSome then b.spadBase else 0 }

/-- The context of the live bank takes one half of each core, and the empty bank beside it is made ready for `owner`. -/
def State.makeShadow (s : State) (c : Nat) (owner : Option Nat) : State :=
  let b := (s.cluster c).liveBank % 2
  (((coresIn c).foldl (fun (t : State) n => t.narrow n b) s).prepareBank c (1 - b) owner).settleParts s

/-- The fast swap itself. -/
def State.fastSwap (s : State) (d c : Nat) : State :=
  let out := (s.cluster c).liveBank % 2
  (((s.stopsFirst c).flip c).finishSwap d c out).swapBegins d c

/-- SWAP_FAST: arg.a is the die; SWAPCTL is written with GO. With NOIN the context goes into the empty shadow bank; beside a context in the shadow bank
it stays halted where it is (log 16). -/
def execSwapFast (s : State) : Host.Outcome State Fault Refusal :=
  .next (s.swapWrite (fun s q => !q.slow && (q.noin || s.shadowHeld q.cluster)) fun d q s =>
    let c := q.cluster
    if !q.noin then s.fastSwap d c
    else if s.shadowHeld c then (((s.idle c).swapStat d c ((s.cluster c).liveBank % 2)).fell d 0x04 none (unitSource d 0)).swapBegins d c
    else (s.makeShadow c none).fastSwap d c)

/-- SWAP_ENTRY: as SWAP_FAST, into a shadow bank that holds no context. -/
def execSwapEntry (s : State) : Host.Outcome State Fault Refusal :=
  .next (s.swapWrite (fun s q => !q.slow && !q.noin && !s.shadowHeld q.cluster) fun d q s =>
    (s.makeShadow q.cluster (some q.inp)).fastSwap d q.cluster)

/-! ## The slow path (R410) -/

/-- The bytes of a store within a range. -/
def Mem.within (m : Mem) (a n : Nat) : Mem :=
  { cells := m.cells.filter fun c => a ≤ c.1 && c.1 < a + n
    tags := m.tags.filter fun g => a ≤ 16 * g && 16 * g < a + n
    poison := m.poison.filter fun w => a ≤ 8 * w && 8 * w < a + n }

/-- The bytes and tags of `k`, each at its address as `f` moves it, over those of `m`. -/
def Mem.laid (m k : Mem) (f : Nat → Nat) : Mem :=
  let t := k.cells.foldl (fun t c => t.set (f c.1) c.2) m
  k.tags.foldl (fun t g => t.setTag (f (16 * g) / 16) true) t

/-- The SRAM of a context on a core: its half beside another context, or all of it where it runs alone (R405). -/
def State.ctxSram (s : State) (c core bank : Nat) : Nat × Nat :=
  if ((s.cluster c).ctx (1 - bank % 2)).isSome then (core * sliceSize + (s.coreBank (bankKey core bank)).spadBase, 49152)
  else (core * sliceSize, sliceSize)

/-- An empty live bank beside a context takes the half of each core that the context does not use (log 16). -/
def State.takeOtherHalf (s : State) (c b : Nat) : State :=
  if ((s.cluster c).ctx b).isSome || ((s.cluster c).ctx (1 - b)).isNone then s
  else (coresIn c).foldl (fun (t : State) n =>
    let x := s.coreBank (bankKey n (1 - b))
    t.modCoreBank (bankKey n b) fun y => { y with spadBase := if x.launch.isSome && x.spadBase ≠ 0 then 0 else 49152 }) s

/-- The combining windows that slots of a bank have joined: their records enter a window again when the slots resume (R287, log 16). -/
def State.leaveNodes (s : State) (c bank : Nat) : State :=
  let here (k : Nat) : Bool := clusterOf (k / 8) = c && k % 2 = bank
  let slots := s.slots.map fun (p : Nat × Slot) => if here p.1 && p.2.joined = some none then (p.1, { p.2 with joined := none }) else p
  State.modCluster { s with slots := slots } c fun x => { x with windows := x.windows.map fun w => { w with members := w.members.filter fun k => !here k } }

/-- A slot key of another bank. -/
def rebank (bank k : Nat) : Nat := bankKey (k / 2) bank

/-- A core bank as its place in the other bank of the core holds it (R27). -/
def CoreBank.rebanked (b : CoreBank) (bank : Nat) : CoreBank :=
  { b with queues := b.queues.map fun q => q.map fun (e : QEnt) => { e with owner := e.owner.map (rebank bank) } }

/-- The context of a bank as its save area holds it. -/
def State.saveCtx (s : State) (c bank frame part : Nat) : Saved :=
  { frame := frame, part := part, cluster := c, mark := s.free, whole := ((s.cluster c).ctx (1 - bank % 2)).isNone
    slots := (s.slots.filter fun p => clusterOf (p.1 / 8) = c && p.1 % 2 = bank).map fun (p : Nat × Slot) => (p.1 / 2, p.2)
    banks := (s.coreBanks.filter fun p => clusterOf (p.1 / 2) = c && p.1 % 2 = bank).map fun (p : Nat × CoreBank) => (p.1 / 2, p.2)
    twins := (s.cores.filter fun p => clusterOf p.1 = c && p.2.twin.isSome).map fun (p : Nat × Core) => (p.1, (p.2.twin, p.2.twinMsgs))
    weights := (s.quads.filter fun p => p.1 / 12 = c).map fun (p : Nat × Quad) =>
      (p.1, p.2.weights[bank % 2]'(Nat.mod_lt _ (by decide)))
    poison := s.spad.poison.filter fun w => 48 * c * sliceSize ≤ 8 * w && 8 * w < 48 * (c + 1) * sliceSize
    halted := (s.cluster c).halted }

/-- The SRAM of every core in the first 1,536 lines of its area, under the keys that the lines have; the lines behind them, for every other state of
R401, hold bytes that nothing states: as if written under a key that no page has (log 4, log 16). -/
def State.copyOut (s : State) (c frame : Nat) : State :=
  let lo := areaOf frame 0
  let inArea (line : Nat) : Bool := lo ≤ 64 * line && 64 * line < areaOf frame 48
  let s := ((s.coreBanks.flatMap fun b => b.2.l1.map Prod.fst).filter inArea).foldl State.combine s
  let clear : Mem :=
    { cells := s.mem.cells.filter fun c => !inArea (c.1 / 64)
      tags := s.mem.tags.filter fun g => !inArea (g / 4)
      poison := s.mem.poison.filter fun l => !inArea l }
  let m := clear.laid (s.spad.within (48 * c * sliceSize) (48 * sliceSize)) fun a =>
    areaOf frame (a / sliceSize - 48 * c) + a % sliceSize
  let m := s.spad.poison.foldl (fun t w => if 48 * c * sliceSize ≤ 8 * w && 8 * w < 48 * (c + 1) * sliceSize
    then t.setPoison ((areaOf frame (8 * w / sliceSize - 48 * c) + 8 * w % sliceSize) / 64) true else t) m
  let keys := (upTo 48).foldl (fun (k : SMap (Nat × Nat)) i =>
    let a := areaOf frame i / 64
    (k.filter fun p => p.1 < a + 1536) ++ ((upTo 2560).map fun j => (a + 1536 + j, (64, s.free))) ++ k.filter fun p => a + 4096 ≤ p.1) s.keyOf
  let seen := (s.clusters.flatMap fun x => x.2.monitors.map Monitor.line) ++ s.hostHeld
  (seen.filter inArea).foldl (fun t l => (t.touch l false).invalidateHost l) { s with mem := m, keyOf := keys, free := s.free + 1 }

/-- The SRAM of a core as its area in the memory `old` holds it, from `src` bytes on and `n` bytes long, at `dst` within the SRAM of the core; words that were poisoned,
and those of a line that has been poisoned since, are (R217). -/
def State.copyIn (s : State) (old : Mem) (v : Saved) (core src n dst : Nat) : State :=
  let lo := areaOf v.frame (core % 48) + src
  let dst0 := core * sliceSize + dst
  let m := s.spad.laid (old.within lo n) fun a => dst0 + (a - lo)
  let word (x : Nat) : Nat := (core * sliceSize + src + x) / 8
  let m := (upTo (n / 64)).foldl (fun t i =>
    if !old.poison.contains (lo / 64 + i) then t
    else
      let known := (upTo 8).any fun j => v.poison.contains (word (64 * i + 8 * j))
      (upTo 8).foldl (fun t j => if !known || v.poison.contains (word (64 * i + 8 * j)) then t.setPoison ((dst0 + 64 * i + 8 * j) / 8) true else t) t) m
  { s with spad := m }

/-- A core bank in the half of a core that is free beside another context (R405). -/
def CoreBank.moved (b : CoreBank) (base : Nat) : CoreBank :=
  { b with
    spadBase := base, l1Bytes := if b.launch.isSome then 49152 - b.spad else 0
    full := b.full.map fun w => w - b.spadBase / 8 + base / 8 }

/-- A saved context returns to its cores, its SRAM from the memory as it was: alone as it was, beside another context in the half that is free on each core. -/
def State.loadCtx (s : State) (mem : Mem) (v : Saved) (bank : Nat) : State :=
  let beside : Bool := ((s.cluster v.cluster).ctx (1 - bank % 2)).isSome
  let base (n : Nat) : Nat := (s.coreBank (bankKey n bank)).spadBase
  let old (n : Nat) : Nat := ((look v.banks n).getD CoreBank.reset).spadBase
  let t := (coresIn v.cluster).foldl (fun (t : State) n =>
    if beside then t.copyIn mem v n (old n) 49152 (base n)
    else if v.whole then t.copyIn mem v n 0 sliceSize 0 else t.copyIn mem v n (old n) 49152 (old n)) s
  { t with
    slots := v.slots.foldl (fun m p => put m (bankKey p.1 bank) p.2) t.slots
    coreBanks := v.banks.foldl (fun m p =>
      put m (bankKey p.1 bank) (if beside then (p.2.rebanked bank).moved (base p.1) else p.2.rebanked bank)) t.coreBanks
    quads := v.weights.foldl (fun m (p : Nat × Weights) =>
      put m p.1 { (t.quad p.1) with weights := (t.quad p.1).weights.set (bank % 2) p.2 (Nat.mod_lt _ (by decide)) }) t.quads
    cores := v.twins.foldl (fun m p => put m p.1 { (t.core p.1) with
      twin := p.2.1, twinMsgs := p.2.2.map fun x => { x with slot := rebank bank x.slot } }) t.cores
    clusters := put t.clusters v.cluster { (t.cluster v.cluster) with halted := v.halted }
    saved := t.saved.filter (· ≠ v) }

/-- The live context leaves its bank: nothing of it is left on its cores. -/
def State.saveOut (s : State) (d c b frame : Nat) : State :=
  match (s.cluster c).ctx b with
  | none => s.swapStat d c b
  | some p =>
    let s := ((((s.unidle c).dropMonitors c b).leaveNodes c b).egress c b).swapStat d c b
    let v := s.saveCtx c b frame p
    let s := s.copyOut c frame
    { s with
      saved := (s.saved.filter fun x => !(x.frame = frame && x.part = p && x.cluster = c)) ++ [v]
      cores := s.cores.map fun (x : Nat × Core) => if clusterOf x.1 = c then (x.1, { x.2 with twin := none, twinMsgs := [] }) else x }

/-- The slow path. The area has room for one context: what it holds for the incoming partition is read before the live context is written over it (log 16). -/
def State.slowSwap (s : State) (d : Nat) (q : SwapReq) : State :=
  let c := q.cluster
  let b := (s.cluster c).liveBank % 2
  let frame := csrFrame (s.csr d 0x372)
  let old := s
  let held := s.savedIn frame q.inp c
  let s := (coresIn c).foldl (fun (t : State) n => t.emptyL1 (bankKey n b)) (s.takeOtherHalf c b)
  let s := s.saveOut d c b frame
  let spad := (coresIn c).foldl (fun (m : Mem) n => m.zeroRange (s.ctxSram c n b).1 (s.ctxSram c n b).2) s.spad
  let s := ({ s with spad := spad }).prepareBank c b (if q.noin then none else some q.inp)
  let s := if q.noin then s
    else match held with
      | some v => s.loadCtx old.mem v b
      | none => s
  ((s.settleParts old).resumeCtx c).fell d 0x04 none (unitSource d 0)

/-- SWAP_SLOW: arg.a is the die; SWAPCTL is written with GO and SLOW. -/
def execSwapSlow (s : State) : Host.Outcome State Fault Refusal :=
  .next (s.swapWrite (fun _ q => q.slow) fun d q s => s.slowSwap d q)

end Sys2Proof.Machine
end

