-- ==== Sys2Proof/Machine/System.lean ====
section
/-!
DEFINITION. System instructions, class 0xD (R391 to R399): traps and their return, strand CSRs, retained stores, KILLDOM, generators,
TLBINV; debug instructions, class 0xE (R481).
-/
namespace Sys2Proof.Machine

/-! ## TRAP, ERET (R392, R393) -/

def execTrap (f : MForm) (s : State) : Host.Outcome State Fault Refusal :=
  runPlain (.trap f) 0x340 f (fun _ s => .next (s.takeTrap cSoftware 0 f.imm)) s

/-- Handler mode ends with PCC and g1 as the record holds them; records still held set PEND again (R386); the next instruction matches
no PC breakpoint (R472). -/
def Slot.leaveHandler (sl : Slot) (epcc g1 : Cap) (yield : Bool) : Slot :=
  { (sl.setReg 1 g1).finish yield with pcc := epcc, hm := false, pend := sl.pend || sl.stfRecs ≠ [], noBp := true }

/-- A granule of a trap record with its tag, as LDC reads one (R258). -/
def granule (g : Got) (ps : List Piece) (perm : BitVec 7) : Cap :=
  let tg : Bool := ps.all fun p => match p.loc with
    | .spad _ => true
    | .mem _ pg => pg.tg
  ⟨BitVec.ofNat 128 (leNat g.bytes), g.tag && tg && perm &&& pLC ≠ 0⟩

def eretBody (f : MForm) (x : Opnds) (s : State) : Res :=
  let va := x.a.cursor
  match capCheck x.a va 32 (pL ||| pLC) with
  | some cause => .trap s cause va
  | none =>
    if va % 64 ≠ 0 then .trap s cAlign va
    else s.withPieces va 16 .load fun p0 s => s.withPieces (va + 16) 16 .load fun p1 s =>
      s.loadPieces 0x341 va 16 p0 none fun g0 s => s.loadPieces 0x341 (va + 16) 16 p1 none fun g1 s =>
        let epcc := granule g0 p0 x.a.perm
        if epcc.cursor % 4 ≠ 0 then .trap s cAlign epcc.cursor
        else .next (s.modSl fun sl => sl.leaveHandler epcc (granule g1 p1 x.a.perm) f.yield)

def execEret (f : MForm) (s : State) : Host.Outcome State Fault Refusal :=
  runM (.eret f) 0x341 f f.len (fun s => !s.sl.hm) never (eretBody f) s

/-! ## Strand CSRs (R37 to R40, R219, R385, R394, R433, R453) -/

def csrNum (f : MForm) : Nat := f.imm.toNat % 4096

/-- The strand CSRs. -/
def strandCsr (n : Nat) : Bool :=
  n ≤ 4 || (8 ≤ n && n ≤ 11) || n = 0x10 || n = 0x12 || (0x18 ≤ n && n ≤ 0x1F) || n = 0x20 || n = 0x21 || n = 0x30 ||
    (0x40 ≤ n && n ≤ 0x42)

def hbmCsr (n : Nat) : Bool := 0x280 ≤ n && n ≤ 0x2BF

/-- TRAPREC as CSRR reads it. -/
def Slot.readTrapRec (sl : Slot) : Cap :=
  sl.trapRec.setCursor (sl.trapRec.val.extractLsb' 6 42 ++ (0 : BitVec 5) ++ BitVec.ofBool sl.hm)

/-- What CSRR reads. -/
def State.csrRead (s : State) (n : Nat) : Cap :=
  let sl := s.sl
  let w (v : Word) : Cap := Cap.ofWord v
  match n with
  | 0x00 => w (sl.fstat.setWidth 64)
  | 0x01 => w (sl.fctl.setWidth 64)
  | 0x02 => w (sl.qmap.setWidth 64)
  | 0x03 => w (BitVec.ofNat 64 (s.mySlot % 4))
  | 0x04 => w (BitVec.ofNat 64 s.myCore)
  | 0x08 => w (sl.domains[0].setWidth 64)
  | 0x09 => w (sl.domains[1].setWidth 64)
  | 0x0A => w (sl.domains[2].setWidth 64)
  | 0x0B => w (sl.domains[3].setWidth 64)
  | 0x10 => sl.readTrapRec
  | 0x12 => w sl.stfq
  | 0x20 => w (sl.seedIdx.setWidth 64)
  | 0x21 => w ((sl.gens.get sl.seedIdx.toFin).setWidth 64)
  | 0x30 => w s.now
  | 0x40 => w (sl.rtgt.setWidth 64)
  | 0x41 => w sl.rsts
  | 0x42 => w (sl.tclass.setWidth 64)
  | n => if hbmCsr n then w ((look (s.die s.myDie).hbmStall (n - 0x280)).getD 0) else w ((sl.stfRecs[n - 0x18]?).getD 0)

/-- A write of a strand CSR; one to a read-only CSR leaves it. -/
def Slot.csrWrite (sl : Slot) (n : Nat) (v : Cap) : Slot :=
  let d := v.dv
  match n with
  | 0x00 => { sl with fstat := d.setWidth 6 }
  | 0x01 => { sl with fctl := d.setWidth 4 }
  | 0x02 => { sl with qmap := d.setWidth 4 }
  | 0x10 => { sl with trapRec := v.setCursor (v.val.extractLsb' 6 42 ++ (0 : BitVec 6)) }
  | 0x20 => { sl with seedIdx := d.setWidth 6 }
  | 0x21 => { sl with gens := sl.gens.set sl.seedIdx.toNat (if d.setWidth 32 = (0 : BitVec 32) then 1 else d.setWidth 32) sl.seedIdx.isLt }
  | 0x40 => { sl with rtgt := d.setWidth 10 }
  | 0x41 => { sl with rsts := sl.rsts &&& ~~~(d &&& 3) }
  | 0x42 => { sl with tclass := d.setWidth 2 }
  | _ => sl

/-- A reserved code in a field: RM 6 and 7 of FCTL (R37, R39). -/
def csrReserved (n : Nat) (v : Word) : Bool := n = 1 && 6 ≤ v.toNat % 8

def csrrIll (f : MForm) (_ : State) : Bool := !strandCsr (csrNum f) && !hbmCsr (csrNum f)

def execCsrr (f : MForm) (s : State) : Host.Outcome State Fault Refusal :=
  runM (.csrr f) 0x342 f f.len (csrrIll f) never (fun _ s => .done (s.writeD f.d (s.csrRead (csrNum f)))) s

def csrwIll (op : Nat) (f : MForm) (s : State) : Bool :=
  !strandCsr (csrNum f) || (s.knownA op f).any fun v => csrReserved (csrNum f) v.dv

def execCsrw (f : MForm) (s : State) : Host.Outcome State Fault Refusal :=
  runM (.csrw f) 0x343 f f.len (csrwIll 0x343 f) never (fun x s => .done (s.modSl fun sl => sl.csrWrite (csrNum f) x.a)) s

/-- CSRX: the old value goes to gd under the mapping in which the instruction was decoded (R198). An old TRAPREC goes there without its tag:
R21 lets CSRR alone copy the tagged TRAPREC (log 49). -/
def execCsrx (f : MForm) (s : State) : Host.Outcome State Fault Refusal :=
  runM (.csrx f) 0x344 f f.len (csrwIll 0x344 f) never (fun x s =>
    .done ((s.writeD f.d { s.csrRead (csrNum f) with tag := false }).modSl fun sl => sl.csrWrite (csrNum f) x.a)) s

/-! ## Retained stores (R395) -/

/-- The records are cleared and every retained store is to be translated again. -/
def Slot.startRetry (sl : Slot) : Slot :=
  { sl with sbuf := sl.sbuf.map fun e => { e with held := false, faulted := false }, stfRecs := [], ovf := false, pend := false, acked := true }

def stretryBody (_ : Opnds) (s : State) : Res :=
  if !s.sl.acked && s.sl.retained = 0 then .done s
  else
    let t := (if s.sl.acked then s else s.modSl Slot.startRetry).storeSteps 16 s.me
    if t.sl.drained then .done t else .wait t

def execStretry (f : MForm) (s : State) : Host.Outcome State Fault Refusal := runPlain (.stretry f) 0x345 f stretryBody s

def Slot.dropStores (sl : Slot) : Slot :=
  if sl.retained = 0 then sl else { sl with sbuf := [], stfRecs := [], ovf := false, pend := false }

def execStdrop (f : MForm) (s : State) : Host.Outcome State Fault Refusal :=
  runPlain (.stdrop f) 0x346 f (fun _ s => .done (s.modSl Slot.dropStores)) s

/-! ## KILLDOM (R396) -/

def holdsDom (dom : Vector (BitVec 16) 4) (h : BitVec 16) : Bool := dom.toList.contains h
def recHolds (r : Record) (h : BitVec 16) : Bool := (upTo 4).any fun i => recDom r i = h

/-- Whether a slot's strand is one of the launch and a member of the domain. -/
def Slot.inDom (l : Nat × Nat) (h : BitVec 16) (sl : Slot) : Bool := sl.state ≠ .idle && sl.launch = some l && holdsDom sl.domains h

/-- The slots of a launch whose strand is a member of the domain. -/
def State.domMembers (s : State) (l : Nat × Nat) (h : BitVec 16) : List Nat := (s.slots.filter fun p => p.2.inDom l h).map Prod.fst

/-- A member whose context stands in its save area: halted, it ends when it resumes (R396, R411). -/
def State.savedMember (s : State) (l : Nat × Nat) (h : BitVec 16) : Bool := s.saved.any fun v => v.slots.any fun p => p.2.inDom l h

/-- The continuation records of a launch that hold the handle, gone from a cluster; a join cell with its continuation is disarmed. -/
def Cluster.discard (c : Cluster) (l : Nat × Nat) (h : BitVec 16) : Cluster :=
  let q := c.queuesOf l
  let c := c.setQueues { q with queues := q.queues.map fun r => r.filter fun x => !recHolds x.1 h }
  { c with
    parked := c.parked.filter fun p => !(p.launch = l && recHolds p.record h)
    joins := c.joins.filter fun j => !(j.2.launch = l && recHolds j.2.cont h) }

/-- The members in a save area are marked. -/
def Saved.kill (l : Nat × Nat) (h : BitVec 16) (v : Saved) : Saved :=
  { v with slots := v.slots.map fun (p : Nat × Slot) => if p.2.inDom l h then (p.1, { p.2 with killed := true }) else p }

/-- A waiting member ends at once; another ends at its next instruction boundary. -/
def State.killSlot (s : State) (k : Nat) : State :=
  let sl := s.slotAt k
  match sl.state with
  | .waiting _ => if sl.halted || !s.isLive k then s.modSlotAt k fun x => { x with killed := true } else s.abnormalEnd k 0
  | _ => s.modSlotAt k fun x => { x with killed := true }

def State.killDomain (s : State) (l : Nat × Nat) (h : BitVec 16) : State :=
  let s := { s with
    clusters := s.clusters.map fun (c : Nat × Cluster) => (c.1, c.2.discard l h)
    saved := s.saved.map (Saved.kill l h) }
  ((s.domMembers l h).filter fun k => k ≠ s.me).foldl State.killSlot s

def killdomBody (f : MForm) (_ : Opnds) (s : State) : Res :=
  let h := domOf s f.ext
  let l := s.myLaunch
  let t := s.killDomain l h
  if t.savedMember l h || (t.domMembers l h).any fun k => k ≠ s.me then .wait t else .next (t.abnormalEnd s.me 0)

def execKilldom (f : MForm) (s : State) : Host.Outcome State Fault Refusal :=
  runM (.killdom f) 0x347 f f.len (domIll f) never (killdomBody f) s

/-! ## Generators (R397) -/

def execSeedw (f : MForm) (s : State) : Host.Outcome State Fault Refusal :=
  runPlain (.seedw f) 0x348 f (fun x s => .done (s.modSl fun sl => { sl with gens := seedDerive (x.a.dv.setWidth 32) })) s

def execSeedr (f : MForm) (s : State) : Host.Outcome State Fault Refusal :=
  runPlain (.seedr f) 0x349 f (fun _ s =>
    .done (s.writeData f.d ((s.sl.gens[f.imm.toNat % 64]'(Nat.mod_lt _ (by decide))).setWidth 64))) s

/-! ## TLBINV (R398) -/

/-- The TLBs within reach lose the entries of a partition that `out` names. -/
def State.dropEntries (s : State) (scope : Nat) (out : TlbEntry → Bool) : State :=
  let keep (t : List TlbEntry) : List TlbEntry := t.filter fun e => !out e
  if 3 ≤ scope then
    { s with clusters := s.clusters.map fun (c : Nat × Cluster) => (c.1, { c.2 with tlb := keep c.2.tlb })
             dies := s.dies.map fun (d : Nat × Die) => (d.1, { d.2 with tlb := keep d.2.tlb }) }
  else
    let s := s.modCluster s.myCluster fun c => { c with tlb := keep c.tlb }
    if scope = 2 then s.modDie s.myDie fun d => { d with tlb := keep d.tlb } else s

/-- Whether a vector instruction of the partition within reach has translated its streams and is not complete (R125, R130). -/
def State.vectorRuns (s : State) (scope : Nat) : Bool :=
  s.slots.any fun p => p.1 ≠ s.me && p.2.vecTurn.isSome && (p.2.vecDone ≠ 0 || p.2.xread.isSome || p.2.twinSent) && s.partOf p.1 = s.myPart &&
    (3 ≤ scope || (if scope = 2 then dieOf (p.1 / 8) = s.myDie else clusterOf (p.1 / 8) = s.myCluster))

def tlbinvBody (f : MForm) (x : Opnds) (s : State) : Res :=
  let sc := f.typ.toNat
  let p := s.myPart
  if s.vectorRuns sc then .wait s else
  let s := (s.releaseAt s.myCoreKey sc true).acquireAt s.myCoreKey sc true
  .done (s.dropEntries sc fun e => if f.ext = 1 then e.part = p else e.covers p x.a.cursor)

def execTlbinv (f : MForm) (s : State) : Host.Outcome State Fault Refusal := runPlain (.tlbinv f) 0x34A f (tlbinvBody f) s

/-! ## Debug instructions (R481) -/

/-- TSREAD. A non-posted access of the slot has its reply before the next instruction issues, so SYNC finds none outstanding. -/
def execTsread (f : MForm) (s : State) : Host.Outcome State Fault Refusal :=
  runPlain (.tsread f) 0x380 f (fun _ s => .done (s.writeData f.d s.now)) s

/-- The counter of an event for the issuing slot, core, quad or cluster (R474). -/
def State.counter (s : State) (event : Nat) : BitVec 32 :=
  let cc := (s.core s.myCore).counters
  let q := (s.quad (quadOf s.myCore)).counters
  let k := (s.cluster s.myCluster).counters
  match event with
  | 0x001 => cc[s.mySlot % 4]'(Nat.lt_of_lt_of_le (Nat.mod_lt _ (by decide)) (by decide))
  | 0x002 => cc[4 + s.mySlot % 4]'(by have := Nat.mod_lt s.mySlot (show 0 < 4 by decide); omega)
  | 0x101 => cc[8]
  | 0x102 => cc[9]
  | 0x103 => cc[10]
  | 0x201 => q[0]
  | 0x202 => q[1]
  | 0x301 => k[0]
  | 0x302 => k[1]
  | 0x303 => k[2]
  | _ => 0

def execPerfrd (f : MForm) (s : State) : Host.Outcome State Fault Refusal :=
  runPlain (.perfrd f) 0x381 f (fun x s => .done (s.writeData f.d ((s.counter (x.a.dv.toNat % 1024)).setWidth 64))) s

def execTracev (f : MForm) (s : State) : Host.Outcome State Fault Refusal :=
  runPlain (.tracev f) 0x382 f (fun x s =>
    .done (s.cruiseEntry s.myCore (s.cruiseOf s.myCore) 3 0 [x.a.dv.setWidth 32, x.a.dv.extractLsb' 32 32])) s

/-- BRK: BREAKPOINT with its PC, or the halt of the cluster with BRK executed (R473). -/
def brkBody (_ : Opnds) (s : State) : Res :=
  if (s.csr s.myDie 0x4C4).getLsbD 11 then .done (s.haltCluster s.myCluster) else .trap s cBreak s.sl.pcc.cursor

def execBrk (f : MForm) (s : State) : Host.Outcome State Fault Refusal := runPlain (.brk f) 0x383 f brkBody s

def execLogmark (f : MForm) (s : State) : Host.Outcome State Fault Refusal :=
  runPlain (.logmark f) 0x384 f (fun _ s => .done (s.cruiseEntry s.myCore (s.cruiseOf s.myCore) 2 (f.imm.toNat % 4096) [])) s

end Sys2Proof.Machine
end

