-- ==== Sys2Proof/Machine/Vector.lean ====
section
/-!
DEFINITION. The vector instructions, classes 0x9 and 0xA (R136 to R149). Fusion (R151) changes timing only. An encoding whose type code is
not accepted meets the shape checks first (R42).
-/
namespace Sys2Proof.Machine

/-! ## Element-wise instructions (R136, R137) -/

/-- The streams of sources and destination, b left out under SB. -/
def vecStreams (s : State) (f : MForm) (x : Opnds) (d : Stream) : List Stream :=
  Stream.src x.a (vecA s f) :: (if vecSB f then [] else [Stream.src x.b (vecB s f)]) ++ [d]

/-- The scalar of SB (R136). -/
def vecScalar (f : MForm) (x : Opnds) : Num :=
  let t := f.typ.toNat
  if isInt t then .ofInt (intOf t x.b.dv.toNat) else of32 (fpArg x.b)

/-- Second operands of a group. -/
def VRun.second (v : VRun) (f : MForm) (x : Opnds) (b : Shape) (lo n : Nat) : List Num × VRun :=
  if vecSB f then (List.replicate n (vecScalar f x), v)
  else let (es, v) := v.load (.src x.b b) lo n; (es.map Elem.val, v)

/-- The integer that an exact integer value stands for. -/
def Num.toInt (x : Num) : Int := match x with
  | .fin n m _ _ => if n then -(m : Int) else m
  | _ => 0

/-- The integer operations of R137 on the width and the exact values: the result and its flags. -/
def vecInt (op w : Nat) (signed : Bool) (x y old : Int) : Int × Flags :=
  let code (v : Int) : Nat := (v % (2 ^ w : Nat)).toNat
  let sh := (y % (w : Int)).toNat
  match op with
  | 0 => (x + y, 0)
  | 1 => (x - y, 0)
  | 2 => (x * y, 0)
  | 3 => (x * y + old, 0)
  | 4 => if y = 0 then ((if signed then -1 else (2 ^ w : Nat) - 1), DZ) else (x.tdiv y, 0)
  | 5 => (min x y, 0)
  | 6 => (max x y, 0)
  | 7 => (min x y, 0)
  | 8 => (max x y, 0)
  | 14 => ((code x &&& code y : Nat), 0)
  | 15 => ((code x ||| code y : Nat), 0)
  | 16 => ((code x ^^^ code y : Nat), 0)
  | 17 => (x * (2 ^ sh : Nat), 0)
  | _ => (x / (2 ^ sh : Nat), 0)

/-- The floating operations of R137, exact. -/
def vecFloat (op mode : Nat) (x y old : Num) : Num × Flags :=
  match op with
  | 0 => numAdd mode x y
  | 1 => numAdd mode x y.negate
  | 2 => numMul x y
  | 3 => numFma mode x y old
  | 4 => numDiv x y
  | 5 => minmaxNum false false x y
  | 6 => minmaxNum true false x y
  | 7 => minmaxNum false true x y
  | _ => minmaxNum true true x y

/-- Folds the flags of a list of results into the run. -/
def VRun.results {α : Type} (v : VRun) (rs : List (α × Flags)) : List α × VRun :=
  (rs.map Prod.fst, v.flag (rs.foldl (fun a r => a ||| r.2) 0))

/-- vec_map of R136 for the operation `o` of class 0x9. -/
def mapBody (o : Nat) (f : MForm) (x : Opnds) (s : State) : Res :=
  let t := f.typ.toNat
  let mode := s.roundMode f.ext
  let sat : Bool := o < 9 && s.roundSat f.ext
  let b := vecB s f
  let d : Stream := if o = 3 then .both x.d (vecD s f) else .dst x.d (vecD s f)
  s.vector (0x240 + o) (vecStreams s f x d) d.sh.count fun v lo n =>
    let (xs, v) := v.load (.src x.a (vecA s f)) lo n
    let (ys, v) := v.second f x b lo n
    let (os, v) := if o = 3 then v.load d lo n else (xs, v)
    let args := xs.zip (ys.zip os)
    if isInt t then
      let (rs, v) := v.results (args.map fun p =>
        vecInt o (intBits t) (intSigned t) p.1.val.toInt p.2.1.toInt p.2.2.val.toInt)
      v.emitInt d lo sat rs
    else
      let (rs, v) := v.results (args.map fun p => vecFloat o mode p.1.val p.2.1 p.2.2.val)
      v.emit d lo mode sat (rs.map fun r => { num := r })

def execVadd (f : MForm) (s : State) : Host.Outcome State Fault Refusal := runVec (.vadd f) 0x240 f (mapBody 0 f) s
def execVsub (f : MForm) (s : State) : Host.Outcome State Fault Refusal := runVec (.vsub f) 0x241 f (mapBody 1 f) s
def execVmul (f : MForm) (s : State) : Host.Outcome State Fault Refusal := runVec (.vmul f) 0x242 f (mapBody 2 f) s
def execVfma (f : MForm) (s : State) : Host.Outcome State Fault Refusal := runVec (.vfma f) 0x243 f (mapBody 3 f) s
def execVdiv (f : MForm) (s : State) : Host.Outcome State Fault Refusal := runVec (.vdiv f) 0x244 f (mapBody 4 f) s
def execVmin (f : MForm) (s : State) : Host.Outcome State Fault Refusal := runVec (.vmin f) 0x245 f (mapBody 5 f) s
def execVmax (f : MForm) (s : State) : Host.Outcome State Fault Refusal := runVec (.vmax f) 0x246 f (mapBody 6 f) s
def execVminn (f : MForm) (s : State) : Host.Outcome State Fault Refusal := runVec (.vminn f) 0x247 f (mapBody 7 f) s
def execVmaxn (f : MForm) (s : State) : Host.Outcome State Fault Refusal := runVec (.vmaxn f) 0x248 f (mapBody 8 f) s
def execVand (f : MForm) (s : State) : Host.Outcome State Fault Refusal := runVec (.vand f) 0x24E f (mapBody 14 f) s
def execVor (f : MForm) (s : State) : Host.Outcome State Fault Refusal := runVec (.vor f) 0x24F f (mapBody 15 f) s
def execVxor (f : MForm) (s : State) : Host.Outcome State Fault Refusal := runVec (.vxor f) 0x250 f (mapBody 16 f) s
def execVshl (f : MForm) (s : State) : Host.Outcome State Fault Refusal := runVec (.vshl f) 0x251 f (mapBody 17 f) s
def execVshr (f : MForm) (s : State) : Host.Outcome State Fault Refusal := runVec (.vshr f) 0x252 f (mapBody 18 f) s

/-- The code of VABS or VNEG on one element code that is no integer (R138). -/
def signCode (t : Nat) (neg : Bool) (c : Nat) : Nat × Flags :=
  if t = tMXINT8 then
    let i := intOf 1 c
    let r : Int := if neg then -i else i.natAbs
    if 127 < r then (0x7F, SA) else (intCode 1 r, 0)
  else
    let top := 2 ^ (elemBits t - 1)
    (if neg then c ^^^ top else c % top, 0)

/-- VABS and VNEG (R138): no rounding; scale bytes are copied. -/
def signBody (op : Nat) (neg : Bool) (f : MForm) (x : Opnds) (s : State) : Res :=
  let t := f.typ.toNat
  let sat := s.roundSat f.ext
  let a : Stream := .src x.a (vecA s f)
  let d : Stream := .dst x.d (vecD s f)
  s.vector op [a, d] d.sh.count fun v lo n =>
    let (xs, v) := v.load a lo n
    if isInt t then v.emitInt d lo sat (xs.map fun e => if neg then -e.val.toInt else e.val.toInt.natAbs)
    else
      let (cs, v) := v.results (xs.map fun e => signCode t neg e.code)
      if isBlock t then
        (upTo ((n + 31) / 32)).foldl (fun v i =>
          v.putBlock d (lo / 32 + i) ((xs[32 * i]?).map Elem.scale |>.getD 0) ((cs.drop (32 * i)).take 32)) v
      else (cs.foldl (fun (p : Nat × VRun) c => (p.1 + 1, p.2.put d p.1 c)) (lo, v)).2

def execVabs (f : MForm) (s : State) : Host.Outcome State Fault Refusal := runVec (.vabs f) 0x249 f (signBody 0x249 false f) s
def execVneg (f : MForm) (s : State) : Host.Outcome State Fault Refusal := runVec (.vneg f) 0x24A f (signBody 0x24A true f) s

/-- VCLAMP (R139): minimum(maximum(x, lo), hi). -/
def clampBody (f : MForm) (x : Opnds) (s : State) : Res :=
  let t := f.typ.toNat
  let a : Stream := .src x.a (vecA s f)
  let d : Stream := .dst x.d (vecD s f)
  let low := s.reg f.b
  let high := s.reg (f.b + 1)
  let bound (c : Cap) : Int := if intSigned t then c.dv.toInt else c.dv.toNat
  s.vector 0x24B [a, d] d.sh.count fun v lo n =>
    let (xs, v) := v.load a lo n
    if isInt t then v.emitInt d lo true (xs.map fun e => min (max e.val.toInt (bound low)) (bound high))
    else
      let (rs, v) := v.results (xs.map fun e =>
        let p := minmaxNum true false e.val (of32 (fpArg low))
        let q := minmaxNum false false p.1 (of32 (fpArg high))
        (q.1, p.2 ||| q.2))
      v.emit d lo (s.roundMode f.ext) (s.roundSat f.ext) (rs.map fun r => { num := r })

def execVclamp (f : MForm) (s : State) : Host.Outcome State Fault Refusal := runVec (.vclamp f) 0x24B f (clampBody f) s

/-- VSEL (R140): the mask is a dense byte stream at the capability in register ext. -/
def selBody (f : MForm) (x : Opnds) (s : State) : Res :=
  let t := f.typ.toNat
  let a : Stream := .src x.a (vecA s f)
  let d : Stream := .dst x.d (vecD s f)
  let b : Stream := .src x.b (vecB s f)
  let mask : Stream := .src (s.reg f.ext) (denseBytes d.sh.count)
  -- the scalar as a code: an integer and an FP32 pattern unchanged, a narrower one converted under RNE without saturation
  let sc : Nat × Flags :=
    if isInt t then (x.b.dv.toNat % 2 ^ intBits t, 0)
    else if t = tFP32 then (fpArg x.b, 0)
    else if isBlock t then (0, 0)
    else roundF (fmtOf t) { lsb := some (lsbOf fmtFP32 (fpArg x.b)) } (of32 (fpArg x.b))
  s.vector 0x24C ((a :: (if vecSB f then [] else [b])) ++ [mask, d]) d.sh.count fun v lo n =>
    let (xs, v) := v.load a lo n
    let (ys, v) := if vecSB f then (List.replicate n (⟨sc.1, 127, vecScalar f x⟩ : Elem), v) else v.load b lo n
    let (ms, v) := v.load mask lo n
    let picked := (ms.zip (xs.zip ys)).map fun p => if p.1.code ≠ 0 then p.2.1 else p.2.2
    if isBlock t then v.emit d lo 0 false (picked.map fun e => { num := e.val })
    else
      let v := if vecSB f && ms.any (fun m => m.code = 0) then v.flag sc.2 else v
      (picked.foldl (fun (p : Nat × VRun) e => (p.1 + 1, p.2.put d p.1 e.code)) (lo, v)).2

def execVsel (f : MForm) (s : State) : Host.Outcome State Fault Refusal := runVec (.vsel f) 0x24C f (selBody f) s

/-- VCMP (R141): 1 or 0 into a UINT8 stream. -/
def vcmpBody (f : MForm) (x : Opnds) (s : State) : Res :=
  let t := f.typ.toNat
  let b := vecB s f
  let d : Stream := .dst x.d (vecD s f)
  s.vector 0x24D (vecStreams s f x d) d.sh.count fun v lo n =>
    let (xs, v) := v.load (.src x.a (vecA s f)) lo n
    let (ys, v) := v.second f x b lo n
    let (rs, v) := v.results ((xs.zip ys).map fun p =>
      if isInt t then
        (icmp (f.ext.toNat % 16) (intBits t) (intCode t p.1.val.toInt) (intCode t p.2.toInt), (0 : Flags))
      else fcmp f.ext.toNat p.1.val p.2)
    (rs.foldl (fun (p : Nat × VRun) r => (p.1 + 1, p.2.put d p.1 (if r then 1 else 0))) (lo, v)).2

def execVcmp (f : MForm) (s : State) : Host.Outcome State Fault Refusal := runVec (.vcmp f) 0x24D f (vcmpBody f) s

/-! ## Special functions (R142, R112) -/

/-- A special function: `rounds` says that the instruction's rounding applies; the others round to nearest without saturation. -/
def specialBody (op : Nat) (rounds : Bool) (g : Num → Num × Flags) (f : MForm) (x : Opnds) (s : State) : Res :=
  let a : Stream := .src x.a (vecA s f)
  let d : Stream := .dst x.d (vecD s f)
  s.vector op [a, d] d.sh.count fun v lo n =>
    let (xs, v) := v.load a lo n
    let (rs, v) := v.results (xs.map fun e => g e.val)
    v.emit d lo (if rounds then s.roundMode f.ext else 0) (rounds && s.roundSat f.ext) (rs.map fun r => { num := r })

def execVexp2 (f : MForm) (s : State) : Host.Outcome State Fault Refusal :=
  runVec (.vexp2 f) 0x280 f (specialBody 0x280 false numExp2 f) s
def execVexp (f : MForm) (s : State) : Host.Outcome State Fault Refusal :=
  runVec (.vexp f) 0x281 f (specialBody 0x281 false numExp f) s
def execVlog2 (f : MForm) (s : State) : Host.Outcome State Fault Refusal :=
  runVec (.vlog2 f) 0x282 f (specialBody 0x282 false numLog2 f) s
def execVlog (f : MForm) (s : State) : Host.Outcome State Fault Refusal :=
  runVec (.vlog f) 0x283 f (specialBody 0x283 false numLog f) s
def execVrcp (f : MForm) (s : State) : Host.Outcome State Fault Refusal :=
  runVec (.vrcp f) 0x284 f (specialBody 0x284 true (numDiv (.ofInt 1)) f) s
def execVrsqrt (f : MForm) (s : State) : Host.Outcome State Fault Refusal :=
  runVec (.vrsqrt f) 0x285 f (specialBody 0x285 false numRsqrt f) s
def execVsqrt (f : MForm) (s : State) : Host.Outcome State Fault Refusal :=
  runVec (.vsqrt f) 0x286 f (specialBody 0x286 true numSqrt f) s
def execVtanh (f : MForm) (s : State) : Host.Outcome State Fault Refusal :=
  runVec (.vtanh f) 0x287 f (specialBody 0x287 false numTanh f) s
def execVsigm (f : MForm) (s : State) : Host.Outcome State Fault Refusal :=
  runVec (.vsigm f) 0x288 f (specialBody 0x288 false numSigm f) s

/-! ## Conversions (R143, R144) -/

/-- The elements of a source as values to convert. -/
def convVals (t : Nat) (xs : List Elem) : List VVal := xs.map fun e => { num := e.val, lsb := some (e.lsb t), int := isInt t }

def execVcvt (f : MForm) (s : State) : Host.Outcome State Fault Refusal :=
  runVec (.vcvt f) 0x289 f (fun x s =>
    let a : Stream := .src x.a (vecA s f)
    let d : Stream := .dst x.d (vecD s f)
    s.vector 0x289 [a, d] d.sh.count fun v lo n =>
      let (xs, v) := v.load a lo n
      v.emit d lo (s.roundMode f.ext) (s.roundSat f.ext) (convVals a.sh.typ xs)) s

/-- The residual of one element: x − decoded under RNE (R144). -/
def residual (x y : Num) : Nat × Flags :=
  let p := numAdd 0 x y.negate
  let q := fp32 p.1
  (q.1, p.2 ||| q.2)

def quantBody (f : MForm) (x : Opnds) (s : State) : Res :=
  let a : Stream := .src x.a (vecA s f)
  let b : Stream := .dst x.b (vecB s f)
  let d : Stream := .dst x.d (vecD s f)
  let mode := s.roundMode f.ext
  let sat := s.roundSat f.ext
  s.vector 0x28A (a :: (if vecX f then [b, d] else [d])) d.sh.count fun v lo n =>
    let (xs, v) := v.load a lo n
    if !vecX f then v.emit d lo mode sat (convVals a.sh.typ xs)
    else
      (upTo ((n + 31) / 32)).foldl (fun v i =>
        let es := (xs.drop (32 * i)).take 32
        let (ys, v) := v.quantise d (lo + 32 * i) mode sat (convVals a.sh.typ es)
        -- a block of scale 0xFF gives the default NaN and no flag of its own
        let (rs, v) := v.results ((es.zip ys).map fun p => if p.2.isNan then (0x7FC00000, (0 : Flags)) else residual p.1.val p.2)
        (rs.foldl (fun (p : Nat × VRun) r => (p.1 + 1, p.2.put b p.1 r)) (lo + 32 * i, v)).2) v

def execVquant (f : MForm) (s : State) : Host.Outcome State Fault Refusal := runVec (.vquant f) 0x28A f (quantBody f) s

/-! ## Reductions and scans (R145, R146) -/

/-- MAX, MIN, MAXN and MINN on exact values. -/
def redMinMax (op : Nat) (x y : Num) : Num × Flags := minmaxNum (op = 1 || op = 3) (op = 3 || op = 4) x y

/-- The exact sum of a group of at most 16; special values in the order of R114: a NaN decides first. -/
def groupSum (xs : List Num) : Num × Flags :=
  if xs.any Num.isNan then (.nan false, if xs.any Num.isSignal then NV else 0)
  else match xs with
  | [] => (.zero false, 0)
  | x :: r => r.foldl (fun a y => let p := numAdd 0 a.1 y; (p.1, a.2 ||| p.2)) (x, 0)

/-- The floating sum of reduce_row: one round_fp32 under RNE for each group of 16, with the instruction's saturation (R105). -/
def rowSum (sat : Bool) (fuel : Nat) (acc : Option Num) (xs : List Num) : Num × Flags :=
  match fuel with
  | 0 => (acc.getD (.zero false), 0)
  | k + 1 =>
    if xs = [] then (acc.getD (.zero false), 0)
    else
      let g := groupSum (xs.take 16)
      let p : Num × Flags := match acc with
        | none => g
        | some a => let q := numAdd 0 a g.1; (q.1, g.2 ||| q.2)
      let r := roundF fmtFP32 { sat := sat } p.1
      let rest := rowSum sat k (some (of32 r.1)) (xs.drop 16)
      (rest.1, p.2 ||| r.2 ||| rest.2)

/-- reduce_row of R145 on a row that is not empty. -/
def reduceRow (t op : Nat) (sat : Bool) (xs : List Num) : Num × Flags :=
  if op = 0 then
    (if isInt t then (.ofInt ((xs.map Num.toInt).foldl (· + ·) 0), 0) else rowSum sat (xs.length / 16 + 1) none xs)
  else match xs with
  | [] => (.zero false, 0)
  | x :: r => r.foldl (fun a y => let p := redMinMax op a.1 y; (p.1, a.2 ||| p.2)) (x, 0)

/-- The operation of VREDUCE and VSCAN. -/
def redOp (f : MForm) : Nat := f.imm.toNat / 16 % 16

/-- The rows of a group: row `lo` and the `n − 1` after it. -/
def VRun.rows (v : VRun) (a : Stream) (len lo n : Nat) : List (List Elem) × VRun :=
  match n with
  | 0 => ([], v)
  | k + 1 =>
    let (xs, v) := v.load a (lo * len) len
    let (r, v) := v.rows a len (lo + 1) k
    (xs :: r, v)

/-- Results of a reduction written to a destination: an FP32 sum unchanged, integers by R136, the rest rounded. -/
def VRun.emitRed (v : VRun) (d : Stream) (t op lo mode : Nat) (sat : Bool) (xs : List Num) : VRun :=
  if isInt t then v.emitInt d lo sat (xs.map Num.toInt)
  else if op = 0 && d.sh.typ = tFP32 then
    (xs.foldl (fun (p : Nat × VRun) r => (p.1 + 1, p.2.put d p.1 (fp32 r).1)) (lo, v)).2
  else v.emit d lo mode sat (xs.map fun r => { num := r })

/-- VREDUCE: the groups of 64 count destination elements, that is rows (DESIGN CHOICE, log 48). -/
def reduceBody (f : MForm) (x : Opnds) (s : State) : Res :=
  let t := f.typ.toNat
  let a : Stream := .src x.a (vecA s f)
  let d : Stream := .dst x.d (vecD s f)
  s.vector 0x28B [a, d] d.sh.count fun v lo n =>
    let (rows, v) := v.rows a a.sh.row lo n
    let (rs, v) := v.results (rows.map fun r => reduceRow t (redOp f) (s.roundSat f.ext) (r.map Elem.val))
    v.emitRed d t (redOp f) lo (s.roundMode f.ext) (s.roundSat f.ext) rs

def execVreduce (f : MForm) (s : State) : Host.Outcome State Fault Refusal := runVec (.vreduce f) 0x28B f (reduceBody f) s

/-- The identity of an exclusive scan (R146). -/
def scanIdentity (t op : Nat) : Num :=
  if op = 0 then .zero false
  else if op = 1 || op = 3 then (if isInt t then .ofInt (intMin t) else .inf true)
  else if isInt t then .ofInt (intMax t) else .inf false

/-- One step of a scan: the running value, the element that joins it, and the output of element `j`. The carried list holds the running
value and the element before. The FP32 additions of a scan into a narrower destination do not saturate (DESIGN CHOICE, log 48). -/
def VRun.scanStep (v : VRun) (t op row : Nat) (excl fp : Bool) (mode : Nat) (sat : Bool) (j : Nat) (e : Num) : Num × VRun :=
  let done (r : Num) (v : VRun) : Num × VRun := (r, { v with acc := [r, e] })
  if j % row = 0 then done (if excl then scanIdentity t op else e) v
  else match v.acc with
    | [r, before] =>
      let y := if excl then before else e
      if isInt t then
        done (if op = 0 then .ofInt (r.toInt + y.toInt)
          else .ofInt (if op = 1 || op = 3 then max r.toInt y.toInt else min r.toInt y.toInt)) v
      else if op = 0 then
        let p := numAdd (if fp then mode else 0) r y
        let (q, v) := if fp then v.rnd mode sat j none else (({} : Rnd), v)
        let c := roundF fmtFP32 q p.1
        done (of32 c.1) (v.flag (p.2 ||| c.2))
      else
        let p := redMinMax op r y
        done p.1 (v.flag p.2)
    | _ => done e v

def scanBody (f : MForm) (x : Opnds) (s : State) : Res :=
  let t := f.typ.toNat
  let a : Stream := .src x.a (vecA s f)
  let d : Stream := .dst x.d (vecD s f)
  let mode := s.roundMode f.ext
  let sat := s.roundSat f.ext
  let op := redOp f
  s.vector 0x28C [a, d] d.sh.count fun v lo n =>
    let (xs, v) := v.load a lo n
    let r := xs.foldl (fun (p : List Num × VRun) e =>
      let (o, v) := p.2.scanStep t op a.sh.row (vecX f) (d.sh.typ = tFP32) mode sat (lo + p.1.length) e.val
      (p.1 ++ [o], v)) ([], v)
    r.2.emitRed d t op lo mode sat r.1

def execVscan (f : MForm) (s : State) : Host.Outcome State Fault Refusal := runVec (.vscan f) 0x28C f (scanBody f) s

/-! ## Gather and scatter (R147, R148) -/

/-- An element as code and scale byte, for exact copies. -/
def VRun.copyOut (v : VRun) (d : Stream) (lo : Nat) (es : List Elem) : VRun :=
  if isBlock d.sh.typ then
    (upTo (es.length / 32)).foldl (fun v i =>
      let g := (es.drop (32 * i)).take 32
      v.putBlock d (lo / 32 + i) ((g.head?.map Elem.scale).getD 0) (g.map Elem.code)) v
  else (es.foldl (fun (p : Nat × VRun) e => (p.1 + 1, p.2.put d p.1 e.code)) (lo, v)).2

/-- The runs of consecutive elements of one row within a group: row number, first column, length. -/
def rowRuns (fuel row lo n : Nat) : List (Nat × Nat × Nat) :=
  match fuel with
  | 0 => []
  | k + 1 =>
    if n = 0 then []
    else
      let m := min n (row - lo % row)
      (lo / row, lo % row, m) :: rowRuns k row (lo + m) (n - m)

/-- Index `r` of the index stream. -/
def VRun.index (v : VRun) (b : Stream) (r : Nat) : Int × VRun :=
  let (es, v) := v.load b r 1
  ((es.head?.map fun e => e.val.toInt).getD 0, v)

def gatherBody (f : MForm) (x : Opnds) (s : State) : Res :=
  let a : Stream := .src x.a (vecA s f)
  let b : Stream := .src x.b (vecB s f)
  let d : Stream := .dst x.d (vecD s f)
  let row := a.sh.row
  let height : Int := (a.sh.ext.getD 1 0 : Nat)
  s.vector 0x28D [a, b, d] d.sh.count fun v lo n =>
    (rowRuns n row lo n).foldl (fun v q =>
      let (i, v) := v.index b q.1
      let out : Bool := i < 0 || height ≤ i
      let zeros := List.replicate q.2.2 (⟨0, 0, .zero false⟩ : Elem)
      if out && (!vecX f || height = 0) then (v.copyOut d (q.1 * row + q.2.1) zeros).flag NV
      else
        let i := max 0 (min i (height - 1))
        let (es, v) := v.load a (i.toNat * row + q.2.1) q.2.2
        v.copyOut d (q.1 * row + q.2.1) es) v

def execVgather (f : MForm) (s : State) : Host.Outcome State Fault Refusal := runVec (.vgather f) 0x28D f (gatherBody f) s

/-- VSCATTER: the groups of 64 count source elements (DESIGN CHOICE, log 48). -/
def scatterBody (f : MForm) (x : Opnds) (s : State) : Res :=
  let a : Stream := .src x.a (vecA s f)
  let b : Stream := .src x.b (vecB s f)
  let d : Stream := .dst x.d (vecD s f)
  let row := d.sh.row
  let height : Int := (d.sh.ext.getD 1 0 : Nat)
  s.vector 0x28E [a, b, d] a.sh.count fun v lo n =>
    (rowRuns n row lo n).foldl (fun v q =>
      let (i, v) := v.index b q.1
      let (es, v) := v.load a (q.1 * row + q.2.1) q.2.2
      if i < 0 || height ≤ i then v.flag NV else v.copyOut d (i.toNat * row + q.2.1) es) v

def execVscatter (f : MForm) (s : State) : Host.Outcome State Fault Refusal := runVec (.vscatter f) 0x28E f (scatterBody f) s

/-! ## Copy, fill, random (R149) -/

def execVcopy (f : MForm) (s : State) : Host.Outcome State Fault Refusal :=
  runVec (.vcopy f) 0x28F f (fun x s =>
    let a : Stream := .src x.a (vecA s f)
    let d : Stream := .dst x.d (vecD s f)
    s.vector 0x28F [a, d] d.sh.count fun v lo n =>
      let (es, v) := v.load a lo n
      v.copyOut d lo es) s

def execVfill (f : MForm) (s : State) : Host.Outcome State Fault Refusal :=
  runVec (.vfill f) 0x290 f (fun x s =>
    let t := f.typ.toNat
    let d : Stream := .dst x.d (vecD s f)
    let val : VVal := if isInt t then { num := .ofInt x.a.dv.toInt, lsb := some 0, int := true }
      else { num := of32 (fpArg x.a), lsb := some (lsbOf fmtFP32 (fpArg x.a)) }
    s.vector 0x290 [d] d.sh.count fun v lo n =>
      let v := v.emit d lo (s.roundMode f.ext) (s.roundSat f.ext) (List.replicate n val)
      -- SCALE8 ignores the mode (R109), yet with SR generator j steps for each element (R149)
      if t = tSCALE8 then (upTo n).foldl (fun v i => (v.rnd (s.roundMode f.ext) false (lo + i) none).2) v else v) s

/-- VRAND: generator j steps once for each element, whatever the mode (R116). -/
def execVrand (f : MForm) (s : State) : Host.Outcome State Fault Refusal :=
  runVec (.vrand f) 0x291 f (fun x s =>
    let d : Stream := .dst x.d (vecD s f)
    s.vector 0x291 [d] d.sh.count fun v lo n =>
      (upTo n).foldl (fun v i =>
        let (g, s) := v.s.genUse (lo + i)
        let code := if f.typ = 0x10 then (fp32 (.fin false (g.toNat / 256) (-24) false)).1 else g.toNat
        ({ v with s := s } : VRun).put d (lo + i) code) v) s

/-! ## Encodings that are no instruction (R53, R54) -/

/-- ILLEGAL_INSTRUCTION, or ILLEGAL_TYPE where only the type code is refused and no check of the strand's state comes first (R42). -/
def execIllegalEncoding (why : Reject) (s : State) : Host.Outcome State Fault Refusal :=
  .next <| match why with
    | .typeCode op f => if vecIll op f s then s.takeTrap cIllegal 0 else s.takeTrap cType 0
    | _ => s.takeTrap cIllegal 0

end Sys2Proof.Machine
end

