-- ==== Sys2Proof/Machine/Waits.lean ====
section
/-!
DEFINITION. The completion of waiting instructions (R184, R479) and the egress router of twinned cores (R390).
-/
namespace Sys2Proof.Machine

/-! ## Waiting instructions (R184) -/

/-- Whether a slot may go on: its context is on the machine, it is not halted, its core runs (R153, R387, R473). -/
def State.mayGoOn (s : State) (k : Nat) : Bool :=
  s.isLive k && !(s.slotAt k).halted && !(s.core (k / 8)).stopped && !(s.cluster (clusterOf (k / 8))).halted

/-- Both slots of a pair go on with the message that has compared equal, from one state: the primary's effect on the package stands, and the
twin keeps what the message brought to its own slot and core (R390). -/
def State.pairRun (s : State) (k u : Nat) : State :=
  match (s.slotAt k).state, (s.slotAt u).state with
  | .waiting i, .waiting j =>
    let s := s.modSlotAt u fun sl => { sl with reply := (s.slotAt k).reply }
    let p := State.after { s with cur := .slot k } i
    let t := State.after { s with cur := .slot u } j
    let core := u / 8
    let ck := bankKey core (u % 2)
    let r := (p.setSlotAt u (t.slotAt u)).setCoreBank ck (t.coreBank ck)
    if (t.core core).stopped && !(p.core core).stopped then p.coreStop core else r
  | _, _ => s

/-- The instruction on which a slot waits is tried again. One of a twinned pair whose message has compared equal goes on with its partner. -/
def State.retryWait (s : State) (k : Nat) (i : Instr) : State :=
  if !(s.slotAt k).twinOk then State.after { s with cur := .slot k } i
  else match s.twinSlot k with
    | none => State.after { s with cur := .slot k } i
    | some u => if s.isTwin (k / 8) || !(s.slotAt u).twinOk || !s.mayGoOn u then s else s.pairRun k u

/-- Whether the wait of instruction `i` was satisfied, for a slot as it waited and as it went on: a trap, an abnormal end and a wait that parks
its strand meet no condition (R153, R179). -/
def waitMet (i : Instr) (old new : Slot) : Bool :=
  let op := (i.form.map Prod.fst).getD 0x201
  let parks : Bool := (op = 0x207 || op = 0x20A) && old.routine = .none && new.routine ≠ .none
  !(new.hm && !old.hm) && !parks && (new.state ≠ .idle || op = 0x201 || op = 0x205)

/-- The wait of a slot ends when its condition has become true; a killed strand ends instead (R396). -/
def State.completeWait (s : State) (k : Nat) : State :=
  match (s.slotAt k).state with
  | .waiting i =>
    if !s.mayGoOn k then s
    else if (s.slotAt k).killed then s.abnormalEnd k 0
    else
      let t := s.retryWait k i
      if (t.slotAt k).state = .waiting i || !waitMet i (s.slotAt k) (t.slotAt k) then t else t.satisfied (s.partOf k)
  | .trapping cause addr sw time =>
    -- a pair's record is written by its primary (R390)
    if !s.mayGoOn k || (s.isTwin (k / 8) && (s.slotAt k).twinOk) then s
    else if (s.slotAt k).killed then s.abnormalEnd k 0
    else State.trapStep { s with cur := .slot k } cause addr sw time
  | _ => s

/-- The answer to the read of a slot whose context is swapped out (R409): its instruction goes on no further than into the skid ring. -/
def State.skidRead (s : State) (k : Nat) : State :=
  match (s.slotAt k).state with
  | .waiting i =>
    let t := State.after { s with cur := .slot k } i
    if (s.slotAt k).xread.isSome && !(s.core (k / 8)).stopped && (t.slotAt k).state = .waiting i then t else s
  | _ => s

/-- WAIT_COMPLETE: arg.a is the slot, of the context that is swapped out where arg.b is 1; arg.c, when it is not 0, one more than the element groups that a vector instruction runs before a halt
or swap arrives (R134). -/
def execWaitComplete (s : State) : Host.Outcome State Fault Refusal :=
  .next (if s.arg.b = 1 then s.skidRead (bankKey s.arg.a (1 - s.liveBank (s.arg.a / 4) % 2))
    else State.completeWait { s with groups := if s.arg.c = 0 then none else some (s.arg.c - 1) } (s.slotKey s.arg.a))

/-- REPLAY_ADMIT: arg.a is the slot whose arrival a merge point of a replaying die held back (R479). -/
def execReplayAdmit (s : State) : Host.Outcome State Fault Refusal :=
  .next (if (upTo Config.dies).any fun d => s.csr d 0x4CB &&& 3 = 2 then s.completeWait (s.slotKey s.arg.a) else s)

/-! ## The egress router (R390) -/

/-- The message at the front of a core is forwarded. -/
def State.dropMsg (s : State) (core : Nat) : State := s.modCore core fun c => { c with twinMsgs := c.twinMsgs.drop 1 }

/-- The head of a matrix queue may perform the writes of its next slice. -/
def State.matrixEqual (s : State) (core : Nat) : State :=
  s.modCoreBank (s.coreKey core) fun b => { b with mq := b.mq.modifyHead fun j => { j with twin := 2 } }

/-- A store that has compared equal performs once; the twin's copy leaves its buffer, and what the store brought back goes to both. -/
def State.pairStore (s : State) (k u : Nat) : State :=
  let n := (s.slotAt k).sbuf.length
  let t := s.translateStore k
  let sl := t.slotAt k
  if sl.sbuf.length < n then
    ((t.modSlotAt u fun x => { x with sbuf := x.sbuf.drop 1, replyTraps := sl.replyTraps, rsts := sl.rsts }).dropMsg (k / 8)).dropMsg (u / 8)
  else s

/-- Both cores of a pair stop; the router writes an error record, whose ENGINE nothing states (log 4), and the mismatch enters the felling
record (R480). -/
def State.pairStop (s : State) (p t : Nat) : State :=
  let l := ((s.coreBank (s.coreKey p)).launch).getD (0, 0)
  let (w, s) := s.draw
  let s := s.errRecord l.1 (pktTlidx (s.entry l).packet) (w.toNat % 256) 0 eUncorrectable 0
  let s := (s.coreStop p).coreStop t
  let s := (s.modCore p fun c => { c with twinMsgs := [] }).modCore t fun c => { c with twinMsgs := [] }
  s.fell (dieOf p) 0x03 none (unitSource (dieOf p) 0)

/-- TWIN_COMPARE: arg.a is a primary core; the next message of each core of the pair. -/
def execTwinCompare (s : State) : Host.Outcome State Fault Refusal :=
  let p := s.arg.a
  .next <| match (s.core p).twin with
  | some (t, true) =>
    match (s.core p).twinMsgs, (s.core t).twinMsgs with
    | a :: _, b :: _ =>
      if a.crc ≠ b.crc || a.kind ≠ b.kind then s.pairStop p t
      else match a.kind with
        | 0 =>
          let s := (s.dropMsg p).dropMsg t
          let ok (sl : Slot) : Slot := { sl with twinOk := sl.twinSent }
          let s := (s.modSlotAt a.slot ok).modSlotAt b.slot ok
          s.completeWait a.slot
        | 1 => s.pairStore a.slot b.slot
        | _ => (((s.dropMsg p).dropMsg t).matrixEqual p).matrixEqual t
    | _, _ => s
  | _ => s

/-- Whether the message at the front of a core has waited 4,096 clk for a partner that has sent none. -/
def State.waitedOut (s : State) (a b : Nat) : Bool :=
  match (s.core a).twinMsgs, (s.core b).twinMsgs with
  | m :: _, [] => 4096 ≤ (s.now - m.came).toNat
  | _, _ => false

/-- TWIN_TIMEOUT: arg.a is a primary core. -/
def execTwinTimeout (s : State) : Host.Outcome State Fault Refusal :=
  let p := s.arg.a
  .next <| match (s.core p).twin with
  | some (t, true) => if s.waitedOut p t || s.waitedOut t p then s.pairStop p t else s
  | _ => s

end Sys2Proof.Machine
end

