-- ==== Sys2Proof/Machine/Dispatch.lean ====
section
/-!
DEFINITION. The meaning of every instruction: one arm for each constructor of `Instr`.
-/
namespace Sys2Proof.Machine

def exec (i : Instr) (s : State) : Host.Outcome State Fault Refusal :=
  match i with
  | .addS d a b => Sys2Proof.Machine.execAddS d a b s
  | .subS d a b => Sys2Proof.Machine.execSubS d a b s
  | .andS d a b => Sys2Proof.Machine.execAndS d a b s
  | .orS d a b => Sys2Proof.Machine.execOrS d a b s
  | .xorS d a b => Sys2Proof.Machine.execXorS d a b s
  | .shlS d a b => Sys2Proof.Machine.execShlS d a b s
  | .shrS d a b => Sys2Proof.Machine.execShrS d a b s
  | .sarS d a b => Sys2Proof.Machine.execSarS d a b s
  | .movS d a => Sys2Proof.Machine.execMovS d a s
  | .addiS d a imm => Sys2Proof.Machine.execAddiS d a imm s
  | .cmpS d a b cond => Sys2Proof.Machine.execCmpS d a b cond s
  | .cincS d a imm => Sys2Proof.Machine.execCincS d a imm s
  | .ldDwordS d a imm => Sys2Proof.Machine.execLdDwordS d a imm s
  | .stDwordS a b imm => Sys2Proof.Machine.execStDwordS a b imm s
  | .ldWordS d a imm => Sys2Proof.Machine.execLdWordS d a imm s
  | .stWordS a b imm => Sys2Proof.Machine.execStWordS a b imm s
  | .braS off => Sys2Proof.Machine.execBraS off s
  | .illegalEncoding why => Sys2Proof.Machine.execIllegalEncoding why s
  | .add f => Sys2Proof.Machine.execAdd f s
  | .sub f => Sys2Proof.Machine.execSub f s
  | .and f => Sys2Proof.Machine.execAnd f s
  | .or f => Sys2Proof.Machine.execOr f s
  | .xor f => Sys2Proof.Machine.execXor f s
  | .andn f => Sys2Proof.Machine.execAndn f s
  | .shl f => Sys2Proof.Machine.execShl f s
  | .shr f => Sys2Proof.Machine.execShr f s
  | .sar f => Sys2Proof.Machine.execSar f s
  | .rot f => Sys2Proof.Machine.execRot f s
  | .min f => Sys2Proof.Machine.execMin f s
  | .max f => Sys2Proof.Machine.execMax f s
  | .abs f => Sys2Proof.Machine.execAbs f s
  | .neg f => Sys2Proof.Machine.execNeg f s
  | .sel f => Sys2Proof.Machine.execSel f s
  | .mov f => Sys2Proof.Machine.execMov f s
  | .ldi f => Sys2Proof.Machine.execLdi f s
  | .ldhi f => Sys2Proof.Machine.execLdhi f s
  | .mul f => Sys2Proof.Machine.execMul f s
  | .mulh f => Sys2Proof.Machine.execMulh f s
  | .div f => Sys2Proof.Machine.execDiv f s
  | .rem f => Sys2Proof.Machine.execRem f s
  | .madd f => Sys2Proof.Machine.execMadd f s
  | .clz f => Sys2Proof.Machine.execClz f s
  | .ctz f => Sys2Proof.Machine.execCtz f s
  | .popc f => Sys2Proof.Machine.execPopc f s
  | .brev f => Sys2Proof.Machine.execBrev f s
  | .bswap f => Sys2Proof.Machine.execBswap f s
  | .bfx f => Sys2Proof.Machine.execBfx f s
  | .bfi f => Sys2Proof.Machine.execBfi f s
  | .cbase f => Sys2Proof.Machine.execCbase f s
  | .clen f => Sys2Proof.Machine.execClen f s
  | .cperm f => Sys2Proof.Machine.execCperm f s
  | .ctag f => Sys2Proof.Machine.execCtag f s
  | .cbnd f => Sys2Proof.Machine.execCbnd f s
  | .cbndx f => Sys2Proof.Machine.execCbndx f s
  | .cinc f => Sys2Proof.Machine.execCinc f s
  | .cset f => Sys2Proof.Machine.execCset f s
  | .cand f => Sys2Proof.Machine.execCand f s
  | .cclr f => Sys2Proof.Machine.execCclr f s
  | .csub f => Sys2Proof.Machine.execCsub f s
  | .cmov f => Sys2Proof.Machine.execCmov f s
  | .cmp f => Sys2Proof.Machine.execCmp f s
  | .fcmp f => Sys2Proof.Machine.execFcmp f s
  | .pand f => Sys2Proof.Machine.execPand f s
  | .por f => Sys2Proof.Machine.execPor f s
  | .pxor f => Sys2Proof.Machine.execPxor f s
  | .pnot f => Sys2Proof.Machine.execPnot f s
  | .pget f => Sys2Proof.Machine.execPget f s
  | .pfrom f => Sys2Proof.Machine.execPfrom f s
  | .bra f => Sys2Proof.Machine.execBra f s
  | .jmp f => Sys2Proof.Machine.execJmp f s
  | .call f => Sys2Proof.Machine.execCall f s
  | .callr f => Sys2Proof.Machine.execCallr f s
  | .ret f => Sys2Proof.Machine.execRet f s
  | .loop f => Sys2Proof.Machine.execLoop f s
  | .nop f => Sys2Proof.Machine.execNop f s
  | .fadd f => Sys2Proof.Machine.execFadd f s
  | .fsub f => Sys2Proof.Machine.execFsub f s
  | .fmul f => Sys2Proof.Machine.execFmul f s
  | .ffma f => Sys2Proof.Machine.execFfma f s
  | .fdiv f => Sys2Proof.Machine.execFdiv f s
  | .fsqrt f => Sys2Proof.Machine.execFsqrt f s
  | .fmin f => Sys2Proof.Machine.execFmin f s
  | .fmax f => Sys2Proof.Machine.execFmax f s
  | .fminn f => Sys2Proof.Machine.execFminn f s
  | .fmaxn f => Sys2Proof.Machine.execFmaxn f s
  | .fabs f => Sys2Proof.Machine.execFabs f s
  | .fneg f => Sys2Proof.Machine.execFneg f s
  | .fcvt f => Sys2Proof.Machine.execFcvt f s
  | .fcvti f => Sys2Proof.Machine.execFcvti f s
  | .icvtf f => Sys2Proof.Machine.execIcvtf f s
  | .fclass f => Sys2Proof.Machine.execFclass f s
  | .ld f => Sys2Proof.Machine.execLd f s
  | .st f => Sys2Proof.Machine.execSt f s
  | .ldc f => Sys2Proof.Machine.execLdc f s
  | .stc f => Sys2Proof.Machine.execStc f s
  | .ldlu f => Sys2Proof.Machine.execLdlu f s
  | .ld64 f => Sys2Proof.Machine.execLd64 f s
  | .st64 f => Sys2Proof.Machine.execSt64 f s
  | .ldfe f => Sys2Proof.Machine.execLdfe f s
  | .ldff f => Sys2Proof.Machine.execLdff f s
  | .stfe f => Sys2Proof.Machine.execStfe f s
  | .stff f => Sys2Proof.Machine.execStff f s
  | .feset f => Sys2Proof.Machine.execFeset f s
  | .feget f => Sys2Proof.Machine.execFeget f s
  | .pref f => Sys2Proof.Machine.execPref f s
  | .wbl f => Sys2Proof.Machine.execWbl f s
  | .invl f => Sys2Proof.Machine.execInvl f s
  | .amo f => Sys2Proof.Machine.execAmo f s
  | .cas f => Sys2Proof.Machine.execCas f s
  | .famo f => Sys2Proof.Machine.execFamo f s
  | .red f => Sys2Proof.Machine.execRed f s
  | .fence f => Sys2Proof.Machine.execFence f s
  | .drainst f => Sys2Proof.Machine.execDrainst f s
  | .waita f => Sys2Proof.Machine.execWaita f s
  | .vadd f => Sys2Proof.Machine.execVadd f s
  | .vsub f => Sys2Proof.Machine.execVsub f s
  | .vmul f => Sys2Proof.Machine.execVmul f s
  | .vfma f => Sys2Proof.Machine.execVfma f s
  | .vdiv f => Sys2Proof.Machine.execVdiv f s
  | .vmin f => Sys2Proof.Machine.execVmin f s
  | .vmax f => Sys2Proof.Machine.execVmax f s
  | .vminn f => Sys2Proof.Machine.execVminn f s
  | .vmaxn f => Sys2Proof.Machine.execVmaxn f s
  | .vabs f => Sys2Proof.Machine.execVabs f s
  | .vneg f => Sys2Proof.Machine.execVneg f s
  | .vclamp f => Sys2Proof.Machine.execVclamp f s
  | .vsel f => Sys2Proof.Machine.execVsel f s
  | .vcmp f => Sys2Proof.Machine.execVcmp f s
  | .vand f => Sys2Proof.Machine.execVand f s
  | .vor f => Sys2Proof.Machine.execVor f s
  | .vxor f => Sys2Proof.Machine.execVxor f s
  | .vshl f => Sys2Proof.Machine.execVshl f s
  | .vshr f => Sys2Proof.Machine.execVshr f s
  | .vexp2 f => Sys2Proof.Machine.execVexp2 f s
  | .vexp f => Sys2Proof.Machine.execVexp f s
  | .vlog2 f => Sys2Proof.Machine.execVlog2 f s
  | .vlog f => Sys2Proof.Machine.execVlog f s
  | .vrcp f => Sys2Proof.Machine.execVrcp f s
  | .vrsqrt f => Sys2Proof.Machine.execVrsqrt f s
  | .vsqrt f => Sys2Proof.Machine.execVsqrt f s
  | .vtanh f => Sys2Proof.Machine.execVtanh f s
  | .vsigm f => Sys2Proof.Machine.execVsigm f s
  | .vcvt f => Sys2Proof.Machine.execVcvt f s
  | .vquant f => Sys2Proof.Machine.execVquant f s
  | .vreduce f => Sys2Proof.Machine.execVreduce f s
  | .vscan f => Sys2Proof.Machine.execVscan f s
  | .vgather f => Sys2Proof.Machine.execVgather f s
  | .vscatter f => Sys2Proof.Machine.execVscatter f s
  | .vcopy f => Sys2Proof.Machine.execVcopy f s
  | .vfill f => Sys2Proof.Machine.execVfill f s
  | .vrand f => Sys2Proof.Machine.execVrand f s
  | .shld f => Sys2Proof.Machine.execShld f s
  | .shst f => Sys2Proof.Machine.execShst f s
  | .shset f => Sys2Proof.Machine.execShset f s
  | .spawn f => Sys2Proof.Machine.execSpawn f s
  | .endStrand f => Sys2Proof.Machine.execEndStrand f s
  | .yield f => Sys2Proof.Machine.execYield f s
  | .suspend f => Sys2Proof.Machine.execSuspend f s
  | .rfork f => Sys2Proof.Machine.execRfork f s
  | .join f => Sys2Proof.Machine.execJoin f s
  | .arrive f => Sys2Proof.Machine.execArrive f s
  | .waitb f => Sys2Proof.Machine.execWaitb f s
  | .domsetNew f => Sys2Proof.Machine.execDomsetNew f s
  | .domsetEnter f => Sys2Proof.Machine.execDomsetEnter f s
  | .domsetLeave f => Sys2Proof.Machine.execDomsetLeave f s
  | .ticket f => Sys2Proof.Machine.execTicket f s
  | .waittk f => Sys2Proof.Machine.execWaittk f s
  | .serve f => Sys2Proof.Machine.execServe f s
  | .qmap f => Sys2Proof.Machine.execQmap f s
  | .sendcmd f => Sys2Proof.Machine.execSendcmd f s
  | .tlwait f => Sys2Proof.Machine.execTlwait f s
  | .tlread f => Sys2Proof.Machine.execTlread f s
  | .tlsig f => Sys2Proof.Machine.execTlsig f s
  | .tlclr f => Sys2Proof.Machine.execTlclr f s
  | .mtcw f => Sys2Proof.Machine.execMtcw f s
  | .mtcr f => Sys2Proof.Machine.execMtcr f s
  | .cpy r => Sys2Proof.Machine.execCpy r s
  | .cpyx r => Sys2Proof.Machine.execCpyx r s
  | .gath r => Sys2Proof.Machine.execGath r s
  | .scat r => Sys2Proof.Machine.execScat r s
  | .dispatch r => Sys2Proof.Machine.execDispatch r s
  | .mzero r => Sys2Proof.Machine.execMzero r s
  | .mwload r => Sys2Proof.Machine.execMwload r s
  | .mma r => Sys2Proof.Machine.execMma r s
  | .mmat r => Sys2Proof.Machine.execMmat r s
  | .mldt r => Sys2Proof.Machine.execMldt r s
  | .mstt r => Sys2Proof.Machine.execMstt r s
  | .mlda r => Sys2Proof.Machine.execMlda r s
  | .mdrain r => Sys2Proof.Machine.execMdrain r s
  | .mdrainEval r => Sys2Proof.Machine.execMdrainEval r s
  | .mdrainApply r => Sys2Proof.Machine.execMdrainApply r s
  | .madj r => Sys2Proof.Machine.execMadj r s
  | .msig r => Sys2Proof.Machine.execMsig r s
  | .mktcfgSetup r => Sys2Proof.Machine.execMktcfgSetup r s
  | .mktcfgCaps r => Sys2Proof.Machine.execMktcfgCaps r s
  | .mktcfgBuffers r => Sys2Proof.Machine.execMktcfgBuffers r s
  | .mktcfgRelease r => Sys2Proof.Machine.execMktcfgRelease r s
  | .mktsub r => Sys2Proof.Machine.execMktsub r s
  | .auct r => Sys2Proof.Machine.execAuct r s
  | .mktnorm r => Sys2Proof.Machine.execMktnorm r s
  | .mktwrp r => Sys2Proof.Machine.execMktwrp r s
  | .mktrdp r => Sys2Proof.Machine.execMktrdp r s
  | .mktstat r => Sys2Proof.Machine.execMktstat r s
  | .allred r => Sys2Proof.Machine.execAllred r s
  | .redscat r => Sys2Proof.Machine.execRedscat r s
  | .allgath r => Sys2Proof.Machine.execAllgath r s
  | .reshard r => Sys2Proof.Machine.execReshard r s
  | .bcast r => Sys2Proof.Machine.execBcast r s
  | .rsred r => Sys2Proof.Machine.execRsred r s
  | .rld f => Sys2Proof.Machine.execRld f s
  | .rst f => Sys2Proof.Machine.execRst f s
  | .ramo f => Sys2Proof.Machine.execRamo f s
  | .rcas f => Sys2Proof.Machine.execRcas f s
  | .rack f => Sys2Proof.Machine.execRack f s
  | .rstat f => Sys2Proof.Machine.execRstat f s
  | .coll f => Sys2Proof.Machine.execColl f s
  | .launch f => Sys2Proof.Machine.execLaunch f s
  | .trap f => Sys2Proof.Machine.execTrap f s
  | .eret f => Sys2Proof.Machine.execEret f s
  | .csrr f => Sys2Proof.Machine.execCsrr f s
  | .csrw f => Sys2Proof.Machine.execCsrw f s
  | .csrx f => Sys2Proof.Machine.execCsrx f s
  | .stretry f => Sys2Proof.Machine.execStretry f s
  | .stdrop f => Sys2Proof.Machine.execStdrop f s
  | .killdom f => Sys2Proof.Machine.execKilldom f s
  | .seedw f => Sys2Proof.Machine.execSeedw f s
  | .seedr f => Sys2Proof.Machine.execSeedr f s
  | .tlbinv f => Sys2Proof.Machine.execTlbinv f s
  | .tsread f => Sys2Proof.Machine.execTsread f s
  | .perfrd f => Sys2Proof.Machine.execPerfrd f s
  | .tracev f => Sys2Proof.Machine.execTracev f s
  | .brk f => Sys2Proof.Machine.execBrk f s
  | .logmark f => Sys2Proof.Machine.execLogmark f s
  | .nopS => Sys2Proof.Machine.execNopS s
  | .retS => Sys2Proof.Machine.execRetS s
  | .yieldS => Sys2Proof.Machine.execYieldS s
  | .endS => Sys2Proof.Machine.execEndS s
  | .storeTranslate => Sys2Proof.Machine.execStoreTranslate s
  | .storeFaultTrap => Sys2Proof.Machine.execStoreFaultTrap s
  | .waitaWake => Sys2Proof.Machine.execWaitaWake s
  | .waitComplete => Sys2Proof.Machine.execWaitComplete s
  | .parkedRecordRelease => Sys2Proof.Machine.execParkedRecordRelease s
  | .migrationAtSafepoint => Sys2Proof.Machine.execMigrationAtSafepoint s
  | .stagePick => Sys2Proof.Machine.execStagePick s
  | .watchdogExpire => Sys2Proof.Machine.execWatchdogExpire s
  | .combineWindowClose => Sys2Proof.Machine.execCombineWindowClose s
  | .timelineAdvance => Sys2Proof.Machine.execTimelineAdvance s
  | .dispatchIngress => Sys2Proof.Machine.execDispatchIngress s
  | .tileControlApply => Sys2Proof.Machine.execTileControlApply s
  | .matrixSlice => Sys2Proof.Machine.execMatrixSlice s
  | .collParticipantArrive => Sys2Proof.Machine.execCollParticipantArrive s
  | .collectiveExpire => Sys2Proof.Machine.execCollectiveExpire s
  | .ownerReceive => Sys2Proof.Machine.execOwnerReceive s
  | .replyReceive => Sys2Proof.Machine.execReplyReceive s
  | .requestRetransmit => Sys2Proof.Machine.execRequestRetransmit s
  | .busyRetry => Sys2Proof.Machine.execBusyRetry s
  | .ackSend => Sys2Proof.Machine.execAckSend s
  | .readRetransmit => Sys2Proof.Machine.execReadRetransmit s
  | .markForget => Sys2Proof.Machine.execMarkForget s
  | .replayAdmit => Sys2Proof.Machine.execReplayAdmit s
  | .sweeperVisit => Sys2Proof.Machine.execSweeperVisit s
  | .launchPacketWrite => Sys2Proof.Machine.execLaunchPacketWrite s
  | .launchTagWrite => Sys2Proof.Machine.execLaunchTagWrite s
  | .hostAckmarkWrite => Sys2Proof.Machine.execHostAckmarkWrite s
  | .peerLaunchReceive => Sys2Proof.Machine.execPeerLaunchReceive s
  | .launchHeaderCheck => Sys2Proof.Machine.execLaunchHeaderCheck s
  | .launchDequeue => Sys2Proof.Machine.execLaunchDequeue s
  | .coreWake => Sys2Proof.Machine.execCoreWake s
  | .launchComplete => Sys2Proof.Machine.execLaunchComplete s
  | .hostMemAccess => Sys2Proof.Machine.execHostMemAccess s
  | .flitReceive => Sys2Proof.Machine.execFlitReceive s
  | .twinCompare => Sys2Proof.Machine.execTwinCompare s
  | .twinTimeout => Sys2Proof.Machine.execTwinTimeout s
  | .coreStop => Sys2Proof.Machine.execCoreStop s
  | .coresvcGo => Sys2Proof.Machine.execCoresvcGo s
  | .migreqWrite => Sys2Proof.Machine.execMigreqWrite s
  | .swapFast => Sys2Proof.Machine.execSwapFast s
  | .swapEntry => Sys2Proof.Machine.execSwapEntry s
  | .swapSlow => Sys2Proof.Machine.execSwapSlow s
  | .clusterPrepare => Sys2Proof.Machine.execClusterPrepare s
  | .pgclrGo => Sys2Proof.Machine.execPgclrGo s
  | .pgclrDone => Sys2Proof.Machine.execPgclrDone s
  | .pkeyDraw => Sys2Proof.Machine.execPkeyDraw s
  | .pkeyDestroy => Sys2Proof.Machine.execPkeyDestroy s
  | .dbgctlHalt => Sys2Proof.Machine.execDbgctlHalt s
  | .dbgctlResume => Sys2Proof.Machine.execDbgctlResume s
  | .dbgdataWrite => Sys2Proof.Machine.execDbgdataWrite s
  | .portdigClear => Sys2Proof.Machine.execPortdigClear s
  | .attestRequest => Sys2Proof.Machine.execAttestRequest s
  | .csrWrite => Sys2Proof.Machine.execCsrWrite s
  | .perBankRefresh => Sys2Proof.Machine.execPerBankRefresh s
  | .forcedRefresh => Sys2Proof.Machine.execForcedRefresh s
  | .coldReset => Sys2Proof.Machine.execColdReset s
  | .warmReset => Sys2Proof.Machine.execWarmReset s
  | .peerReset => Sys2Proof.Machine.execPeerReset s
  | .linkLost => Sys2Proof.Machine.execLinkLost s
  | .junctionAlert => Sys2Proof.Machine.execJunctionAlert s
  | .junctionTrip => Sys2Proof.Machine.execJunctionTrip s
  | .uncorrectableError => Sys2Proof.Machine.execUncorrectableError s
  | .cxlCacheSnoop => Sys2Proof.Machine.execCxlCacheSnoop s
  | .linkTrain => Sys2Proof.Machine.execLinkTrain s
  | .stageSchedulerRebalance => Sys2Proof.Machine.execStageSchedulerRebalance s

end Sys2Proof.Machine
end

