-- ==== Sys2Proof/Machine/Step.lean ====
section
/-!
DEFINITION. One step of the machine: the next turn, the time before it, and the instruction, command or event that it runs.
-/
namespace Sys2Proof.Machine

/-- One step. Without power only a cold reset runs (R489). -/
def step (s : State) : Host.Outcome State Fault Refusal :=
  let t := s.nextTurn
  if !t.2.powered && t.1.needsPower then .fault .poweredOff
  else match (t.2.clock t.1.dt).plan t.1.move with
  | .idle u => .next u
  | .run i u => exec i u

/-- The state in which the next step issues the instruction of `nbits` bits `w` (log 8); the bits above are zero, up to the longest
instruction. -/
def State.withFetchWord (s : State) (nbits w : Nat) : State := s.placed (bytesOf 12 (w % 2 ^ nbits))

end Sys2Proof.Machine
end

