-- ==== Sys2Proof/Laws/Maps.lean ====
section
/-!
SUPPORT. The laws of sparse maps and sets: reading after writing, and that every operation keeps keys strictly rising.
-/
namespace Sys2Proof.Machine

variable {α : Type}

@[simp] theorem look_nil (k : Nat) : look ([] : SMap α) k = none := rfl

@[simp] theorem look_put_same (m : SMap α) (k : Nat) (v : α) : look (put m k v) k = some v := by
  induction m with
  | nil => simp [put, look]
  | cons p r ih =>
    obtain ⟨j, w⟩ := p
    simp only [put]
    split
    · simp [look]
    · split
      · simp [look]
      · simp_all [look]

theorem look_put_other (m : SMap α) (k j : Nat) (v : α) (h : j ≠ k) : look (put m k v) j = look m j := by
  induction m with
  | nil => simp [put, look, h.symm]
  | cons p r ih =>
    obtain ⟨i, w⟩ := p
    simp only [put]
    split
    · next e => subst e; simp [look, h.symm]
    · split
      · next h1 h2 =>
        simp only [look, h.symm, if_false]
        by_cases c : j < k
        · have h3 : ¬ i = j := by omega
          have h4 : j < i := by omega
          simp [c, h3, h4]
        · simp [c]
      · simp only [look, ih]

/-- What a map holds under `j` after `k` was written. -/
theorem look_put (m : SMap α) (k j : Nat) (v : α) : look (put m k v) j = if j = k then some v else look m j := by
  split
  · next e => subst e; simp
  · next e => exact look_put_other m k j v e

theorem put_put_same (m : SMap α) (k : Nat) (v w : α) : put (put m k v) k w = put m k w := by
  induction m with
  | nil => simp [put]
  | cons p r ih =>
    obtain ⟨j, x⟩ := p
    simp only [put]
    split
    · simp [put]
    · next h1 =>
      split
      · simp [put]
      · next h2 => simp only [put, h1, h2, if_false, ih]

/-! ## Rising keys -/

theorem risingFrom_mono {m : SMap α} {lo lo' : Nat} (h : risingFrom lo m = true) (l : lo' ≤ lo) : risingFrom lo' m = true := by
  cases m with
  | nil => rfl
  | cons p r => obtain ⟨j, w⟩ := p; simp only [risingFrom, Bool.and_eq_true, decide_eq_true_eq] at *; exact ⟨by omega, h.2⟩

theorem risingFrom_put {m : SMap α} {lo k : Nat} {v : α} (h : risingFrom lo m = true) (l : lo ≤ k) :
    risingFrom lo (put m k v) = true := by
  induction m generalizing lo with
  | nil => simp [put, risingFrom, l]
  | cons p r ih =>
    obtain ⟨j, w⟩ := p
    simp only [risingFrom, Bool.and_eq_true, decide_eq_true_eq] at h
    simp only [put]
    split
    · next e => subst e; simp [risingFrom, h]
    · split
      · simp only [risingFrom, Bool.and_eq_true, decide_eq_true_eq]; exact ⟨l, by omega, h.2⟩
      · simp only [risingFrom, Bool.and_eq_true, decide_eq_true_eq]; exact ⟨h.1, ih h.2 (by omega)⟩

theorem risingFrom_del {m : SMap α} {lo k : Nat} (h : risingFrom lo m = true) : risingFrom lo (del m k) = true := by
  induction m generalizing lo with
  | nil => rfl
  | cons p r ih =>
    obtain ⟨j, w⟩ := p
    simp only [risingFrom, Bool.and_eq_true, decide_eq_true_eq] at h
    simp only [del]
    split
    · exact risingFrom_mono h.2 (by omega)
    · split
      · simp only [risingFrom, Bool.and_eq_true, decide_eq_true_eq]; exact h
      · simp only [risingFrom, Bool.and_eq_true, decide_eq_true_eq]; exact ⟨h.1, ih h.2⟩

theorem risingFrom_filter {m : SMap α} {lo : Nat} (f : Nat × α → Bool) (h : risingFrom lo m = true) :
    risingFrom lo (m.filter f) = true := by
  induction m generalizing lo with
  | nil => rfl
  | cons p r ih =>
    obtain ⟨j, w⟩ := p
    simp only [risingFrom, Bool.and_eq_true, decide_eq_true_eq] at h
    simp only [List.filter]
    split
    · simp only [risingFrom, Bool.and_eq_true, decide_eq_true_eq]; exact ⟨h.1, ih h.2⟩
    · exact risingFrom_mono (ih h.2) (by omega)

/-- A key below the first is not in a rising map. -/
theorem look_none_of_lt {m : SMap α} {lo k : Nat} (h : risingFrom lo m = true) (l : k < lo) : look m k = none := by
  cases m with
  | nil => rfl
  | cons p r =>
    obtain ⟨j, w⟩ := p
    simp only [risingFrom, Bool.and_eq_true, decide_eq_true_eq] at h
    have h1 : ¬ j = k := by omega
    have h2 : k < j := by omega
    simp [look, h1, h2]

/-- What a rising map holds under `j` after `k` was removed. -/
theorem look_del {m : SMap α} {lo k : Nat} (j : Nat) (h : risingFrom lo m = true) :
    look (del m k) j = if j = k then none else look m j := by
  induction m generalizing lo with
  | nil => simp [del]
  | cons p r ih =>
    obtain ⟨i, w⟩ := p
    simp only [risingFrom, Bool.and_eq_true, decide_eq_true_eq] at h
    simp only [del]
    split
    · next e =>
      subst e
      split
      · next e => subst e; exact look_none_of_lt h.2 (by omega)
      · next e =>
        simp only [look, (Ne.symm e : ¬ i = j), if_false]
        split
        · exact look_none_of_lt h.2 (by omega)
        · rfl
    · next e =>
      split
      · next l =>
        split
        · next e' => subst e'; simp [look, e, l]
        · rfl
      · next l =>
        simp only [look, ih h.2]
        by_cases c : i = j
        · subst c; simp [e]
        · by_cases d : j < i
          · simp [c, d]
          · simp [c, d]

theorem risingNat_mono {m : List Nat} {lo lo' : Nat} (h : risingNat lo m = true) (l : lo' ≤ lo) : risingNat lo' m = true := by
  cases m with
  | nil => rfl
  | cons j r => simp only [risingNat, Bool.and_eq_true, decide_eq_true_eq] at *; exact ⟨by omega, h.2⟩

theorem risingNat_addTo {m : List Nat} {lo k : Nat} (h : risingNat lo m = true) (l : lo ≤ k) :
    risingNat lo (addTo m k) = true := by
  induction m generalizing lo with
  | nil => simp [addTo, risingNat, l]
  | cons j r ih =>
    simp only [risingNat, Bool.and_eq_true, decide_eq_true_eq] at h
    simp only [addTo]
    split
    · simp only [risingNat, Bool.and_eq_true, decide_eq_true_eq]; exact h
    · split
      · simp only [risingNat, Bool.and_eq_true, decide_eq_true_eq]; exact ⟨l, by omega, h.2⟩
      · simp only [risingNat, Bool.and_eq_true, decide_eq_true_eq]; exact ⟨h.1, ih h.2 (by omega)⟩

theorem risingNat_filter {m : List Nat} {lo : Nat} (f : Nat → Bool) (h : risingNat lo m = true) :
    risingNat lo (m.filter f) = true := by
  induction m generalizing lo with
  | nil => rfl
  | cons j r ih =>
    simp only [risingNat, Bool.and_eq_true, decide_eq_true_eq] at h
    simp only [List.filter]
    split
    · simp only [risingNat, Bool.and_eq_true, decide_eq_true_eq]; exact ⟨h.1, ih h.2⟩
    · exact risingNat_mono (ih h.2) (by omega)

theorem risingNat_setIn {m : List Nat} {k : Nat} {b : Bool} (h : risingNat 0 m = true) : risingNat 0 (setIn m k b) = true := by
  simp only [setIn]
  split
  · exact risingNat_addTo h (by omega)
  · exact risingNat_filter _ h

theorem mem_addTo (m : List Nat) (k j : Nat) : j ∈ addTo m k ↔ j = k ∨ j ∈ m := by
  induction m with
  | nil => simp [addTo]
  | cons i r ih =>
    simp only [addTo]
    split
    · next e => subst e; simp
    · split
      · simp
      · simp only [List.mem_cons, ih]; exact or_left_comm

/-- Membership after a number was put in or taken out. -/
theorem mem_setIn (m : List Nat) (k j : Nat) (b : Bool) : j ∈ setIn m k b ↔ if j = k then b = true else j ∈ m := by
  simp only [setIn]
  cases b
  · by_cases e : j = k <;> simp [e]
  · by_cases e : j = k <;> simp [mem_addTo, e]

end Sys2Proof.Machine
end

