-- ==== Sys2Proof/Safety.lean ====
section
/-!
DEFINITION. What a safe run is: a run that reaches no fault and no refusal. Strands trap and end within the machine; only a package
without power stops it. Beside it the terms in which claims about instructions are made: when an instruction performs its own
effect, and the state in which it leaves the slot that ran it.
-/
namespace Sys2Proof

/-- `k` steps from a state, none of which stops. -/
def SafeRun (k : Nat) (s : Machine.State) : Prop := ∃ t, core.run k s = .next t

namespace Machine

/-- The queues let an instruction issue: it has issued already and waits, or every queue it pops holds enough entries, none of
them poisoned, and every queue it pushes has a free entry (R25, R216). -/
abbrev QueuesLet (op : Nat) (f : MForm) (s : State) : Prop :=
  s.sl.issued = true ∨ s.queuesReady (s.sl.pops op f) (s.sl.push op f) = true ∧ s.popsPoison (s.sl.pops op f) = false

/-- The stores of the slot let an instruction perform: an instruction of R386 waits for the translation of every earlier store, and
outside handler mode meets a pending STORE_FAULT. -/
abbrev StoresLet (op : Nat) (f : MForm) (s : State) : Prop :=
  drainsStores op f = true → (s.sl.pend = false ∨ s.sl.hm = true) ∧ s.sl.drained = true

/-- The slot's remote operations let an instruction perform: a release waits for their replies and reports their failures (R228, R434). -/
abbrev RepliesLet (op : Nat) (f : MForm) (s : State) : Prop :=
  isRelease op f = true → s.repliesOut = false ∧ s.waiterTrap op f = none

/-- The L1 lets an instruction perform: what it holds of other dies has gone home before a release of cluster scope or wider, and before a
command (R228, R236). -/
abbrev LinesLet (op : Nat) (f : MForm) (s : State) : Prop := s.flushes op f = true → s.preFlush (allLines op f) = none

/-- The instruction of opcode `op` with the fields `f` performs its effect in `s`: no register field breaks a rule of R42 item 4, the
guard is true (R28), and nothing it waits for is missing. -/
abbrev Runs (op : Nat) (f : MForm) (s : State) : Prop :=
  s.regBad op f = false ∧ s.guard f = true ∧ QueuesLet op f s ∧ StoresLet op f s ∧ RepliesLet op f s ∧ LinesLet op f s

/-- The entries that the instruction pops have left their queues (R25 item 4); those of an instruction that had issued left before. -/
def State.consumed (s : State) (op : Nat) (f : MForm) (t : State) : State :=
  if s.sl.issued then t else t.popQueues s.myCoreKey (s.sl.pops op f)

/-- The effect `t` of an instruction of `s` is complete and the PC is past it. -/
def State.completed (s : State) (op : Nat) (f : MForm) (len : Nat) (t : State) : State := (s.consumed op f t).advance len f.yield

/-- The effect `t` of an instruction of `s`, which has set PCC itself, is complete. -/
def State.transferred (s : State) (op : Nat) (f : MForm) (t : State) : State :=
  (s.consumed op f t).modSl fun sl => sl.finish f.yield

end Machine

end Sys2Proof
end

