-- ==== Sys2Proof/WellFormed.lean ====
section
/-!
DEFINITION. A well-formed instruction is one that the encoding tables admit: no field outside the values its entry lists. The
checks themselves stand in Sys2Proof/Decode.lean, because the decoder makes the same ones.
-/
namespace Sys2Proof

/-- R52, R53: the instruction breaks no rule of its encoding. -/
abbrev WellFormed (i : Instr) : Prop := wfCheck i = none

end Sys2Proof
end

