-- ==== Sys2Proof/Certificates/Slice0/Obligations.lean ====
section
/-!
DEFINITION. The statements for the provers.
-/
namespace Sys2Proof.Machine

/-! ## Terms of the statements -/

/-- The result of a computational instruction of width w (R68): the 64-bit operation, or the 32-bit one, extended as the suffix says. -/
def bySuffix (ext : BitVec 5) (g64 : Word → Word → Word) (g32 : BitVec 32 → BitVec 32 → BitVec 32) (a b : Word) : Word :=
  if ext.toNat < 2 then g64 a b
  else if ext = 2 then (g32 (a.setWidth 32) (b.setWidth 32)).signExtend 64
  else (g32 (a.setWidth 32) (b.setWidth 32)).setWidth 64

/-- The suffixes .I64 and .I32, which read their operands as signed (R68). -/
abbrev isSigned (ext : BitVec 5) : Prop := ext = 0 ∨ ext = 2

/-- In every state in which `i` performs, `exec` completes it with the 64-bit result `v` of its operands in d. -/
def Gives (i : Instr) (op : Nat) (f : MForm) (len : Nat) (v : Opnds → State → Word) : Prop :=
  ∀ s, Runs op f s → exec i s = .next (s.completed op f len (s.writeData f.d (v (s.operands op f) s)))

/-- As `Gives`, for a 128-bit result with its tag. -/
def GivesCap (i : Instr) (op : Nat) (f : MForm) (len : Nat) (v : Opnds → State → Cap) : Prop :=
  ∀ s, Runs op f s → exec i s = .next (s.completed op f len (s.writeD f.d (v (s.operands op f) s)))

/-- As `Gives`, for an instruction that writes one predicate. -/
def GivesPred (i : Instr) (op : Nat) (f : MForm) (len : Nat) (v : Opnds → State → Bool) : Prop :=
  ∀ s, Runs op f s → exec i s = .next (s.completed op f len (s.setPred (f.d.setWidth 3) (v (s.operands op f) s)))

/-- In every state in which `i` performs and `ok` holds of its operands, `exec` completes it with the effect `e`. -/
def Does (i : Instr) (op : Nat) (f : MForm) (len : Nat) (ok : Opnds → State → Prop) (e : Opnds → State → State) : Prop :=
  ∀ s, Runs op f s → ok (s.operands op f) s → exec i s = .next (s.completed op f len (e (s.operands op f) s))

/-- As `Does`, for an instruction whose effect sets PCC. -/
def Goes (i : Instr) (op : Nat) (f : MForm) (ok : Opnds → State → Prop) (e : Opnds → State → State) : Prop :=
  ∀ s, Runs op f s → ok (s.operands op f) s → exec i s = .next (s.transferred op f (e (s.operands op f) s))

/-- In every state in which `i` performs and `ok` holds of its operands, `exec` takes the trap of that cause and address. -/
def Traps (i : Instr) (op : Nat) (f : MForm) (ok : Opnds → State → Prop) (cause : Nat) (addr : Opnds → State → Nat) : Prop :=
  ∀ s, Runs op f s → ok (s.operands op f) s → exec i s = .next (s.takeTrap cause (addr (s.operands op f) s))

/-- A result of the two operands at the width of the suffix. -/
def two (f : MForm) (g64 : Word → Word → Word) (g32 : BitVec 32 → BitVec 32 → BitVec 32) (x : Opnds) (_ : State) : Word :=
  bySuffix f.ext g64 g32 x.a.dv x.b.dv

/-- A result of the first operand at the width of the suffix. -/
def one (f : MForm) (g64 : Word → Word) (g32 : BitVec 32 → BitVec 32) (x : Opnds) (_ : State) : Word :=
  bySuffix f.ext (fun a _ => g64 a) (fun a _ => g32 a) x.a.dv x.b.dv

/-- The high half of the exact product, signed or unsigned (R71). -/
def highHalf (w : Nat) (signed : Bool) (a b : BitVec w) : BitVec w :=
  if signed then (a.signExtend (2 * w) * b.signExtend (2 * w)).extractLsb' w w
  else (a.setWidth (2 * w) * b.setWidth (2 * w)).extractLsb' w w

/-- DIV and REM of R72. -/
def quotient (w : Nat) (signed : Bool) (a b : BitVec w) : BitVec w :=
  if b = 0 then BitVec.allOnes w
  else if signed then (if a = BitVec.intMin w ∧ b = BitVec.allOnes w then a else BitVec.ofInt w (a.toInt.tdiv b.toInt))
  else a.udiv b
def remainder (w : Nat) (signed : Bool) (a b : BitVec w) : BitVec w :=
  if b = 0 then a
  else if signed then (if a = BitVec.intMin w ∧ b = BitVec.allOnes w then 0
    else BitVec.ofInt w (a.toInt - b.toInt * a.toInt.tdiv b.toInt))
  else a - b * a.udiv b

/-- The number of bits of `v` that are one, among the lowest `n`. -/
def onesBelow {w : Nat} (v : BitVec w) (n : Nat) : Nat := ((List.range n).filter fun i => v.getLsbD i).length

end Sys2Proof.Machine

open Sys2Proof Sys2Proof.Machine

/-- R72: DIV and REM are defined for every pair of operands, and a zero divisor sets DZ; no other integer instruction sets a flag, and none
traps on a value. -/
def Obligations.DivisionIsTotal : Prop :=
  (∀ f, Does (.div f) 0x042 f f.len (fun _ _ => True) fun x s =>
    (if (if f.ext.toNat < 2 then x.b.dv = 0 else x.b.dv.setWidth 32 = (0 : BitVec 32)) then s.addFlags DZ else s).writeData f.d
      (two f (quotient 64 (isSigned f.ext)) (quotient 32 (isSigned f.ext)) x s)) ∧
  (∀ f, Does (.rem f) 0x043 f f.len (fun _ _ => True) fun x s =>
    (if (if f.ext.toNat < 2 then x.b.dv = 0 else x.b.dv.setWidth 32 = (0 : BitVec 32)) then s.addFlags DZ else s).writeData f.d
      (two f (remainder 64 (isSigned f.ext)) (remainder 32 (isSigned f.ext)) x s)) ∧
  (∀ (f : MForm) (s : State) (i : Instr) (op : Nat),
    (i, op) ∈ [(.add f, 0x000), (.sub f, 0x001), (.and f, 0x002), (.or f, 0x003), (.xor f, 0x004), (.andn f, 0x005), (.shl f, 0x006), (.shr f, 0x007),
      (.sar f, 0x008), (.rot f, 0x009), (.min f, 0x00A), (.max f, 0x00B), (.abs f, 0x00C), (.neg f, 0x00D), (.sel f, 0x00E), (.mov f, 0x00F),
      (.ldi f, 0x010), (.ldhi f, 0x011), (.mul f, 0x040), (.mulh f, 0x041), (.madd f, 0x044), (.clz f, 0x045), (.ctz f, 0x046), (.popc f, 0x047),
      (.brev f, 0x048), (.bswap f, 0x049), (.bfx f, 0x04A), (.bfi f, 0x04B)] →
    Runs op f s → ∃ v : Word, exec i s = .next (s.completed op f f.len (s.writeData f.d v)))

/-- R71, R73: products, the counts and permutations of bits, and the bit fields; n is what CLZ, CTZ and POPC write. -/
def Obligations.ProductsAndBitFields : Prop :=
  (∀ f, Gives (.mul f) 0x040 f f.len (two f (· * ·) (· * ·))) ∧
  (∀ f, Gives (.mulh f) 0x041 f f.len (two f (highHalf 64 (isSigned f.ext)) (highHalf 32 (isSigned f.ext)))) ∧
  (∀ f, Gives (.madd f) 0x044 f f.len fun x s =>
    two f (fun a b => a * b + x.d.dv) (fun a b => a * b + x.d.dv.setWidth 32) x s) ∧
  (∀ f s, Runs 0x045 f s → ∃ n : Nat,
    exec (.clz f) s = .next (s.completed 0x045 f f.len (s.writeData f.d (BitVec.ofNat 64 n))) ∧
    let w := if f.ext.toNat < 2 then 64 else 32
    n ≤ w ∧ (∀ j, w - n ≤ j → j < w → (s.operands 0x045 f).a.dv.getLsbD j = false) ∧
    (n < w → (s.operands 0x045 f).a.dv.getLsbD (w - 1 - n) = true)) ∧
  (∀ f s, Runs 0x046 f s → ∃ n : Nat,
    exec (.ctz f) s = .next (s.completed 0x046 f f.len (s.writeData f.d (BitVec.ofNat 64 n))) ∧
    let w := if f.ext.toNat < 2 then 64 else 32
    n ≤ w ∧ (∀ j, j < n → (s.operands 0x046 f).a.dv.getLsbD j = false) ∧
    (n < w → (s.operands 0x046 f).a.dv.getLsbD n = true)) ∧
  (∀ f, Gives (.popc f) 0x047 f f.len fun x _ =>
    BitVec.ofNat 64 (onesBelow x.a.dv (if f.ext.toNat < 2 then 64 else 32))) ∧
  (∀ f, Gives (.brev f) 0x048 f f.len (one f BitVec.reverse BitVec.reverse)) ∧
  (∀ f, Gives (.bswap f) 0x049 f f.len (one f
    (fun a => a.extractLsb' 0 8 ++ a.extractLsb' 8 8 ++ a.extractLsb' 16 8 ++ a.extractLsb' 24 8 ++ a.extractLsb' 32 8 ++
      a.extractLsb' 40 8 ++ a.extractLsb' 48 8 ++ a.extractLsb' 56 8)
    (fun a => a.extractLsb' 0 8 ++ a.extractLsb' 8 8 ++ a.extractLsb' 16 8 ++ a.extractLsb' 24 8))) ∧
  (∀ f, let lsb := f.imm.toNat % 64
    let len := f.imm.toNat / 64 % 64 + 1
    lsb + len ≤ 64 → Gives (.bfx f) 0x04A f f.len fun x _ =>
      if f.ext = 0 then (x.a.dv <<< (64 - lsb - len)).sshiftRight (64 - len) else (x.a.dv <<< (64 - lsb - len)) >>> (64 - len)) ∧
  (∀ f s, let lsb := f.imm.toNat % 64
    let len := f.imm.toNat / 64 % 64 + 1
    lsb + len ≤ 64 → Runs 0x04B f s → ∃ v : Word,
      exec (.bfi f) s = .next (s.completed 0x04B f f.len (s.writeData f.d v)) ∧
      ∀ i, i < 64 → v.getLsbD i =
        if lsb ≤ i ∧ i < lsb + len then (s.operands 0x04B f).a.dv.getLsbD (i - lsb) else (s.operands 0x04B f).d.dv.getLsbD i)

namespace Sys2Proof.Machine

/-- encode_len of R75: the smallest exponent, and the length in its units, rounded up. -/
def Encodes (L m e : Nat) : Prop :=
  e ≤ 31 ∧ m = (L + 2 ^ e - 1) / 2 ^ e ∧ m ≤ 0xFFFFF ∧ ∀ j, j < e → 0xFFFFF < (L + 2 ^ j - 1) / 2 ^ j

/-- What a capability derived from `c` may be: tagged only where `c` is, no permission beyond those of `c`, within the bounds
of `c` (R77). -/
def DerivesFrom (c c' : Cap) : Prop :=
  c'.tag = true → c.tag = true ∧ c'.perm &&& c.perm = c'.perm ∧ c.base ≤ c'.base ∧ c'.top ≤ c.top

/-- The capability with new bounds: BASE, MANT and EXP replaced, permissions, cursor and tag kept (R29, R77). -/
def rebound (c : Cap) (base m e : Nat) : Cap :=
  ⟨c.val.extractLsb' 121 7 ++ BitVec.ofNat 5 e ++ BitVec.ofNat 20 m ++ BitVec.ofNat 48 base ++ c.val.setWidth 48, c.tag⟩

/-- The relations of R78. -/
def relation (cond : Nat) {w : Nat} (a b : BitVec w) : Bool :=
  match cond with
  | 0 => a = b
  | 1 => a ≠ b
  | 2 => a.slt b
  | 3 => !a.slt b
  | 4 => a.ult b
  | 5 => !a.ult b
  | 6 => a.sle b
  | 7 => !a.sle b
  | 8 => a.ule b
  | 9 => !a.ule b
  | 10 => a &&& b ≠ 0
  | _ => a &&& b = 0

/-- The order of FP32 patterns that are no NaN, as integers; both zeros are 0. -/
def orderOf (p : BitVec 32) : Int := if p.msb then -((p &&& 0x7FFFFFFF).toNat : Int) else (p.toNat : Int)
def isNan32 (p : BitVec 32) : Bool := 0x7F800000 < (p &&& 0x7FFFFFFF).toNat
def isSignal32 (p : BitVec 32) : Bool := isNan32 p && !p.getLsbD 22

/-- The conditions of R79. -/
def fpRelation (cond : Nat) (a b : BitVec 32) : Bool :=
  let un := isNan32 a || isNan32 b
  match cond with
  | 0 => !un && orderOf a = orderOf b
  | 1 => un || orderOf a ≠ orderOf b
  | 2 => !un && orderOf a < orderOf b
  | 3 => !un && orderOf a ≤ orderOf b
  | 4 => !un && orderOf b < orderOf a
  | 5 => !un && orderOf b ≤ orderOf a
  | 6 => un
  | _ => !un

/-- The data view of a register, of which FP32 reads bits [31:0]. -/
def low32 (c : Cap) : BitVec 32 := c.dv.setWidth 32

/-- The cursor of PCC moved by `off` words, modulo 2^48 (R81). -/
def State.jumpBy (s : State) (off : Int) : State :=
  s.modSl fun sl => { sl with pcc := sl.pcc.setCursor (sl.pcc.val.setWidth 48 + BitVec.ofInt 48 (off * 4)) }

/-- g1 holds PCC with the cursor at the next instruction (R82). -/
def State.linked (s : State) (len : Nat) : State :=
  s.modSl fun sl => sl.setReg 1 (sl.pcc.setCursor (sl.pcc.val.setWidth 48 + BitVec.ofNat 48 len))

/-- cap_transfer of R81 passes. -/
abbrev MayTransfer (c : Cap) : Prop := c.tag = true ∧ c.val.getLsbD 123 = true ∧ c.val.setWidth 2 = (0 : BitVec 2)

end Sys2Proof.Machine

/-- R31, R74 to R77: what the instructions of class 0x2 read, copy and move; CBND rounds the length up, CBNDX takes a representable one, both set
the bounds from the cursor of a and trap where the new bounds do not lie within the old ones. The address of a trap of these is R380's. -/
def Obligations.CapabilityInstructions : Prop :=
  (∀ f, Gives (.cbase f) 0x080 f f.len fun x _ => (x.a.val.extractLsb' 48 48).setWidth 64) ∧
  (∀ f, Gives (.clen f) 0x081 f f.len fun x _ =>
    (x.a.val.extractLsb' 96 20).setWidth 64 <<< (x.a.val.extractLsb' 116 5).toNat) ∧
  (∀ f, Gives (.cperm f) 0x082 f f.len fun x _ => (x.a.val.extractLsb' 121 7).setWidth 64) ∧
  (∀ f, Gives (.ctag f) 0x083 f f.len fun x _ => if x.a.tag then 1 else 0) ∧
  (∀ f, Gives (.csub f) 0x08A f f.len fun x _ =>
    (x.a.val.setWidth 48 : BitVec 48).setWidth 64 - (x.b.val.setWidth 48 : BitVec 48).setWidth 64) ∧
  (∀ f, GivesCap (.cinc f) 0x086 f f.len fun x _ =>
    ⟨x.a.val.extractLsb' 48 80 ++ (x.a.val.setWidth 48 + x.b.dv.setWidth 48), x.a.tag⟩) ∧
  (∀ d a imm, GivesCap (.cincS d a imm) 0x086 (MFormImm8 d a imm) 4 fun x _ =>
    ⟨x.a.val.extractLsb' 48 80 ++ (x.a.val.setWidth 48 + imm.signExtend 48), x.a.tag⟩) ∧
  (∀ f, GivesCap (.cset f) 0x087 f f.len fun x _ => ⟨x.a.val.extractLsb' 48 80 ++ x.b.dv.setWidth 48, x.a.tag⟩) ∧
  (∀ f, GivesCap (.cclr f) 0x089 f f.len fun x _ => ⟨x.a.val, false⟩) ∧
  (∀ f, GivesCap (.cmov f) 0x08B f f.len fun x _ => x.a) ∧
  (∀ f, Does (.cand f) 0x088 f f.len (fun x _ => x.a.tag = true) fun x s =>
    s.writeD f.d ⟨(x.a.val.extractLsb' 121 7 &&& x.b.dv.setWidth 7) ++ (x.a.val.setWidth 121 : BitVec 121), true⟩) ∧
  (∀ f, Traps (.cand f) 0x088 f (fun x _ => x.a.tag = false) 0x03 fun x _ => (x.a.val.setWidth 48 : BitVec 48).toNat) ∧
  (∀ f m e, Does (.cbnd f) 0x084 f f.len (fun x _ => x.a.tag = true ∧ Encodes x.b.dv.toNat m e ∧
      x.a.base ≤ x.a.cursor ∧ x.a.cursor + m * 2 ^ e ≤ x.a.top)
    fun x s => s.writeD f.d (rebound x.a x.a.cursor m e)) ∧
  (∀ f m e, Does (.cbndx f) 0x085 f f.len (fun x _ => x.a.tag = true ∧ Encodes x.b.dv.toNat m e ∧ m * 2 ^ e = x.b.dv.toNat ∧
      x.a.base ≤ x.a.cursor ∧ x.a.cursor + m * 2 ^ e ≤ x.a.top)
    fun x s => s.writeD f.d (rebound x.a x.a.cursor m e)) ∧
  (∀ f, Traps (.cbnd f) 0x084 f (fun x _ => x.a.tag = false) 0x03 fun x _ => x.a.cursor) ∧
  (∀ f, Traps (.cbndx f) 0x085 f (fun x _ => x.a.tag = false) 0x03 fun x _ => x.a.cursor) ∧
  (∀ f, Traps (.cbnd f) 0x084 f (fun x _ => x.a.tag = true ∧ ∀ m e, Encodes x.b.dv.toNat m e →
    x.a.cursor < x.a.base ∨ x.a.top < x.a.cursor + m * 2 ^ e) 0x06 fun _ _ => 0) ∧
  (∀ f, Traps (.cbndx f) 0x085 f (fun x _ => x.a.tag = true ∧ ∀ m e, Encodes x.b.dv.toNat m e →
    m * 2 ^ e ≠ x.b.dv.toNat ∨ x.a.cursor < x.a.base ∨ x.a.top < x.a.cursor + m * 2 ^ e) 0x06 fun _ _ => 0)

/-- No capability instruction makes authority: whatever an instruction of class 0x2 that yields a capability writes derives from
its source, or the instruction traps and writes no result. -/
def Obligations.NoCapabilityInstructionMakesAuthority : Prop :=
  ∀ (f : MForm) (s : State) (i : Instr) (op : Nat),
    (i, op) ∈ [(.cbnd f, 0x084), (.cbndx f, 0x085), (.cinc f, 0x086), (.cset f, 0x087), (.cand f, 0x088), (.cclr f, 0x089),
      (.cmov f, 0x08B)] →
    Runs op f s →
    (∃ c, exec i s = .next (s.completed op f f.len (s.writeD f.d c)) ∧ DerivesFrom (s.operands op f).a c) ∨
    (∃ cause addr, exec i s = .next (s.takeTrap cause addr))

/-- R68 to R70, R78 to R80: sums, logic, shifts, selections and constants write their result at the width and signedness of the suffix, wrapped
modulo 2^w, with shift amounts taken modulo w; a compare or a predicate operation writes one predicate, PGET and PFROM move the whole mask. -/
def Obligations.IntegerLogicShiftsAndCompares : Prop :=
  (∀ f, Gives (.add f) 0x000 f f.len (two f (· + ·) (· + ·))) ∧
  (∀ f, Gives (.sub f) 0x001 f f.len (two f (· - ·) (· - ·))) ∧
  (∀ f, Gives (.and f) 0x002 f f.len (two f (· &&& ·) (· &&& ·))) ∧
  (∀ f, Gives (.or f) 0x003 f f.len (two f (· ||| ·) (· ||| ·))) ∧
  (∀ f, Gives (.xor f) 0x004 f f.len (two f (· ^^^ ·) (· ^^^ ·))) ∧
  (∀ f, Gives (.andn f) 0x005 f f.len (two f (fun a b => a &&& ~~~b) (fun a b => a &&& ~~~b))) ∧
  (∀ d a b, Gives (.addS d a b) 0x000 (.plain 0 d a b) 4 fun x _ => x.a.dv + x.b.dv) ∧
  (∀ d a b, Gives (.subS d a b) 0x001 (.plain 0 d a b) 4 fun x _ => x.a.dv - x.b.dv) ∧
  (∀ d a b, Gives (.andS d a b) 0x002 (.plain 0 d a b) 4 fun x _ => x.a.dv &&& x.b.dv) ∧
  (∀ d a b, Gives (.orS d a b) 0x003 (.plain 0 d a b) 4 fun x _ => x.a.dv ||| x.b.dv) ∧
  (∀ d a b, Gives (.xorS d a b) 0x004 (.plain 0 d a b) 4 fun x _ => x.a.dv ^^^ x.b.dv) ∧
  (∀ d a imm, Gives (.addiS d a imm) 0x000 (MFormImm8 d a imm) 4 fun x _ => x.a.dv + imm.signExtend 64) ∧
  (∀ f, Gives (.shl f) 0x006 f f.len (two f (fun a b => a <<< (b.toNat % 64)) (fun a b => a <<< (b.toNat % 32)))) ∧
  (∀ f, Gives (.shr f) 0x007 f f.len (two f (fun a b => a >>> (b.toNat % 64)) (fun a b => a >>> (b.toNat % 32)))) ∧
  (∀ f, Gives (.sar f) 0x008 f f.len (two f (fun a b => a.sshiftRight (b.toNat % 64)) (fun a b => a.sshiftRight (b.toNat % 32)))) ∧
  (∀ f, Gives (.rot f) 0x009 f f.len (two f (fun a b => a.rotateLeft (b.toNat % 64)) (fun a b => a.rotateLeft (b.toNat % 32)))) ∧
  (∀ d a b, Gives (.shlS d a b) 0x006 (.plain 0 d a b) 4 fun x _ => x.a.dv <<< (x.b.dv.toNat % 64)) ∧
  (∀ d a b, Gives (.shrS d a b) 0x007 (.plain 0 d a b) 4 fun x _ => x.a.dv >>> (x.b.dv.toNat % 64)) ∧
  (∀ d a b, Gives (.sarS d a b) 0x008 (.plain 0 d a b) 4 fun x _ => x.a.dv.sshiftRight (x.b.dv.toNat % 64)) ∧
  (∀ f, Gives (.min f) 0x00A f f.len (two f
    (fun a b => if isSigned f.ext then (if a.sle b then a else b) else (if a ≤ b then a else b))
    (fun a b => if isSigned f.ext then (if a.sle b then a else b) else (if a ≤ b then a else b)))) ∧
  (∀ f, Gives (.max f) 0x00B f f.len (two f
    (fun a b => if isSigned f.ext then (if a.sle b then b else a) else (if a ≤ b then b else a))
    (fun a b => if isSigned f.ext then (if a.sle b then b else a) else (if a ≤ b then b else a)))) ∧
  (∀ f, Gives (.abs f) 0x00C f f.len (one f (fun a => if a.msb then 0 - a else a) (fun a => if a.msb then 0 - a else a))) ∧
  (∀ f, Gives (.neg f) 0x00D f f.len (one f (0 - ·) (0 - ·))) ∧
  (∀ f, Gives (.sel f) 0x00E f f.len fun x s => two f
    (fun a b => if s.sl.pred (f.imm.setWidth 3) then a else b) (fun a b => if s.sl.pred (f.imm.setWidth 3) then a else b) x s) ∧
  (∀ f, Gives (.mov f) 0x00F f f.len (one f id id)) ∧
  (∀ d a, Gives (.movS d a) 0x00F (.plain 0 d a 0) 4 fun x _ => x.a.dv) ∧
  (∀ f, Gives (.ldi f) 0x010 f f.len fun _ _ => (f.lit.getD (f.imm.signExtend 32)).signExtend 64) ∧
  (∀ f, Gives (.ldhi f) 0x011 f f.len fun x _ => f.lit.getD (f.imm.signExtend 32) ++ (x.a.dv.setWidth 32 : BitVec 32)) ∧
  (∀ f, GivesPred (.cmp f) 0x0C0 f f.len fun x _ =>
    if f.ext.getLsbD 4 then relation (f.ext.toNat % 16) (low32 x.a) (low32 x.b) else relation (f.ext.toNat % 16) x.a.dv x.b.dv) ∧
  (∀ d a b cond, GivesPred (.cmpS d a b cond) 0x0C0 (MFormCmpS d a b cond) 4 fun x _ =>
    if cond.getLsbD 4 then relation (cond.toNat % 16) (low32 x.a) (low32 x.b) else relation (cond.toNat % 16) x.a.dv x.b.dv) ∧
  (∀ f, f.ext.toNat < 8 → Does (.fcmp f) 0x0C1 f f.len (fun _ _ => True) fun x s =>
    (if isSignal32 (low32 x.a) ∨ isSignal32 (low32 x.b) ∨
        (2 ≤ f.ext.toNat ∧ f.ext.toNat ≤ 5 ∧ (isNan32 (low32 x.a) ∨ isNan32 (low32 x.b)))
      then s.addFlags NV else s).setPred (f.d.setWidth 3) (fpRelation f.ext.toNat (low32 x.a) (low32 x.b))) ∧
  (∀ f, GivesPred (.pand f) 0x0C2 f f.len fun _ s =>
    (s.sl.pred (f.a.setWidth 3) ^^ f.ext.getLsbD 0) && (s.sl.pred (f.b.setWidth 3) ^^ f.ext.getLsbD 1)) ∧
  (∀ f, GivesPred (.por f) 0x0C3 f f.len fun _ s =>
    (s.sl.pred (f.a.setWidth 3) ^^ f.ext.getLsbD 0) || (s.sl.pred (f.b.setWidth 3) ^^ f.ext.getLsbD 1)) ∧
  (∀ f, GivesPred (.pxor f) 0x0C4 f f.len fun _ s =>
    (s.sl.pred (f.a.setWidth 3) ^^ f.ext.getLsbD 0) ^^ (s.sl.pred (f.b.setWidth 3) ^^ f.ext.getLsbD 1)) ∧
  (∀ f, GivesPred (.pnot f) 0x0C5 f f.len fun _ s => !s.sl.pred (f.a.setWidth 3)) ∧
  (∀ f s, Runs 0x0C6 f s → ∃ v : Word, exec (.pget f) s = .next (s.completed 0x0C6 f f.len (s.writeData f.d v)) ∧
    ∀ k, k < 64 → v.getLsbD k = (decide (k < 8) && s.sl.pred (BitVec.ofNat 3 k))) ∧
  (∀ f s, Runs 0x0C7 f s → ∃ p : BitVec 8,
    exec (.pfrom f) s = .next (s.completed 0x0C7 f f.len (s.modSl fun sl => { sl with preds := p })) ∧
    ∀ k, 1 ≤ k → k < 8 → p.getLsbD k = if f.imm.getLsbD k then (s.operands 0x0C7 f).a.dv.getLsbD k else s.sl.preds.getLsbD k)

/-- R81, R82: where branches, jumps, calls, returns and LOOP go, and what they link; NOP and its S form change nothing but the PC. A transfer
through a capability that cap_transfer refuses traps with the cause of the first check that fails, in the order tag, permission X, alignment. That the
ALIGNMENT trap of JMP has all 64 bits of the target in ADDR is the model's choice (log 60). -/
def Obligations.ControlTransfers : Prop :=
  (∀ f, Goes (.bra f) 0x100 f (fun _ _ => True) fun _ s => s.jumpBy f.off) ∧
  (∀ off, Goes (.braS off) 0x100 MFormNone (fun _ _ => True) fun _ s => s.jumpBy off.toInt) ∧
  (∀ f, Goes (.jmp f) 0x101 f (fun x _ => (x.a.dv + f.imm.signExtend 64 * 4).setWidth 2 = (0 : BitVec 2)) fun x s =>
    s.modSl fun sl => { sl with pcc := sl.pcc.setCursor ((x.a.dv + f.imm.signExtend 64 * 4).setWidth 48) }) ∧
  (∀ f, Traps (.jmp f) 0x101 f (fun x _ => (x.a.dv + f.imm.signExtend 64 * 4).setWidth 2 ≠ (0 : BitVec 2)) 0x07
    fun x _ => (x.a.dv + f.imm.signExtend 64 * 4).toNat) ∧
  (∀ f, Goes (.call f) 0x102 f (fun _ _ => True) fun _ s => (s.linked f.len).jumpBy f.off) ∧
  (∀ f, Goes (.callr f) 0x103 f (fun x _ => MayTransfer x.a) fun x s =>
    (s.linked f.len).modSl fun sl => { sl with pcc := x.a }) ∧
  (∀ f, Goes (.ret f) 0x104 f (fun _ s => MayTransfer (s.reg 1)) fun _ s => s.modSl fun sl =>
    { sl with pcc := s.reg 1, routine := if s.sl.routine = .restore (s.reg 1).cursor then .none else s.sl.routine }) ∧
  Goes .retS 0x104 MFormNone (fun _ s => MayTransfer (s.reg 1)) (fun _ s => s.modSl fun sl =>
    { sl with pcc := s.reg 1, routine := if s.sl.routine = .restore (s.reg 1).cursor then .none else s.sl.routine }) ∧
  (∀ f, Goes (.loop f) 0x105 f (fun x _ => x.d.dv ≠ 1) fun x s => (s.writeData f.d (x.d.dv - 1)).jumpBy f.off) ∧
  (∀ f, Does (.loop f) 0x105 f f.len (fun x _ => x.d.dv = 1) fun _ s => s.writeData f.d 0) ∧
  (∀ f, Does (.nop f) 0x106 f f.len (fun _ _ => True) fun _ s => s) ∧
  Does .nopS 0x106 MFormNone 4 (fun _ _ => True) (fun _ s => s) ∧
  (∀ (f : MForm) (s : State),
    (Runs 0x103 f s → ∀ c, c = (s.operands 0x103 f).a →
      (c.tag = false → exec (.callr f) s = .next (s.takeTrap 0x03 c.cursor)) ∧
      (c.tag = true → c.val.getLsbD 123 = false → exec (.callr f) s = .next (s.takeTrap 0x05 c.cursor)) ∧
      (c.tag = true → c.val.getLsbD 123 = true → c.val.setWidth 2 ≠ (0 : BitVec 2) →
        exec (.callr f) s = .next (s.takeTrap 0x07 c.cursor))) ∧
    (Runs 0x104 f s → ∀ c, c = s.reg 1 →
      (c.tag = false → exec (.ret f) s = .next (s.takeTrap 0x03 c.cursor)) ∧
      (c.tag = true → c.val.getLsbD 123 = false → exec (.ret f) s = .next (s.takeTrap 0x05 c.cursor)) ∧
      (c.tag = true → c.val.getLsbD 123 = true → c.val.setWidth 2 ≠ (0 : BitVec 2) →
        exec (.ret f) s = .next (s.takeTrap 0x07 c.cursor))))

namespace Sys2Proof.Machine

/-- The effect of a rounding instruction of class 0x5: the result `r` with its flags, rounded once to FP32; under SR generator 0 steps
(R84, R86). -/
def State.fpRounded (s : State) (f : MForm) (r : Num × Flags) : State :=
  let q := s.scalarRnd f.ext none
  let p := roundF fmtFP32 q.1 r.1
  (q.2.addFlags (r.2 ||| p.2)).writeData f.d (BitVec.ofNat 64 p.1)

/-- The exact value of an FP32 register. -/
def exact32 (c : Cap) : Num := of32 (low32 c).toNat

/-- The value of a finite FP32 pattern as a rational number. -/
def value32 (p : BitVec 32) : Option Rat :=
  let e := (p.extractLsb' 23 8).toNat
  let m := (p.extractLsb' 0 23).toNat
  let sg : Rat := if p.msb then -1 else 1
  if e = 255 then none
  else if e = 0 then some (sg * m / 2 ^ 149)
  else some (sg * (2 ^ 23 + m : Nat) * 2 ^ e / 2 ^ 150)

def distance (a b : Rat) : Rat := if a ≤ b then b - a else a - b

/-- The value of a number that is finite and exact. -/
def exactly : Num → Option Rat
  | .fin n m e false => some ((if n then -(m : Rat) else (m : Rat)) * (2 : Rat) ^ e)
  | _ => none

/-- The magnitude from which rounding to nearest overflows FP32: halfway between the largest finite value and 2^128. -/
def overflow32 : Rat := 2 ^ 128 - 2 ^ 103

/-- `r` with its flags is `x` rounded to nearest. Below the magnitude at which that overflows, `r` is finite, no FP32 value lies nearer, of two
that lie equally near `r` is the even one, and NX says whether `r` differs from `x`. From there on `r` is the infinity of the sign with OF and
NX or, with saturation, the largest finite value of the sign with SA and NX. -/
def IsNearest (sat : Bool) (x : Rat) (r : BitVec 32) (flags : Flags) : Prop :=
  if -overflow32 < x ∧ x < overflow32 then
    ∃ v, value32 r = some v ∧ (∀ c w, value32 c = some w → distance v x ≤ distance w x) ∧
      (∀ c w, value32 c = some w → w ≠ v → distance v x = distance w x → r.getLsbD 0 = false) ∧ (flags &&& NX ≠ 0 ↔ v ≠ x)
  else if sat then r = (if 0 ≤ x then 0x7F7FFFFF else 0xFF7FFFFF) ∧ flags = SA ||| NX
  else r = (if 0 ≤ x then 0x7F800000 else 0xFF800000) ∧ flags = OF ||| NX

/-- The largest magnitude of an element of an MX type (R96, R98, R103). -/
def mxMax (t : Nat) : Rat := match t with
  | 0x20 => 448
  | 0x21 => 57344
  | 0x22 => 28
  | 0x23 => 15 / 2
  | 0x24 => 6
  | _ => 127 / 64

/-- The code `c` of an MX type is a nearest one for `x`, the even one of two, and NX says whether its value differs. -/
def IsNearestElem (t : Nat) (x : Rat) (c : Nat) (flags : Flags) : Prop :=
  c < 2 ^ elemBits t ∧ ∃ v, exactly (decodeElem t c) = some v ∧
    (∀ d w, d < 2 ^ elemBits t → exactly (decodeElem t d) = some w → distance v x ≤ distance w x) ∧
    (∀ d w, d < 2 ^ elemBits t → exactly (decodeElem t d) = some w → w ≠ v → distance v x = distance w x → c % 2 = 0) ∧ (flags &&& NX ≠ 0 ↔ v ≠ x)

/-- The least magnitude that takes the log code `l` of BL6, 1 to 32 (32 is the first that saturates): the thresholds of R101 where codes are rounded to
nearest, and the values of R99 where they are rounded toward zero. -/
def bl6Least (near : Bool) (l : Nat) : Option Rat := do
  let q : Int := ((l : Int) - 20) / 4
  let f := ((l : Int) - 20) % 4
  let v ← if !near then value32 (BitVec.ofNat 32 (bltCode f.toNat))
    else if l = 1 then value32 0x3F9837F0
    else value32 (if f = 0 then 0x3FEBA27F else if f = 1 then 0x3F8C1BF8 else if f = 2 then 0x3FA69E72 else 0x3FC624F8)
  return v * 2 ^ (if near && (l = 1 || f = 0) then q - 1 else q)

/-- In every state in which `i` performs with rounding to nearest even, and its operands have the values that `x` needs, it writes a
nearest FP32 value of `x`. -/
def RoundsToNearest (i : Instr) (op : Nat) (f : MForm) (x : Opnds → Option Rat) : Prop :=
  ∀ s v, Runs op f s → s.roundMode f.ext = 0 → x (s.operands op f) = some v →
    ∃ (r : BitVec 32) (flags : Flags),
      exec i s = .next (s.completed op f f.len ((s.addFlags flags).writeData f.d (r.setWidth 64))) ∧
      IsNearest (s.roundSat f.ext) v r flags

/-- A total order of FP32 patterns that are no NaN, with −0 below +0 (R87). -/
def strictOrder (p : BitVec 32) : Int := if p.msb then -((p &&& 0x7FFFFFFF).toNat : Int) - 1 else (p.toNat : Int)

/-- FMIN, FMAX, FMINN and FMAXN of R87. -/
def pickOf (mx num : Bool) (a b : BitVec 32) : BitVec 32 :=
  if isNan32 a || isNan32 b then
    (if num && !isNan32 b then b else if num && !isNan32 a then a else 0x7FC00000)
  else if (decide (strictOrder a ≤ strictOrder b)) != mx then a else b

def minMaxEffect (f : MForm) (mx num : Bool) (x : Opnds) (s : State) : State :=
  (if isSignal32 (low32 x.a) ∨ isSignal32 (low32 x.b) then s.addFlags NV else s).writeData f.d
    ((pickOf mx num (low32 x.a) (low32 x.b)).setWidth 64)

/-- The class bit of R90. -/
def fpClassOf (p : BitVec 32) : Nat :=
  let e := p.extractLsb' 23 8
  let m := p.extractLsb' 0 23
  if isNan32 p then (if isSignal32 p then 8 else 9)
  else if e = 255 then (if p.msb then 0 else 7)
  else if e = 0 ∧ m = 0 then (if p.msb then 3 else 4)
  else if e = 0 then (if p.msb then 2 else 5)
  else (if p.msb then 1 else 6)

end Sys2Proof.Machine

/-- R84, R86: under rounding to nearest, the sum, difference, product and fused product of finite FP32 values is finite where the exact result lies
below 2^128 − 2^103 in magnitude: an FP32 value than which none lies nearer to the exact result, the even one of two, and NX is set exactly when
it differs. Beyond, it is the infinity of the sign or, with saturation, the largest finite value, with the flags of each. R101, R104: an element of an MX
block is the nearest of its type up to the largest magnitude of the type; a BL6 code has the thresholds of R101, or toward zero the values of R99, as its
bounds, and its flags say what was lost. -/
def Obligations.RoundingToNearestIsNearest : Prop :=
  (∀ f, RoundsToNearest (.fadd f) 0x140 f fun x => do return (← value32 (low32 x.a)) + (← value32 (low32 x.b))) ∧
  (∀ f, RoundsToNearest (.fsub f) 0x141 f fun x => do return (← value32 (low32 x.a)) - (← value32 (low32 x.b))) ∧
  (∀ f, RoundsToNearest (.fmul f) 0x142 f fun x => do return (← value32 (low32 x.a)) * (← value32 (low32 x.b))) ∧
  (∀ f, RoundsToNearest (.ffma f) 0x143 f fun x => do
    return (← value32 (low32 x.a)) * (← value32 (low32 x.b)) + (← value32 (low32 x.d))) ∧
  (∀ t n m e x, 0x20 ≤ t → t ≤ 0x25 → exactly (.fin n m e false) = some x → m ≠ 0 → -mxMax t ≤ x → x ≤ mxMax t →
    IsNearestElem t x (blockElem t {} (.fin n m e false)).1 (blockElem t {} (.fin n m e false)).2) ∧
  (∀ near n m e a p, exactly (.fin false m e false) = some a → m ≠ 0 → p = bl6Encode near (.fin n m e false) →
    p.1 / 32 = (if n then 1 else 0) ∧ (∀ l w, p.1 % 32 = l → 1 ≤ l → bl6Least near l = some w → w ≤ a) ∧
    (∀ w, p.1 % 32 < 31 → bl6Least near (p.1 % 32 + 1) = some w → a < w) ∧
    (∀ w, bl6Least near 32 = some w → (p.2 &&& SA ≠ 0 ↔ w ≤ a)) ∧ (p.2 &&& UF ≠ 0 ↔ p.1 % 32 = 0) ∧
    (p.2 &&& NX ≠ 0 ↔ p.1 % 32 = 0 ∨ exactly (bl6Decode (p.1 % 32)) ≠ some a))

/-- R84 to R90: FADD, FSUB, FMUL, FFMA, FDIV and FSQRT complete with the exact result of their operands, rounded once to FP32; an operation on a
signalling NaN sets NV and writes the default NaN; the operations that do not round, and the conversions, complete with the value of their
row. -/
def Obligations.FloatingPoint : Prop :=
  (∀ f, Does (.fadd f) 0x140 f f.len (fun _ _ => True) fun x s =>
    s.fpRounded f (numAdd (s.roundMode f.ext) (exact32 x.a) (exact32 x.b))) ∧
  (∀ f, Does (.fsub f) 0x141 f f.len (fun _ _ => True) fun x s =>
    s.fpRounded f (numAdd (s.roundMode f.ext) (exact32 x.a) (exact32 x.b).negate)) ∧
  (∀ f, Does (.fmul f) 0x142 f f.len (fun _ _ => True) fun x s => s.fpRounded f (numMul (exact32 x.a) (exact32 x.b))) ∧
  (∀ f, Does (.ffma f) 0x143 f f.len (fun _ _ => True) fun x s =>
    s.fpRounded f (numFma (s.roundMode f.ext) (exact32 x.a) (exact32 x.b) (exact32 x.d))) ∧
  (∀ f, Does (.fdiv f) 0x144 f f.len (fun _ _ => True) fun x s => s.fpRounded f (numDiv (exact32 x.a) (exact32 x.b))) ∧
  (∀ f, Does (.fsqrt f) 0x145 f f.len (fun _ _ => True) fun x s => s.fpRounded f (numSqrt (exact32 x.a))) ∧
  (∀ (f : MForm) (s : State) (i : Instr) (op : Nat),
    (i, op) ∈ [(.fadd f, 0x140), (.fsub f, 0x141), (.fmul f, 0x142), (.fdiv f, 0x144)] →
    Runs op f s → (isSignal32 (low32 (s.operands op f).a) ∨ isSignal32 (low32 (s.operands op f).b)) →
    ∃ t : State, exec i s = .next (s.completed op f f.len ((t.addFlags NV).writeData f.d 0x7FC00000)) ∧
      (t = s ∨ s.roundMode f.ext = 5 ∧ t = (s.genUse 0).2)) ∧
  (∀ f, Does (.fmin f) 0x146 f f.len (fun _ _ => True) (minMaxEffect f false false)) ∧
  (∀ f, Does (.fmax f) 0x147 f f.len (fun _ _ => True) (minMaxEffect f true false)) ∧
  (∀ f, Does (.fminn f) 0x148 f f.len (fun _ _ => True) (minMaxEffect f false true)) ∧
  (∀ f, Does (.fmaxn f) 0x149 f f.len (fun _ _ => True) (minMaxEffect f true true)) ∧
  (∀ f, Gives (.fabs f) 0x14A f f.len fun x _ => (low32 x.a &&& 0x7FFFFFFF).setWidth 64) ∧
  (∀ f, Gives (.fneg f) 0x14B f f.len fun x _ => (low32 x.a ^^^ 0x80000000).setWidth 64) ∧
  (∀ f, Gives (.fclass f) 0x14F f f.len fun x _ => 1 <<< fpClassOf (low32 x.a)) ∧
  (∀ f, Does (.fcvt f) 0x14C f f.len (fun _ _ => f.imm = 1) fun x s =>
    let p := roundF fmtFP32 {} (decodeF (fmtOf f.typ.toNat) (x.a.dv.toNat % 2 ^ elemBits f.typ.toNat))
    (s.addFlags p.2).writeData f.d (BitVec.ofNat 64 p.1)) ∧
  (∀ f, Does (.fcvt f) 0x14C f f.len (fun _ _ => f.imm = 0) fun x s =>
    let q := s.scalarRnd f.ext (some (lsbOf fmtFP32 (low32 x.a).toNat))
    let p := roundF (fmtOf f.typ.toNat) q.1 (exact32 x.a)
    (q.2.addFlags p.2).writeData f.d (BitVec.ofNat 64 p.1)) ∧
  (∀ f, Does (.fcvti f) 0x14D f f.len (fun _ _ => True) fun x s =>
    let q := s.scalarRnd f.ext (some (lsbOf fmtFP32 (low32 x.a).toNat))
    let p := roundInt f.typ.toNat q.1 (exact32 x.a)
    (q.2.addFlags p.2).writeData f.d (BitVec.ofInt 64 p.1)) ∧
  (∀ f, Does (.icvtf f) 0x14E f f.len (fun _ _ => True) fun x s =>
    let q := s.scalarRnd f.ext (some 0)
    let p := roundF fmtFP32 q.1 (.ofInt (intOf f.typ.toNat x.a.dv.toNat))
    (q.2.addFlags p.2).writeData f.d (BitVec.ofNat 64 p.1))

namespace Sys2Proof.Machine

/-- cap_check of R32 passes. -/
abbrev Allowed (c : Cap) (ea : Int) (size : Nat) (perm : BitVec 7) : Prop :=
  c.tag = true ∧ c.perm &&& perm = perm ∧ (c.base : Int) ≤ ea ∧ ea + size ≤ (c.top : Int)

/-- The `n` bytes from `va` lie in the local window, within the scratchpad that the launch has configured (R202, R203). -/
abbrev InOwnScratchpad (s : State) (va n : Nat) : Prop :=
  0 < n ∧ n ≤ 64 ∧ 0xFF0000000000 ≤ va ∧ va + n ≤ 0xFF0000000000 + (s.coreBank s.myCoreKey).spad ∧
    (s.coreBank s.myCoreKey).spad ≤ 0x18000 ∧ (s.coreBank s.myCoreKey).launch ≠ none ∧ (s.core s.myCore).stopped = false

/-- Where such a byte stands in `State.spad`. -/
def State.ownByte (s : State) (va : Nat) : Nat :=
  s.myCore * 0x18000 + (s.coreBank s.myCoreKey).spadBase + (va - 0xFF0000000000)

/-- No earlier store of the slot stands in its buffer, its core is no twin, no breakpoint names the bytes, and none of them is poisoned. -/
abbrev Clear (s : State) (va n : Nat) : Prop :=
  s.sl.sbuf = [] ∧ (s.core s.myCore).twin = none ∧ s.dataBp va n = none ∧ s.spadPoisoned (s.ownByte va) n = false

/-- An access of `n` bytes at `ea` with the capability `c` reaches the core's own scratchpad and nothing stands in its way. -/
abbrev Reaches (s : State) (c : Cap) (ea : Int) (n : Nat) (perm : BitVec 7) : Prop :=
  Allowed c ea n perm ∧ InOwnScratchpad s ea.toNat n ∧ Clear s ea.toNat n

/-- The result of a load of width code `e` (R254). -/
def loadExtended (e : BitVec 5) (bs : List Byte) : Cap :=
  let v := leNat bs
  if e = 4 then ⟨BitVec.ofNat 128 v, false⟩
  else Cap.ofWord (if e = 8 then (BitVec.ofNat 8 v).signExtend 64 else if e = 9 then (BitVec.ofNat 16 v).signExtend 64
    else if e = 10 then (BitVec.ofNat 32 v).signExtend 64 else BitVec.ofNat 64 v)

/-- The bytes of width code `e` (R254). -/
def widthOf (e : BitVec 5) : Nat := if e = 0 ∨ e = 8 then 1 else if e = 1 ∨ e = 9 then 2 else if e = 2 ∨ e = 10 then 4
  else if e = 3 then 8 else 16

/-- The width codes of R254. -/
abbrev IsWidth (e : BitVec 5) : Prop := e.toNat ≤ 4 ∨ (8 ≤ e.toNat ∧ e.toNat ≤ 10)

/-- The effect of an LD with ORD 1: the acquire actions of its scope (R236). -/
def State.acquired (s : State) (f : MForm) : State := if moOrdF f = 1 then s.acquireAt s.myCoreKey (moScopeF f) else s

/-- The bytes at `va` in the core's own scratchpad. -/
def State.ownBytes (s : State) (va n : Nat) : List Byte := s.spad.bytes (s.ownByte va) n

/-- A load of `n` bytes at `va` takes one step: it lies within one line, or its turn reads both lines at once (R213; a turn that carries a number
reads them one after the other). -/
abbrev OneStep (s : State) (va n : Nat) : Prop := va / 64 = (va + n - 1) / 64 ∨ s.groups = none ∧ s.sl.readPart = none

/-- A store posted with its bytes: it stands last in the buffer of the slot (R384). -/
def State.posted (s : State) (va : Nat) (data : List Byte) (kind : StoreKind) : State :=
  s.modSl fun sl => { sl with sbuf := sl.sbuf ++ [⟨va, data, kind, false, false, none⟩] }

/-- A store of `n` bytes at `ea` may be posted: the checks of R32 and, where `aligned` asks for it, R213 pass, the access lies in one
region and outside the matrix queue window, no breakpoint names it, and the buffer has room. -/
abbrev MayPost (s : State) (c : Cap) (ea : Int) (n : Nat) (perm : BitVec 7) (aligned : Bool) : Prop :=
  Allowed c ea n perm ∧ (aligned = true → ea.toNat % n = 0) ∧ regionOf ea.toNat = regionOf (ea.toNat + n - 1) ∧
    inQueueWindow ea.toNat n = false ∧ s.dataBp ea.toNat n = none ∧ s.sl.sbuf.length < 16

/-- The slot has issued `i`, which pops and pushes no queue, and waits with it (R25, R153). -/
def State.waitsWith (s : State) (i : Instr) : State :=
  s.modSl fun sl => { sl with issued := true, popped := if sl.issued then sl.popped else [], state := .waiting i }

/-- The full/empty bit of an own scratchpad word, by its address (R214). -/
def State.ownFull (s : State) (va : Nat) : Bool := s.isFull s.myBank (s.ownByte va)
def State.setOwnFull (s : State) (va : Nat) (v : Bool) : State := s.setFull s.myCore s.myBank (s.ownByte va) v

/-- The merge points of the die let every arrival pass: neither a log nor a replay runs (R479). -/
abbrev NoReplay (s : State) (die : Nat) : Prop := (s.csr die 0x4CB).extractLsb' 0 2 ≠ 1 ∧ (s.csr die 0x4CB).extractLsb' 0 2 ≠ 2

/-- A full/empty operation reaches its own word. -/
abbrev ReachesWord (s : State) (c : Cap) (ea : Int) (perm : BitVec 7) : Prop :=
  Reaches s c ea 8 perm ∧ ea.toNat % 8 = 0 ∧ (s.coreBank s.myCoreKey).spadBase % 8 = 0 ∧ NoReplay s s.myDie

end Sys2Proof.Machine

/-- R254, R256, R258 to R260: a load from the core's own scratchpad writes the bytes, extended as its width code says, little-endian; LD with ORD
1 needs natural alignment and performs the acquire actions; LDLU on a scratchpad is LD. LDC writes 16 bytes, tagged only where memory is
tagged and the capability has LC; LD64 writes a register group, untagged. A load across two lines is two accesses: the turn of its issue reads one
of them, and a later one the other (R213). -/
def Obligations.LoadsFromTheOwnScratchpad : Prop :=
  (∀ f, IsWidth f.ext → Does (.ld f) 0x180 f f.len
    (fun x s => Reaches s x.a (x.a.cursor + f.off) (widthOf f.ext) 64 ∧ OneStep s ((x.a.cursor : Int) + f.off).toNat (widthOf f.ext) ∧
      (moOrdF f = 1 → ((x.a.cursor : Int) + f.off).toNat % widthOf f.ext = 0))
    fun x s => (s.acquired f).writeD f.d (loadExtended f.ext (s.ownBytes ((x.a.cursor : Int) + f.off).toNat (widthOf f.ext)))) ∧
  (∀ f, IsWidth f.ext → Does (.ldlu f) 0x184 f f.len
    (fun x s => Reaches s x.a (x.a.cursor + f.off) (widthOf f.ext) 64 ∧ OneStep s ((x.a.cursor : Int) + f.off).toNat (widthOf f.ext))
    fun x s => s.writeD f.d (loadExtended f.ext (s.ownBytes ((x.a.cursor : Int) + f.off).toNat (widthOf f.ext)))) ∧
  (∀ d a imm, Does (.ldDwordS d a imm) 0x180 (MFormMemS 3 d a 0 imm 8) 4
    (fun x s => Reaches s x.a (x.a.cursor + 8 * (imm.toNat : Int)) 8 64 ∧ OneStep s (x.a.cursor + 8 * imm.toNat) 8)
    fun x s => s.writeD d (loadExtended 3 (s.ownBytes (x.a.cursor + 8 * imm.toNat) 8))) ∧
  (∀ d a imm, Does (.ldWordS d a imm) 0x180 (MFormMemS 2 d a 0 imm 4) 4
    (fun x s => Reaches s x.a (x.a.cursor + 4 * (imm.toNat : Int)) 4 64 ∧ OneStep s (x.a.cursor + 4 * imm.toNat) 4)
    fun x s => s.writeD d (loadExtended 2 (s.ownBytes (x.a.cursor + 4 * imm.toNat) 4))) ∧
  (∀ f, Does (.ldc f) 0x182 f f.len
    (fun x s => Reaches s x.a (x.a.cursor + f.off) 16 64 ∧ ((x.a.cursor : Int) + f.off).toNat % 16 = 0)
    fun x s => s.writeD f.d ⟨BitVec.ofNat 128 (leNat (s.ownBytes ((x.a.cursor : Int) + f.off).toNat 16)),
      s.spad.tag (s.ownByte ((x.a.cursor : Int) + f.off).toNat / 16) && x.a.perm.getLsbD 4⟩) ∧
  (∀ f s, Runs 0x185 f s → ∀ x, x = s.operands 0x185 f → Reaches s x.a (x.a.cursor + f.off) 64 64 →
    ((x.a.cursor : Int) + f.off).toNat % 64 = 0 →
    ∃ t, exec (.ld64 f) s = .next (s.completed 0x185 f f.len t) ∧
      (∀ k, k < 4 → f.d + BitVec.ofNat 5 k ≠ 0 → t.reg (f.d + BitVec.ofNat 5 k) =
        ⟨BitVec.ofNat 128 (leNat ((s.ownBytes ((x.a.cursor : Int) + f.off).toNat 64).drop (16 * k) |>.take 16)), false⟩) ∧
      (∀ r : BitVec 5, (∀ k, k < 4 → r ≠ f.d + BitVec.ofNat 5 k) → t.reg r = s.reg r) ∧
      t.mem = s.mem ∧ t.spad = s.spad ∧ t.coreBanks = s.coreBanks ∧ t.sl.pcc = s.sl.pcc) ∧
  (∀ f s, IsWidth f.ext → moOrdF f ≠ 1 → Runs 0x180 f s → ∀ x, x = s.operands 0x180 f →
    Reaches s x.a (x.a.cursor + f.off) (widthOf f.ext) 64 → ∀ va n, va = ((x.a.cursor : Int) + f.off).toNat → n = 64 - va % 64 →
    n < widthOf f.ext →
    (∀ k, s.groups = some k → s.sl.readPart = none → s.sl.pops 0x180 f = [] → s.sl.push 0x180 f = none →
      ∃ g : Got, g.bytes = (if k % 2 = 0 then s.ownBytes va n else s.ownBytes (va + n) (widthOf f.ext - n)) ∧
        exec (.ld f) s = .next ((s.modSl fun sl => { sl with readPart := some (decide (k % 2 = 0), g) }).waitsWith (.ld f))) ∧
    (∀ low g, s.sl.readPart = some (low, g) → exec (.ld f) s = .next (s.completed 0x180 f f.len (s.writeD f.d (loadExtended f.ext
      (if low then g.bytes ++ s.ownBytes (va + n) (widthOf f.ext - n) else s.ownBytes va n ++ g.bytes))))))

/-- R255, R257 to R259, R268, R384: a store is checked at issue and posted; nothing of memory changes before it is translated. A release
performs its actions first. -/
def Obligations.StoresArePosted : Prop :=
  (∀ f, IsWidth f.ext → moOrdF f = 0 → Does (.st f) 0x181 f f.len
    (fun x s => MayPost s x.a (x.a.cursor + f.imm.toInt) (widthOf f.ext) 32 false)
    fun x s => s.posted ((x.a.cursor : Int) + f.imm.toInt).toNat (leBytes (widthOf f.ext) x.b.val.toNat) .plain) ∧
  (∀ f, IsWidth f.ext → moOrdF f = 2 → Does (.st f) 0x181 f f.len
    (fun x s => MayPost s x.a (x.a.cursor + f.imm.toInt) (widthOf f.ext) 32 true)
    fun x s => (s.posted ((x.a.cursor : Int) + f.imm.toInt).toNat (leBytes (widthOf f.ext) x.b.val.toNat)
      (.release (moScopeF f))).releaseAt s.myCoreKey (moScopeF f)) ∧
  (∀ f, Does (.stc f) 0x183 f f.len
    (fun x s => MayPost s x.a (x.a.cursor + f.imm.toInt) 16 (if x.b.tag then 40 else 32) true)
    fun x s => s.posted ((x.a.cursor : Int) + f.imm.toInt).toNat (leBytes 16 x.b.val.toNat) (if x.b.tag then .tagged else .plain)) ∧
  (∀ f, Does (.st64 f) 0x186 f f.len
    (fun x s => MayPost s x.a (x.a.cursor + f.imm.toInt) 64 32 true)
    fun x s => s.posted ((x.a.cursor : Int) + f.imm.toInt).toNat (leBytes 16 (s.reg f.b).val.toNat ++
      leBytes 16 (s.reg (f.b + 1)).val.toNat ++ leBytes 16 (s.reg (f.b + 2)).val.toNat ++ leBytes 16 (s.reg (f.b + 3)).val.toNat)
      .plain) ∧
  (∀ a b imm, Does (.stDwordS a b imm) 0x181 (MFormMemS 3 0 a b imm 8) 4
    (fun x s => MayPost s x.a (x.a.cursor + 8 * (imm.toNat : Int)) 8 32 false)
    fun x s => s.posted (x.a.cursor + 8 * imm.toNat) (leBytes 8 x.b.val.toNat) .plain) ∧
  (∀ a b imm, Does (.stWordS a b imm) 0x181 (MFormMemS 2 0 a b imm 4) 4
    (fun x s => MayPost s x.a (x.a.cursor + 4 * (imm.toNat : Int)) 4 32 false)
    fun x s => s.posted (x.a.cursor + 4 * imm.toNat) (leBytes 4 x.b.val.toNat) .plain) ∧
  (∀ f, Does (.red f) 0x1C3 f f.len
    (fun x s => MayPost s x.a (x.a.cursor + f.imm.toInt) (if f.typ.getLsbD 5 then 8 else 4) 96 true)
    fun x s => s.posted ((x.a.cursor : Int) + f.imm.toInt).toNat (leBytes (if f.typ.getLsbD 5 then 8 else 4) x.b.dv.toNat)
      (.red f.ext.toNat (moScopeF f)))

/-- R32, R255: an access whose capability check fails traps with the cause of the first check that fails, in the order tag,
permissions, bounds, with the address in the trap record, and has no other effect. -/
def Obligations.AccessesThroughBadCapabilitiesTrap : Prop :=
  ∀ (f : MForm) (s : State) (i : Instr) (op n : Nat) (perm : BitVec 7) (ea : Int),
    (i, op, n, perm, ea) ∈ [
      (.ld f, 0x180, widthOf f.ext, 64, (s.operands 0x180 f).a.cursor + f.off),
      (.st f, 0x181, widthOf f.ext, 32, (s.operands 0x181 f).a.cursor + f.imm.toInt),
      (.ldc f, 0x182, 16, 64, (s.operands 0x182 f).a.cursor + f.off),
      (.ld64 f, 0x185, 64, 64, (s.operands 0x185 f).a.cursor + f.off),
      (.st64 f, 0x186, 64, 32, (s.operands 0x186 f).a.cursor + f.imm.toInt),
      (.ldfe f, 0x187, 8, 65, (s.operands 0x187 f).a.cursor + f.off),
      (.stfe f, 0x189, 8, 33, (s.operands 0x189 f).a.cursor + f.imm.toInt),
      (.amo f, 0x1C0, if f.typ.getLsbD 5 then 8 else 4, 96, (s.operands 0x1C0 f).a.cursor + f.imm.toInt)] →
    IsWidth f.ext ∨ op ≥ 0x182 →
    Runs op f s → ∀ c, c = (s.operands op f).a → ∀ va, va = (ea % 2 ^ 64).toNat →
    (c.tag = false → exec i s = .next (s.takeTrap 0x03 va)) ∧
    (c.tag = true → c.perm &&& perm ≠ perm → exec i s = .next (s.takeTrap 0x05 va)) ∧
    (c.tag = true → c.perm &&& perm = perm → (ea < c.base ∨ (c.top : Int) < ea + n) → exec i s = .next (s.takeTrap 0x04 va))

/-- R261: the steps of full and empty words in the core's own scratchpad; one whose word is not in the state it needs waits and changes nothing
but the state of its slot. -/
def Obligations.FullAndEmptyWords : Prop :=
  (∀ f, Does (.ldfe f) 0x187 f f.len
    (fun x s => ReachesWord s x.a (x.a.cursor + f.off) 65 ∧ s.ownFull ((x.a.cursor : Int) + f.off).toNat = true)
    fun x s => ((s.setOwnFull ((x.a.cursor : Int) + f.off).toNat false).acquireAt s.myCoreKey 1).writeData f.d
      (BitVec.ofNat 64 (leNat (s.ownBytes ((x.a.cursor : Int) + f.off).toNat 8)))) ∧
  (∀ f, Does (.ldff f) 0x188 f f.len
    (fun x s => ReachesWord s x.a (x.a.cursor + f.off) 65 ∧ s.ownFull ((x.a.cursor : Int) + f.off).toNat = true)
    fun x s => (s.acquireAt s.myCoreKey 1).writeData f.d (BitVec.ofNat 64 (leNat (s.ownBytes ((x.a.cursor : Int) + f.off).toNat 8)))) ∧
  (∀ f, Does (.stfe f) 0x189 f f.len
    (fun x s => ReachesWord s x.a (x.a.cursor + f.imm.toInt) 33 ∧ s.ownFull ((x.a.cursor : Int) + f.imm.toInt).toNat = false)
    fun x s => ((s.releaseAt s.myCoreKey 1).spadWrite (s.ownByte ((x.a.cursor : Int) + f.imm.toInt).toNat) (leBytes 8 x.b.dv.toNat)
      false).setOwnFull ((x.a.cursor : Int) + f.imm.toInt).toNat true) ∧
  (∀ f, Does (.stff f) 0x18A f f.len
    (fun x s => ReachesWord s x.a (x.a.cursor + f.imm.toInt) 33 ∧ s.ownFull ((x.a.cursor : Int) + f.imm.toInt).toNat = true)
    fun x s => ((s.releaseAt s.myCoreKey 1).spadWrite (s.ownByte ((x.a.cursor : Int) + f.imm.toInt).toNat) (leBytes 8 x.b.dv.toNat)
      false).setOwnFull ((x.a.cursor : Int) + f.imm.toInt).toNat true) ∧
  (∀ f, Does (.feset f) 0x18B f f.len (fun x s => ReachesWord s x.a (x.a.cursor + f.off) 33)
    fun x s => (s.releaseAt s.myCoreKey 1).setOwnFull ((x.a.cursor : Int) + f.off).toNat (f.ext.getLsbD 0)) ∧
  (∀ f, Does (.feget f) 0x18C f f.len (fun x s => ReachesWord s x.a (x.a.cursor + f.off) 65)
    fun x s => (s.acquireAt s.myCoreKey 1).writeData f.d (if s.ownFull ((x.a.cursor : Int) + f.off).toNat then 1 else 0)) ∧
  (∀ (f : MForm) (s : State),
    (∀ i op, (i, op) ∈ [(.ldfe f, 0x187), (.ldff f, 0x188)] → Runs op f s → ∀ x, x = s.operands op f →
      s.sl.pops op f = [] → s.sl.push op f = none → ReachesWord s x.a (x.a.cursor + f.off) 65 →
      s.ownFull ((x.a.cursor : Int) + f.off).toNat = false →
      exec i s = .next (s.waitsWith i)) ∧
    (Runs 0x189 f s → ∀ x, x = s.operands 0x189 f → s.sl.pops 0x189 f = [] →
      ReachesWord s x.a (x.a.cursor + f.imm.toInt) 33 → s.ownFull ((x.a.cursor : Int) + f.imm.toInt).toNat = true →
      exec (.stfe f) s = .next (s.waitsWith (.stfe f))))

namespace Sys2Proof.Machine

/-- The integer operations of R265 on w-bit values. -/
def atomicValue (op : Nat) {w : Nat} (old b : BitVec w) : BitVec w :=
  match op with
  | 0 => old + b
  | 1 => old &&& b
  | 2 => old ||| b
  | 3 => old ^^^ b
  | 4 => if old.sle b then old else b
  | 5 => if old.sle b then b else old
  | 6 => if old ≤ b then old else b
  | 7 => if old ≤ b then b else old
  | _ => b

/-- The width in bytes of an atomic, from W64 of its MO field (R253). -/
def atomicWidth (f : MForm) : Nat := if f.typ.getLsbD 5 then 8 else 4

/-- What AMO stores over the bytes `old`. -/
def amoBytes (f : MForm) (old : List Byte) (b : Word) : List Byte :=
  if f.typ.getLsbD 5 then leBytes 8 (atomicValue f.ext.toNat (BitVec.ofNat 64 (leNat old)) b).toNat
  else leBytes 4 (atomicValue f.ext.toNat (BitVec.ofNat 32 (leNat old)) (b.setWidth 32)).toNat

/-- The bytes of an atomic at `va` in the own scratchpad are replaced by `bs`, between its release and its acquire actions (R236, R264);
`none` writes nothing. -/
def State.atomicStep (s : State) (f : MForm) (va : Nat) (bs : Option (List Byte)) : State :=
  let s := if 2 ≤ moOrdF f then s.releaseAt s.myCoreKey (moScopeF f) else s
  let s := match bs with
    | some b => s.spadWrite (s.ownByte va) b false
    | none => s
  if moOrdF f % 2 = 1 then s.acquireAt s.myCoreKey (moScopeF f) else s

/-- An atomic reaches its own scratchpad, and no RED of the slot is on its way to another die, which it would follow (R229). -/
abbrev ReachesAtomic (s : State) (f : MForm) (c : Cap) (n : Nat) : Prop :=
  Reaches s c (c.cursor + f.imm.toInt) n 96 ∧ ((c.cursor : Int) + f.imm.toInt).toNat % n = 0 ∧ s.redOut s.me = false

/-- The slot's store buffer translates its oldest store `e`: nothing is held before it, no part of it has performed, no remote operation or RED
that it follows is on its way (R229, R235), and its core runs and is no twin. -/
abbrev Translates (s : State) (k : Nat) (e : StoreEnt) (rest : List StoreEnt) : Prop :=
  (s.slotAt k).sbuf = e :: rest ∧ e.held = false ∧ e.part = none ∧ s.storeReady k = true ∧ (s.core (k / 8)).stopped = false ∧
    (s.core (k / 8)).twin = none

/-- No L1 holds a line of global memory, the key of the page reads the line, and it is not poisoned: what a strand reads of it is what stands in memory. -/
structure AtHome (s : State) (line : Nat) (key : BitVec 6) : Prop where
  copies : ∀ b ∈ s.coreBanks, look b.2.l1 line = none
  fits : s.keyFits line key = true
  clean : line ∉ s.mem.poison

/-- An access of `n` bytes at `ea` with the capability `c` reads one line of global memory, at the physical address `pa` of a page `pg`; `u` is the state
after its translation. Nothing holds it back: no breakpoint, no earlier store of the slot, no twin, no write of the core on its way to the line. -/
structure ReachesLine (s u : State) (c : Cap) (ea : Int) (n : Nat) (perm : BitVec 7) (acc : Access) (pa : Nat) (pg : Page) : Prop where
  allowed : Allowed c ea n perm ∧ s.dataBp ea.toNat n = none
  translated : s.resolve s.via ea.toNat n acc = (.ok [⟨.mem pa pg, n⟩], u)
  alone : u.sl.sbuf = [] ∧ (u.core u.myCore).twin = none ∧ u.flight u.myCoreKey (pa / 64) = []
  order : pg.mode = .so → u.repliesOut = false

/-- The line of `pa` has its home on the strand's own die, in the HBM of that die. -/
abbrev OwnHome (s : State) (pa : Nat) : Prop := pa < 2 ^ 51 ∧ homeDie pa = s.myDie

/-- Whether a place of the package lies in the scope-`sc` instance of another (R237). -/
abbrev Within (sc die cluster die' cluster' : Nat) : Prop := 3 ≤ sc ∨ (die = die' ∧ (sc = 2 ∨ cluster = cluster'))

/-- The check of R237 for an acquire of scope `sc` by the strand: the metadata names no agent, or each of the two lies within the scope of the other. -/
def PassesScope (s : State) (line sc : Nat) : Prop :=
  (s.metaOf line).scope = 7 ∨
    Within (s.metaOf line).scope.toNat s.myDie (s.myCluster % 48) (s.metaOf line).odie.toNat (s.metaOf line).oclus.toNat ∧
      Within sc (s.metaOf line).odie.toNat (s.metaOf line).oclus.toNat s.myDie (s.myCluster % 48)

/-- An atomic whose word lies in HBM of its own die: `new` is what it stores over the old bytes, `fin` what it leaves in the registers. It writes the
metadata of R215. An acquire that fails the scope check traps and writes nothing (R237). Where it releases or acquires, the L1 of its core is empty. -/
def AtomicAtHome (i : Instr) (op : Nat) (f : MForm) (n : Nat) (new : Opnds → List Byte → Option (List Byte)) (fin : Opnds → List Byte → State → State) : Prop :=
  ∀ s u pa pg x old, Runs op f s → x = s.operands op f → ReachesLine s u x.a (x.a.cursor + f.imm.toInt) n 96 .amo pa pg →
    ((x.a.cursor : Int) + f.imm.toInt).toNat % n = 0 → OwnHome u pa → AtHome u (pa / 64) pg.key → NoReplay u u.myDie → u.redOut u.me = false →
    (∀ c ∈ u.clusters, ∀ m ∈ c.2.monitors, m.line ≠ pa / 64) → (moOrdF f = 0 ∨ (u.coreBank u.myCoreKey).l1 = []) → u.mem.wf = true →
    old = u.mem.bytes pa n →
    ((moOrdF f % 2 = 1 → PassesScope u (pa / 64) (moScopeF f)) →
      ∃ w : State, exec i s = .next (s.completed op f f.len (fin x old w)) ∧ w.mem.bytes pa n = (new x old).getD old ∧
        (∀ a, a < pa ∨ pa + n ≤ a → w.mem.get a = u.mem.get a) ∧ w.slots = u.slots ∧ w.spad = u.spad ∧
        w.metaOf (pa / 64) = ⟨BitVec.ofNat 3 (moScopeF f), BitVec.ofNat 3 u.myDie, BitVec.ofNat 6 (u.myCluster % 48)⟩) ∧
    (moOrdF f % 2 = 1 → ¬PassesScope u (pa / 64) (moScopeF f) →
      ∃ w : State, exec i s = .next (w.takeTrap 0x0B (((x.a.cursor : Int) + f.imm.toInt).toNat)) ∧ w.mem = u.mem ∧ w.lineMeta = u.lineMeta ∧
        w.spad = u.spad ∧ w.slots = u.slots)

/-- What CAS stores over the bytes `old`, and what it leaves. -/
def casBytes (f : MForm) (x : Opnds) (old : List Byte) : Option (List Byte) :=
  if leNat old = leNat (leBytes (atomicWidth f) x.d.dv.toNat) then some (leBytes (atomicWidth f) x.b.dv.toNat) else none

end Sys2Proof.Machine

/-- R215, R237, R264 to R267: AMO, CAS and FAMO write old to d, and the new value to memory; CAS only where old is what d held, which its predicate
tells. In the core's own scratchpad an atomic without release actions changes no byte of memory but those of its word; at a home slice of the own die it
writes the metadata of its line too, after the scope check of an acquire. -/
def Obligations.Atomics : Prop :=
  (∀ f, Does (.amo f) 0x1C0 f f.len (fun x s => ReachesAtomic s f x.a (atomicWidth f)) fun x s =>
    let va := ((x.a.cursor : Int) + f.imm.toInt).toNat
    let old := s.ownBytes va (atomicWidth f)
    (s.atomicStep f va (some (amoBytes f old x.b.dv))).writeData f.d (BitVec.ofNat 64 (leNat old))) ∧
  (∀ f, Does (.cas f) 0x1C1 f f.len (fun x s => ReachesAtomic s f x.a (atomicWidth f)) fun x s =>
    let va := ((x.a.cursor : Int) + f.imm.toInt).toNat
    let n := atomicWidth f
    let old := leNat (s.ownBytes va n)
    let same := decide (old = leNat (leBytes n x.d.dv.toNat))
    ((s.atomicStep f va (if same then some (leBytes n x.b.dv.toNat) else none)).writeData f.d (BitVec.ofNat 64 old)).setPred
      (f.ext.setWidth 3) same) ∧
  (∀ f, f.ext.toNat < 5 → Does (.famo f) 0x1C2 f f.len (fun x s => ReachesAtomic s f x.a 4 ∧ f.typ.getLsbD 5 = false) fun x s =>
    let va := ((x.a.cursor : Int) + f.imm.toInt).toNat
    let old := BitVec.ofNat 32 (leNat (s.ownBytes va 4))
    let r := famoApply f.ext.toNat old.toNat (low32 x.b).toNat
    ((s.atomicStep f va (some (leBytes 4 r.1))).addFlags r.2).writeData f.d (old.setWidth 64)) ∧
  (∀ (f : MForm) (s : State) (i : Instr) (op n : Nat),
    (i, op, n) ∈ [(.amo f, 0x1C0, atomicWidth f), (.cas f, 0x1C1, atomicWidth f), (.famo f, 0x1C2, 4)] →
    Runs op f s → moOrdF f < 2 → s.spad.wf = true → ReachesAtomic s f (s.operands op f).a n →
    ∃ t, exec i s = .next t ∧ t.mem = s.mem ∧ t.lineMeta = s.lineMeta ∧
      (∀ a, a < s.ownByte (((s.operands op f).a.cursor : Int) + f.imm.toInt).toNat ∨
        s.ownByte (((s.operands op f).a.cursor : Int) + f.imm.toInt).toNat + n ≤ a → t.spad.get a = s.spad.get a) ∧
      (∀ r, r ≠ f.d → t.reg r = s.reg r) ∧ t.sl.fctl = s.sl.fctl ∧ t.sl.qmap = s.sl.qmap ∧ t.sl.shapes = s.sl.shapes ∧
      t.sl.gens = s.sl.gens ∧ t.sl.trapRec = s.sl.trapRec ∧ t.sl.hm = s.sl.hm ∧ t.sl.domains = s.sl.domains ∧
      (∀ k, k ≠ s.me → (t.slotAt k).regs = (s.slotAt k).regs ∧ (t.slotAt k).pcc = (s.slotAt k).pcc)) ∧
  (∀ f, AtomicAtHome (.amo f) 0x1C0 f (atomicWidth f) (fun x old => some (amoBytes f old x.b.dv))
    fun _ old w => w.writeData f.d (BitVec.ofNat 64 (leNat old))) ∧
  (∀ f, AtomicAtHome (.cas f) 0x1C1 f (atomicWidth f) (casBytes f)
    fun x old w => (w.writeData f.d (BitVec.ofNat 64 (leNat old))).setPred (f.ext.setWidth 3) (casBytes f x old).isSome) ∧
  (∀ f, f.ext.toNat < 5 → f.typ.getLsbD 5 = false → AtomicAtHome (.famo f) 0x1C2 f 4
    (fun x old => some (leBytes 4 (famoApply f.ext.toNat (leNat old) (low32 x.b).toNat).1))
    fun x old w => (w.addFlags (famoApply f.ext.toNat (leNat old) (low32 x.b).toNat).2).writeData f.d (BitVec.ofNat 64 (leNat old)))

/-- R207, R236, R237, R256, R263, R270, R271, R422: a load of global memory gives what the L1 holds of a line, and else what its home holds; a miss of a
cached page leaves the line in the L1. LD with ORD 1 is served by the home after the scope check, and performs the acquire actions. A load of a line whose
home lies beyond the die goes out once, takes the answer later, and raises RESULT_UNKNOWN where none has come for 16 transmissions. PREF has no
architectural effect; WBL and INVL write a line of the L1 home, and INVL invalidates it; on a scratchpad window they complete at once. FENCE performs the
actions of its kind at its scope, and DRAINST completes once every earlier store is translated. -/
def Obligations.LinesFencesAndDraining : Prop :=
  (∀ f s u pa pg l x n, IsWidth f.ext → moOrdF f ≠ 1 → Runs 0x180 f s → x = s.operands 0x180 f → n = widthOf f.ext →
    ReachesLine s u x.a (x.a.cursor + f.off) n 64 .load pa pg → u.cached u.myCoreKey pg = true →
    look (u.coreBank u.myCoreKey).l1 (pa / 64) = some l → l.parts = [] → l.valid = BitVec.allOnes 64 → l.poison = false →
    exec (.ld f) s = .next (s.completed 0x180 f f.len (u.writeD f.d (loadExtended f.ext (lineBytes l.data (pa % 64) n))))) ∧
  (∀ f s u pa pg x n, IsWidth f.ext → moOrdF f ≠ 1 → Runs 0x180 f s → x = s.operands 0x180 f → n = widthOf f.ext →
    ReachesLine s u x.a (x.a.cursor + f.off) n 64 .load pa pg → u.cached u.myCoreKey pg = false → OwnHome u pa → AtHome u (pa / 64) pg.key →
    exec (.ld f) s = .next (s.completed 0x180 f f.len (u.writeD f.d (loadExtended f.ext (u.mem.bytes pa n))))) ∧
  (∀ f s u pa pg x n, IsWidth f.ext → moOrdF f ≠ 1 → Runs 0x180 f s → x = s.operands 0x180 f → n = widthOf f.ext →
    ReachesLine s u x.a (x.a.cursor + f.off) n 64 .load pa pg → u.cached u.myCoreKey pg = true → OwnHome u pa → AtHome u (pa / 64) pg.key →
    64 * (u.coreBank u.myCoreKey).l1.length < (u.coreBank u.myCoreKey).l1Bytes →
    ∃ (w : State) (l : L1Line), exec (.ld f) s = .next (s.completed 0x180 f f.len (w.writeD f.d (loadExtended f.ext (u.mem.bytes pa n)))) ∧
      w.mem = u.mem ∧ w.spad = u.spad ∧ w.slots = u.slots ∧ look (w.coreBank u.myCoreKey).l1 (pa / 64) = some l ∧ l.valid = BitVec.allOnes 64 ∧
      l.dirty = 0 ∧ l.poison = false ∧ l.mode = pg.mode ∧ lineBytes l.data 0 64 = u.mem.bytes (pa / 64 * 64) 64) ∧
  (∀ f s u pa pg x n ea, IsWidth f.ext → moOrdF f = 1 → Runs 0x180 f s → x = s.operands 0x180 f → n = widthOf f.ext →
    ea = (x.a.cursor : Int) + f.off → ReachesLine s u x.a ea n 64 .load pa pg → ea.toNat % n = 0 → OwnHome u pa → AtHome u (pa / 64) pg.key →
    (PassesScope u (pa / 64) (moScopeF f) → exec (.ld f) s = .next (s.completed 0x180 f f.len
      ((u.acquireAt u.myCoreKey (moScopeF f)).writeD f.d (loadExtended f.ext (u.mem.bytes pa n))))) ∧
    (¬PassesScope u (pa / 64) (moScopeF f) → exec (.ld f) s = .next (u.takeTrap 0x0B ea.toNat))) ∧
  (∀ f s u pa pg x n ea, IsWidth f.ext → moOrdF f ≠ 1 → Runs 0x180 f s → x = s.operands 0x180 f → n = widthOf f.ext →
    ea = (x.a.cursor : Int) + f.off → ReachesLine s u x.a ea n 64 .load pa pg → u.cached u.myCoreKey pg = false →
    (2 ^ 51 ≤ pa ∨ homeDie pa ≠ u.myDie) → AtHome u (pa / 64) pg.key →
    (u.sl.xread = none → s.sl.pops 0x180 f = [] → s.sl.push 0x180 f = none →
      exec (.ld f) s = .next ((u.modSl fun sl => { sl with xread := some (1, u.now) }).waitsWith (.ld f))) ∧
    (∀ p, u.sl.xread = some p → u.homeUp u.myDie pa = true → u.isLive u.me = true → u.sl.ingress = none →
      exec (.ld f) s = .next (s.completed 0x180 f f.len (u.writeD f.d (loadExtended f.ext (u.mem.bytes pa n))))) ∧
    (∀ m t, u.sl.xread = some (m, t) → u.homeUp u.myDie pa = false → 16 ≤ m → 2048 ≤ (u.now - t).toNat →
      exec (.ld f) s = .next (u.takeTrap 0x13 ea.toNat))) ∧
  (∀ f, Does (.pref f) 0x18D f f.len (fun x _ => Allowed x.a (x.a.cursor + f.off) 1 64) fun _ s => s) ∧
  (∀ f, Does (.wbl f) 0x18E f f.len
    (fun x s => Allowed x.a (x.a.cursor + f.off) 1 64 ∧ InOwnScratchpad s ((x.a.cursor : Int) + f.off).toNat 1) fun _ s => s) ∧
  (∀ f, Does (.invl f) 0x18F f f.len
    (fun x s => Allowed x.a (x.a.cursor + f.off) 1 64 ∧ InOwnScratchpad s ((x.a.cursor : Int) + f.off).toNat 1) fun _ s => s) ∧
  (∀ f s u pa pg, Runs 0x18E f s → ∀ x, x = s.operands 0x18E f → Allowed x.a (x.a.cursor + f.off) 1 64 →
    s.resolve s.via ((x.a.cursor : Int) + f.off).toNat 1 .load = (.ok [⟨.mem pa pg, 1⟩], u) → u.sl.sbuf = [] →
    (u.core u.myCore).twin = none → u.cached u.myCoreKey pg = true → (look (u.coreBank u.myCoreKey).l1 (pa / 64)).isSome = true →
    exec (.wbl f) s = .next (s.completed 0x18E f f.len (u.flushLine u.myCoreKey (pa / 64)))) ∧
  (∀ f s u pa pg, Runs 0x18F f s → ∀ x, x = s.operands 0x18F f → Allowed x.a (x.a.cursor + f.off) 1 64 →
    s.resolve s.via ((x.a.cursor : Int) + f.off).toNat 1 .load = (.ok [⟨.mem pa pg, 1⟩], u) → u.sl.sbuf = [] →
    (u.core u.myCore).twin = none → u.cached u.myCoreKey pg = true → (look (u.coreBank u.myCoreKey).l1 (pa / 64)).isSome = true →
    exec (.invl f) s = .next (s.completed 0x18F f f.len (u.dropLine u.myCoreKey (pa / 64)))) ∧
  (∀ f, Does (.fence f) 0x1C4 f f.len (fun _ _ => f.ext = 0) fun _ s =>
    (s.releaseAt s.myCoreKey (moScopeF f) true).acquireAt s.myCoreKey (moScopeF f) true) ∧
  (∀ f, Does (.fence f) 0x1C4 f f.len (fun _ _ => f.ext = 1) fun _ s => s.acquireAt s.myCoreKey (moScopeF f)) ∧
  (∀ f, Does (.fence f) 0x1C4 f f.len (fun _ _ => f.ext = 2) fun _ s => s.releaseAt s.myCoreKey (moScopeF f)) ∧
  (∀ f, Does (.drainst f) 0x1C5 f f.len (fun _ _ => True) fun _ s => s)

/-- R272: WAITA on a word of the own scratchpad sets its predicate at once where the word differs from b, clears it where the table of
the cluster is full, and otherwise arms an entry and waits; WAITA_WAKE completes it with the predicate set. -/
def Obligations.WaitingOnAnAddress : Prop :=
  (∀ f, Does (.waita f) 0x1C6 f f.len
    (fun x s => Reaches s x.a (x.a.cursor + f.imm.toInt) 8 64 ∧ ((x.a.cursor : Int) + f.imm.toInt).toNat % 8 = 0 ∧
      s.sl.armed = none ∧ leNat (s.ownBytes ((x.a.cursor : Int) + f.imm.toInt).toNat 8) ≠ x.b.dv.toNat)
    fun _ s => s.setPred (f.d.setWidth 3) true) ∧
  (∀ f, Does (.waita f) 0x1C6 f f.len
    (fun x s => Reaches s x.a (x.a.cursor + f.imm.toInt) 8 64 ∧ ((x.a.cursor : Int) + f.imm.toInt).toNat % 8 = 0 ∧
      s.sl.armed = none ∧ leNat (s.ownBytes ((x.a.cursor : Int) + f.imm.toInt).toNat 8) = x.b.dv.toNat ∧
      32 ≤ (s.cluster s.myCluster).monitors.length)
    fun _ s => s.setPred (f.d.setWidth 3) false) ∧
  (∀ f s, Runs 0x1C6 f s → s.sl.pops 0x1C6 f = [] → ∀ x, x = s.operands 0x1C6 f →
    Reaches s x.a (x.a.cursor + f.imm.toInt) 8 64 → ((x.a.cursor : Int) + f.imm.toInt).toNat % 8 = 0 → s.sl.armed = none →
    leNat (s.ownBytes ((x.a.cursor : Int) + f.imm.toInt).toNat 8) = x.b.dv.toNat → (s.cluster s.myCluster).monitors.length < 32 →
    exec (.waita f) s = .next (((s.modCluster s.myCluster fun c => { c with monitors := c.monitors ++
      [⟨s.me, s.ownByte ((x.a.cursor : Int) + f.imm.toInt).toNat / 64, true⟩] }).modSl fun sl =>
        { sl with armed := some false }).waitsWith (.waita f))) ∧
  (∀ f s k, k = s.slotKey s.arg.a → (s.slotAt k).state = .waiting (.waita f) → (s.slotAt k).armed = some true →
    (s.slotAt k).halted = false → ∃ t, exec .waitaWake s = .next t ∧
      (t.slotAt k).pred (f.d.setWidth 3) = true ∧ (t.slotAt k).state = .ready ∧ (t.slotAt k).armed = none ∧
      (t.slotAt k).pcc = (s.slotAt k).pcc.withCursor ((s.slotAt k).pcc.cursor + f.len) ∧ (t.slotAt k).regs = (s.slotAt k).regs ∧
      (∀ m ∈ (t.cluster (clusterOf (k / 8))).monitors, m.slotKey ≠ k))

/-- R33, R228, R384, R385: the oldest store of a buffer is translated and performs: a store of one piece in the scratchpad of its core changes the
bytes it names and no other byte of memory, clears the tags of the granules it touches, or sets that of a tagged STC, and leaves the buffer. One
across two lines is two accesses, of which one may perform before the other (R213). A store whose translation faults is retained, and its record is appended with PEND set while fewer than eight are held; beyond them OVF is set;
nothing of memory changes through it. -/
def Obligations.BufferedStoresAreTranslated : Prop :=
  (∀ s k e rest va u, k = 2 * s.arg.a + s.arg.b % 2 → Translates s k e rest → (e.kind = .plain ∨ e.kind = .tagged) → 0 < e.data.length →
    s.spad.wf = true → (s.core (va / 0x18000)).twin = none →
    s.resolve (s.viaOf k) e.va e.data.length e.kind.access = (.ok [⟨.spad va, e.data.length⟩], u) →
    ∃ t, exec .storeTranslate s = .next t ∧ (t.slotAt k).sbuf = rest ∧ t.mem = u.mem ∧
      (∀ a, t.spad.get a = if va ≤ a ∧ a < va + e.data.length then (e.data[a - va]?).getD 0 else s.spad.get a) ∧
      (∀ g, va / 16 ≤ g → g ≤ (va + e.data.length - 1) / 16 → (t.spad.tag g = true ↔ e.kind = .tagged ∧ g = va / 16)) ∧
      (∀ g, g < va / 16 ∨ (va + e.data.length - 1) / 16 < g → t.spad.tag g = s.spad.tag g)) ∧
  (∀ s k e rest pa pg u, k = 2 * s.arg.a + s.arg.b % 2 → Translates s k e rest → (e.kind = .plain ∨ e.kind = .tagged) →
    0 < e.data.length → s.mem.wf = true →
    s.resolve (s.viaOf k) e.va e.data.length e.kind.access = (.ok [⟨.mem pa pg, e.data.length⟩], u) → u.mem = s.mem →
    pg.mode ≠ .so →
    pa / 64 = (pa + e.data.length - 1) / 64 → offDie (dieOf (k / 8)) pa = false → u.cached (bankKey (k / 8) (k % 2)) pg = false →
    u.keyFits (pa / 64) pg.key = true → (∀ c ∈ u.coreBanks, look c.2.l1 (pa / 64) = none) →
    ∃ t, exec .storeTranslate s = .next t ∧ (t.slotAt k).sbuf = rest ∧ t.spad = u.spad ∧
      (∀ a, t.mem.get a = if pa ≤ a ∧ a < pa + e.data.length then (e.data[a - pa]?).getD 0 else s.mem.get a) ∧
      (∀ g, pa / 16 ≤ g → g ≤ (pa + e.data.length - 1) / 16 → (t.mem.tag g = true ↔ e.kind = .tagged ∧ g = pa / 16)) ∧
      (∀ g, g < pa / 16 ∨ (pa + e.data.length - 1) / 16 < g → t.mem.tag g = s.mem.tag g)) ∧
  (∀ s k e rest a b n m u, k = 2 * s.arg.a + s.arg.b % 2 → s.arg.c % 3 = 1 → Translates s k e rest → e.kind = .plain → 0 < n → 0 < m →
    n + m = e.data.length → s.spad.wf = true → (s.core (a / 0x18000)).twin = none →
    s.resolve (s.viaOf k) e.va e.data.length .store = (.ok [⟨.spad a, n⟩, ⟨.spad b, m⟩], u) →
    ∃ t, exec .storeTranslate s = .next t ∧ t.mem = u.mem ∧
      (t.slotAt k).sbuf = { e with va := e.va + n, data := e.data.drop n, part := some ⟨.spad b, m⟩ } :: rest ∧
      ∀ i, t.spad.get i = if a ≤ i ∧ i < a + n then (e.data[i - a]?).getD 0 else s.spad.get i) ∧
  (∀ s k e rest x u, k = 2 * s.arg.a + s.arg.b % 2 → Translates s k e rest → (e.kind = .plain ∨ e.kind = .tagged) →
    s.resolve (s.viaOf k) e.va e.data.length e.kind.access = (.error x, u) →
    ∃ t, exec .storeTranslate s = .next t ∧ t.mem = u.mem ∧ t.spad = u.spad ∧
      (t.slotAt k).sbuf = { e with held := true, faulted := true } :: rest ∧
      ((u.slotAt k).stfRecs.length < 8 → (t.slotAt k).pend = true ∧
        ∃ r : Word, (t.slotAt k).stfRecs = (u.slotAt k).stfRecs ++ [r] ∧ r.extractLsb' 0 48 = BitVec.ofNat 48 e.va ∧
          r.extractLsb' 48 3 = BitVec.ofNat 3 (Nat.log2 e.data.length) ∧ r.getLsbD 51 = decide (e.kind = .tagged) ∧
          r.getLsbD 52 = decide (x = .permission) ∧ r.getLsbD 53 = decide (x = .attr) ∧ r.extractLsb' 56 8 = 0) ∧
      (8 ≤ (u.slotAt k).stfRecs.length → (t.slotAt k).ovf = true ∧ (t.slotAt k).stfRecs = (u.slotAt k).stfRecs))

namespace Sys2Proof.Machine

/-- The address of the trap record: the cursor of TRAPREC with its low six bits zero (R381). -/
def State.recordAt (s : State) : Nat := s.sl.trapRec.cursor / 64 * 64

/-- A trap of the slot can write its record: the slot is not in handler mode, the kernel has a handler, and TRAPREC names 64 bytes of the
core's own scratchpad with L, S, LC and SC; no store and no popped queue entry of the slot is outstanding (R381). -/
abbrev CanTakeTraps (s : State) : Prop :=
  s.sl.hm = false ∧ s.myHeader.handler ≠ 0 ∧ Allowed s.sl.trapRec s.recordAt 64 120 ∧ InOwnScratchpad s s.recordAt 64 ∧
    (s.coreBank s.myCoreKey).spadBase % 64 = 0 ∧ s.sl.sbuf = [] ∧ s.sl.issued = false ∧ (s.core s.myCore).twin = none

/-- Bits `lo` to `lo + n − 1` of the trap record in the scratchpad of `t`, at the byte address `a`. -/
def recordBits (t : State) (a lo n : Nat) : Nat := leNat (t.spad.bytes a 64) / 2 ^ lo % 2 ^ n

/-- `t` is `s` after its slot has taken the trap `cause` with ADDR and SWCODE (R381, R382). -/
structure TookTrap (s t : State) (cause addr swcode : Nat) : Prop where
  mode : t.sl.hm = true ∧ t.sl.state = .ready
  pcc : t.sl.pcc = s.myHeader.kcap.setCursor (BitVec.ofNat 48 (s.myHeader.base + s.myHeader.handler))
  g1 : t.reg 1 = s.sl.trapRec.setCursor (BitVec.ofNat 48 s.recordAt)
  regs : ∀ r, r ≠ 1 → t.reg r = s.reg r
  kept : t.sl.preds = s.sl.preds ∧ t.sl.qmap = s.sl.qmap ∧ t.sl.fstat = s.sl.fstat ∧ t.sl.fctl = s.sl.fctl ∧
    t.sl.shapes = s.sl.shapes ∧ t.sl.gens = s.sl.gens ∧ t.sl.trapRec = s.sl.trapRec ∧ t.sl.domains = s.sl.domains
  epcc : recordBits t (s.ownByte s.recordAt) 0 128 = s.sl.pcc.val.toNat ∧
    t.spad.tag (s.ownByte s.recordAt / 16) = s.sl.pcc.tag
  saveg1 : recordBits t (s.ownByte s.recordAt) 128 128 = (s.reg 1).val.toNat ∧
    t.spad.tag (s.ownByte s.recordAt / 16 + 1) = (s.reg 1).tag
  code : recordBits t (s.ownByte s.recordAt) 256 8 = cause
  imprec : recordBits t (s.ownByte s.recordAt) 264 1 = if cause = 0x0A then 1 else 0
  number : recordBits t (s.ownByte s.recordAt) 266 2 = s.mySlot % 4
  soft : recordBits t (s.ownByte s.recordAt) 272 16 = swcode
  address : recordBits t (s.ownByte s.recordAt) 320 64 = addr
  stfq : recordBits t (s.ownByte s.recordAt) 384 4 = s.sl.stfRecs.length ∧ recordBits t (s.ownByte s.recordAt) 394 1 = s.sl.pend.toNat
  time : recordBits t (s.ownByte s.recordAt) 448 64 = s.now.toNat
  memory : t.mem = s.mem ∧ ∀ a, a < s.ownByte s.recordAt ∨ s.ownByte s.recordAt + 64 ≤ a → t.spad.get a = s.spad.get a
  queues : ∀ k, (t.coreBank k).queues = (s.coreBank k).queues

/-- `t` is `s` after an abnormal end of its slot (R383, R480): IDLE, without stores, records or domains, its launch marked. -/
def EndedAbnormally (s t : State) : Prop :=
  t.sl.state = .idle ∧ t.sl.launch = none ∧ t.sl.sbuf = [] ∧ t.sl.stfRecs = [] ∧ t.sl.pend = false ∧ t.sl.ovf = false ∧
    (∀ l, s.sl.launch = some l → (t.entry l).abnormal = true) ∧
    ((s.die s.myDie).felling.length < 4096 → ∃ e ∈ (t.die s.myDie).felling, e.code = 1 ∧ e.time = s.now ∧ e.source = s.mySlot)

/-- CSRR of a strand CSR gives a value of the state. -/
def CsrReads (n : Nat) (v : State → Cap) : Prop :=
  ∀ f, f.imm.toNat % 4096 = n → GivesCap (.csrr f) 0x342 f f.len fun _ s => v s

/-- CSRW and CSRX of a strand CSR change the slot by the value of a, and CSRX gives the old value; a rounding mode of FCTL is one of R39's. -/
def CsrWrites (n : Nat) (e : Slot → Cap → Slot) : Prop :=
  ∀ f, f.imm.toNat % 4096 = n →
    Does (.csrw f) 0x343 f f.len (fun x _ => n = 1 → x.a.dv.toNat % 8 < 6) (fun x s => s.modSl fun sl => e sl x.a) ∧
    Does (.csrx f) 0x344 f f.len (fun x _ => n = 1 → x.a.dv.toNat % 8 < 6)
      (fun x s => (s.writeD f.d { s.csrRead n with tag := false }).modSl fun sl => e sl x.a)

end Sys2Proof.Machine

/-- R381 to R383: taking a trap writes the record, sets g1, PCC and HM as the spec says, and changes nothing else the program can see; STORE_FAULT
clears PEND once its record is written (R386). A trap in handler mode, of a kernel without handler, or with a TRAPREC that cannot hold the
record ends the strand abnormally. -/
def Obligations.TakingATrap : Prop :=
  (∀ (s : State) (cause addr : Nat) (sw : BitVec 16), CanTakeTraps s → s.spad.wf = true → cause < 256 → addr < 2 ^ 64 →
    s.sl.stfRecs.length ≤ 8 →
    TookTrap s (s.takeTrap cause addr sw) cause addr sw.toNat ∧
    (s.takeTrap cause addr sw).sl.pend = (if cause = 0x0A then false else s.sl.pend)) ∧
  (∀ (s : State) (cause addr : Nat) (sw : BitVec 16), s.sl.issued = false →
    (∀ i, i < 4 → s.sl.domains[i]? = some 0) →
    (s.sl.hm = true ∨ s.myHeader.handler = 0 ∨ s.sl.trapRec.tag = false ∨ s.sl.trapRec.perm &&& 120 ≠ 120 ∨
      s.sl.trapRec.cursor / 64 * 64 < s.sl.trapRec.base ∨ s.sl.trapRec.top < s.sl.trapRec.cursor / 64 * 64 + 64) →
    EndedAbnormally s (s.takeTrap cause addr sw))

/-- R392, R393, and R42, R53, R54, R473, R481 in part: TRAP takes SOFTWARE with its code, and has no effect where its guard is false; an encoding
that is no instruction takes ILLEGAL_INSTRUCTION, or ILLEGAL_TYPE where only its type code is refused; BRK takes BREAKPOINT with its PC or,
where BRKHALT is set, halts its cluster; ERET returns from handler mode with PCC and g1 as the record holds them, tags included, and PEND set
again where records are held, and raises ILLEGAL_INSTRUCTION outside handler mode. That a BRK which halts has completed, and that BRKHALT stands for
every cluster of the die, is the model's choice (log 22). -/
def Obligations.SoftwareTrapsAndReturns : Prop :=
  (∀ f s, Runs 0x340 f s → exec (.trap f) s = .next (s.takeTrap 0x10 0 f.imm)) ∧
  (∀ f s, s.regBad 0x340 f = false → s.guard f = false → exec (.trap f) s = .next (s.advance f.len false)) ∧
  (∀ f s, Runs 0x340 f s → CanTakeTraps s → s.spad.wf = true → s.sl.stfRecs.length ≤ 8 → s.sl.pops 0x340 f = [] →
    ∃ t, exec (.trap f) s = .next t ∧ TookTrap s t 0x10 0 f.imm.toNat) ∧
  (∀ why s, (∀ op f, why ≠ .typeCode op f) → CanTakeTraps s → s.spad.wf = true → s.sl.stfRecs.length ≤ 8 →
    ∃ t, exec (.illegalEncoding why) s = .next t ∧ TookTrap s t 0x01 0 0) ∧
  (∀ op f s, vecIll op f s = false → CanTakeTraps s → s.spad.wf = true → s.sl.stfRecs.length ≤ 8 →
    ∃ t, exec (.illegalEncoding (.typeCode op f)) s = .next t ∧ TookTrap s t 0x0C 0 0) ∧
  (∀ f s, Runs 0x383 f s → (s.csr s.myDie 0x4C4).getLsbD 11 = false → CanTakeTraps s → s.spad.wf = true → s.sl.stfRecs.length ≤ 8 →
    ∃ t, exec (.brk f) s = .next t ∧ TookTrap s t 0x11 s.sl.pcc.cursor 0) ∧
  (∀ f, Does (.brk f) 0x383 f f.len (fun _ s => (s.csr s.myDie 0x4C4).getLsbD 11 = true) fun _ s => s.haltCluster s.myCluster) ∧
  (∀ f s, Runs 0x341 f s → ∀ c, c = (s.operands 0x341 f).a → s.sl.hm = true → Allowed c c.cursor 32 80 → c.cursor % 64 = 0 →
    InOwnScratchpad s c.cursor 32 → (s.coreBank s.myCoreKey).spadBase % 64 = 0 → s.sl.sbuf = [] → (s.core s.myCore).twin = none →
    s.spadPoisoned (s.ownByte c.cursor) 32 = false → s.sl.pops 0x341 f = [] → recordBits s (s.ownByte c.cursor) 0 2 = 0 →
    ∃ t, exec (.eret f) s = .next t ∧ t.sl.hm = false ∧ t.sl.state = .ready ∧
      t.sl.pcc = ⟨BitVec.ofNat 128 (leNat (s.ownBytes c.cursor 16)), s.spad.tag (s.ownByte c.cursor / 16)⟩ ∧
      t.reg 1 = ⟨BitVec.ofNat 128 (leNat (s.ownBytes (c.cursor + 16) 16)), s.spad.tag (s.ownByte c.cursor / 16 + 1)⟩ ∧
      (∀ r, r ≠ 1 → t.reg r = s.reg r) ∧ t.sl.pend = (s.sl.pend || decide (s.sl.stfRecs ≠ [])) ∧
      t.mem = s.mem ∧ t.spad = s.spad ∧ t.sl.preds = s.sl.preds ∧ t.sl.fstat = s.sl.fstat ∧ t.sl.trapRec = s.sl.trapRec) ∧
  (∀ f s, s.sl.hm = false → exec (.eret f) s = .next (s.takeTrap 0x01 0))

/-- R37 to R40, R394: what CSRR reads of each strand CSR, and what CSRW and CSRX write of it; the tag comes with TRAPREC alone; a CSR that strands
may only read stays as it is, and CSRX gives the old value. A strand that names a CSR from 0x300 upward takes ILLEGAL_INSTRUCTION. That a write of
QMAP reads its operands under the mapping before it, and that CSRX of TRAPREC gives the old value without its tag, are the model's choices (log 20,
log 49). -/
def Obligations.StrandCsrs : Prop :=
  CsrReads 0x000 (fun s => .ofWord (s.sl.fstat.setWidth 64)) ∧ CsrReads 0x001 (fun s => .ofWord (s.sl.fctl.setWidth 64)) ∧
  CsrReads 0x002 (fun s => .ofWord (s.sl.qmap.setWidth 64)) ∧ CsrReads 0x003 (fun s => .ofWord (BitVec.ofNat 64 (s.mySlot % 4))) ∧
  CsrReads 0x004 (fun s => .ofWord (BitVec.ofNat 64 s.myCore)) ∧
  (∀ i, i < 4 → CsrReads (0x008 + i) fun s => .ofWord ((s.sl.domains[i]?.getD 0).setWidth 64)) ∧
  CsrReads 0x010 (fun s => ⟨s.sl.trapRec.val.extractLsb' 6 122 ++ (0 : BitVec 5) ++ BitVec.ofBool s.sl.hm, s.sl.trapRec.tag⟩) ∧
  CsrReads 0x012 (fun s => .ofWord (BitVec.ofNat 64 (s.sl.stfRecs.length % 16 + 16 * s.sl.ovf.toNat + 32 * (s.sl.retained % 32) +
    1024 * s.sl.pend.toNat))) ∧
  (∀ i, i < 8 → CsrReads (0x018 + i) fun s => .ofWord (s.sl.stfRecs[i]?.getD 0)) ∧
  CsrReads 0x020 (fun s => .ofWord (s.sl.seedIdx.setWidth 64)) ∧
  CsrReads 0x021 (fun s => .ofWord ((s.sl.gens[s.sl.seedIdx.toNat]?.getD 0).setWidth 64)) ∧
  CsrReads 0x030 (fun s => .ofWord s.now) ∧ CsrReads 0x040 (fun s => .ofWord (s.sl.rtgt.setWidth 64)) ∧
  CsrReads 0x041 (fun s => .ofWord s.sl.rsts) ∧ CsrReads 0x042 (fun s => .ofWord (s.sl.tclass.setWidth 64)) ∧
  CsrWrites 0x000 (fun sl v => { sl with fstat := v.dv.setWidth 6 }) ∧ CsrWrites 0x001 (fun sl v => { sl with fctl := v.dv.setWidth 4 }) ∧
  CsrWrites 0x002 (fun sl v => { sl with qmap := v.dv.setWidth 4 }) ∧
  CsrWrites 0x010 (fun sl v => { sl with trapRec := ⟨v.val.extractLsb' 6 122 ++ (0 : BitVec 6), v.tag⟩ }) ∧
  CsrWrites 0x020 (fun sl v => { sl with seedIdx := v.dv.setWidth 6 }) ∧
  CsrWrites 0x021 (fun sl v => { sl with gens := sl.gens.setIfInBounds sl.seedIdx.toNat (if low32 v = 0 then 1 else low32 v) }) ∧
  CsrWrites 0x040 (fun sl v => { sl with rtgt := v.dv.setWidth 10 }) ∧
  CsrWrites 0x041 (fun sl v => { sl with rsts := sl.rsts &&& ~~~(v.dv &&& 3) }) ∧
  CsrWrites 0x042 (fun sl v => { sl with tclass := v.dv.setWidth 2 }) ∧
  (∀ n, n ∈ [0x003, 0x004, 0x008, 0x009, 0x00A, 0x00B, 0x012, 0x030] ∨ (0x018 ≤ n ∧ n ≤ 0x01F) → CsrWrites n fun sl _ => sl) ∧
  (∀ (f : MForm) (s : State), 0x300 ≤ f.imm.toNat % 4096 →
    exec (.csrr f) s = .next (s.takeTrap 0x01 0) ∧ exec (.csrw f) s = .next (s.takeTrap 0x01 0) ∧
    exec (.csrx f) s = .next (s.takeTrap 0x01 0))

/-- R386, R395: STORE_FAULT is taken at an instruction boundary outside handler mode with PEND set, and never in handler mode. With nothing
retained STRETRY and STDROP have no effect; STDROP discards every retained store with the records; STRETRY translates a retained store again,
which performs where it passes and follows no RED that is on its way (R229). -/
def Obligations.StoreFaultsAndRetainedStores : Prop :=
  (∀ s k, k = s.slotKey s.arg.a → (s.slotAt k).pend = true → (s.slotAt k).hm = false → (s.slotAt k).halted = false →
    (s.core (k / 8)).stopped = false → (s.slotAt k).state = .ready →
    ∃ u, u = ({ s with cur := .slot k } : State) ∧ exec .storeFaultTrap s = .next (u.takeTrap 0x0A
      (((s.slotAt k).stfRecs.head?.map fun r => (r.extractLsb' 0 48).toNat).getD 0))) ∧
  (∀ s, (s.slotAt (s.slotKey s.arg.a)).hm = true → exec .storeFaultTrap s = .next s) ∧
  (∀ f, Does (.stretry f) 0x345 f f.len (fun _ s => s.sl.retained = 0 ∧ s.sl.acked = false) fun _ s => s) ∧
  (∀ f s e va, Runs 0x345 f s → s.sl.sbuf = [e] → e.held = true → s.sl.acked = false → e.kind = .plain → 0 < e.data.length →
    (s.core s.myCore).stopped = false → (s.core s.myCore).twin = none → (s.core (va / 0x18000)).twin = none → s.spad.wf = true →
    s.resolve s.via e.va e.data.length .store = (.ok [⟨.spad va, e.data.length⟩], s) → e.part = none → s.redOut s.me = false →
    ∃ t, exec (.stretry f) s = .next (s.completed 0x345 f f.len t) ∧ t.sl.sbuf = [] ∧ t.sl.stfRecs = [] ∧ t.sl.ovf = false ∧
      t.sl.pend = false ∧ t.mem = s.mem ∧
      ∀ a, t.spad.get a = if va ≤ a ∧ a < va + e.data.length then (e.data[a - va]?).getD 0 else s.spad.get a) ∧
  (∀ f, Does (.stdrop f) 0x346 f f.len (fun _ s => s.sl.retained = 0) fun _ s => s) ∧
  (∀ f, Does (.stdrop f) 0x346 f f.len (fun _ s => s.sl.retained ≠ 0) fun _ s =>
    s.modSl fun sl => { sl with sbuf := [], stfRecs := [], ovf := false, pend := false })

/-- R117, R397: SEEDW derives the 64 generators of the slot from its base, SEEDR reads one and steps none. -/
def Obligations.GeneratorsAreSeededAndRead : Prop :=
  (∀ f s, Runs 0x348 f s → ∃ g : Vector (BitVec 32) 64,
    exec (.seedw f) s = .next (s.completed 0x348 f f.len (s.modSl fun sl => { sl with gens := g })) ∧
    ∀ i, i < 64 →
      let b : BitVec 32 := low32 (s.operands 0x348 f).a ^^^ BitVec.ofNat 32 (0x9E3779B9 * (i + 1))
      g[i]? = some (Nat.repeat genStep 8 (if b = 0 then 1 else b))) ∧
  (∀ f, f.imm.toNat < 64 → Gives (.seedr f) 0x349 f f.len fun _ s => (s.sl.gens[f.imm.toNat]?.getD 0).setWidth 64)

/-- R396, R398, R474, R476, R481: KILLDOM of a domain with no other member ends its own strand abnormally and discards its records; a handle of
kind 0 raises ILLEGAL_INSTRUCTION. Once no vector instruction of the partition within its reach is between its translation and its end (R125),
TLBINV removes the partition's entries that it names from every TLB within its reach, and no entry of another partition. TSREAD and PERFRD read the timestamp and a counter; TRACEV and LOGMARK write nothing where the cruise log of their die is
off, and count their words where it is on. -/
def Obligations.DomainKillsTlbAndDebugInstructions : Prop :=
  (∀ f s k, Runs 0x347 f s → k = f.ext.toNat → k < 4 → ∀ h, s.sl.domains[k]? = some h → hKind h ≠ 0 → s.sl.issued = false →
    s.sl.launch = some s.myLaunch →
    (∀ j, j ≠ s.me → (s.slotAt j).state = .idle ∨ (s.slotAt j).launch ≠ some s.myLaunch ∨ holdsDom (s.slotAt j).domains h = false) →
    (∀ v ∈ s.saved, ∀ p ∈ v.slots, p.2.state = .idle ∨ p.2.launch ≠ some s.myLaunch ∨ holdsDom p.2.domains h = false) →
    ∃ t, exec (.killdom f) s = .next t ∧ EndedAbnormally s t ∧
      (∀ c, ∀ p ∈ (t.cluster c).parked, p ∈ (s.cluster c).parked ∧ ¬(p.launch = s.myLaunch ∧ recHolds p.record h = true))) ∧
  (∀ f s, hKind (domOf s f.ext) = 0 → exec (.killdom f) s = .next (s.takeTrap 0x01 0)) ∧
  (∀ f s, Runs 0x34A f s → f.typ.toNat < 4 → f.ext.toNat < 2 → s.vectorRuns f.typ.toNat = false →
    ∃ t, exec (.tlbinv f) s = .next (s.completed 0x34A f f.len t) ∧
      (∀ e ∈ (t.cluster s.myCluster).tlb, ¬(e.part = s.myPart ∧ (f.ext = 1 ∨ e.covers s.myPart (s.operands 0x34A f).a.cursor = true))) ∧
      (2 ≤ f.typ.toNat → ∀ e ∈ (t.die s.myDie).tlb,
        ¬(e.part = s.myPart ∧ (f.ext = 1 ∨ e.covers s.myPart (s.operands 0x34A f).a.cursor = true))) ∧
      (f.typ.toNat = 3 → ∀ c, ∀ e ∈ (t.cluster c).tlb,
        ¬(e.part = s.myPart ∧ (f.ext = 1 ∨ e.covers s.myPart (s.operands 0x34A f).a.cursor = true))) ∧
      (∀ c, ∀ e ∈ (s.cluster c).tlb, e.part ≠ s.myPart → e ∈ (t.cluster c).tlb)) ∧
  (∀ f, Gives (.tsread f) 0x380 f f.len fun _ s => s.now) ∧
  (∀ f, Gives (.perfrd f) 0x381 f f.len fun x s => (s.counter (x.a.dv.toNat % 1024)).setWidth 64) ∧
  (∀ f, Does (.tracev f) 0x382 f f.len (fun _ s => (s.csr s.myDie 0x4CA).getLsbD 0 = false) fun _ s => s) ∧
  (∀ f, Does (.logmark f) 0x384 f f.len (fun _ s => (s.csr s.myDie 0x4CA).getLsbD 0 = false) fun _ s => s) ∧
  (∀ f s, Runs 0x382 f s → (s.csr s.myDie 0x4CA).getLsbD 0 = true → (s.now - (s.core s.myCore).cruiseAt).toNat ≤ 0xFFFE →
    ∃ t, exec (.tracev f) s = .next (s.completed 0x382 f f.len t) ∧ (t.core s.myCore).cruisePos = (s.core s.myCore).cruisePos + 3 ∧
      (t.core s.myCore).cruiseAt = s.now ∧ t.sl.regs = s.sl.regs) ∧
  (∀ f s, Runs 0x384 f s → (s.csr s.myDie 0x4CA).getLsbD 0 = true → (s.now - (s.core s.myCore).cruiseAt).toNat ≤ 0xFFFE →
    ∃ t, exec (.logmark f) s = .next (s.completed 0x384 f f.len t) ∧ (t.core s.myCore).cruisePos = (s.core s.myCore).cruisePos + 1 ∧
      (t.core s.myCore).cruiseAt = s.now ∧ t.sl.regs = s.sl.regs)

namespace Sys2Proof.Machine

/-- The state in which the slot `k` of `core` takes the issue cycle of `s`, the round robin at it. -/
def State.turnTo (s : State) (core k : Nat) (groups : Option Nat) : State :=
  { s.modCore core fun c => { c with lastSlot := k / 2 % 4 } with cur := .slot k, groups := groups }

/-- The words at `pc` of a kernel of `s`, each at its home. -/
def State.codeAt (s : State) (pg : Page) (pa n : Nat) : List (BitVec 32) :=
  (List.range n).map fun j => BitVec.ofNat 32 (leNat (s.homeBytes pg.key (pa + 4 * j) 4))

/-- The `n` words at `pc` lie at `pa`: their page is in the TLB, their home is up, and no copy, partial value, replaced word or poison stands
beside the bytes at the home. -/
abbrev PlainCode (s : State) (pc pa n : Nat) (pg : Page) : Prop :=
  ∀ j, j < n →
    regionOf (pc + 4 * j) = .memory ∧ s.translate s.via (pc + 4 * j) .fetch = (.ok (pa + 4 * j, pg), s) ∧
    s.homeUp s.myDie (pa + 4 * j) = true ∧ s.combine ((pa + 4 * j) / 64) = s ∧
    look (s.coreBank s.myCoreKey).l1 ((pa + 4 * j) / 64) = none ∧ look s.oldCode ((pa + 4 * j) / 4) = none ∧
    s.mem.poison.contains ((pa + 4 * j) / 64) = false

/-- Opcodes of classes 0x0 to 0x5 that act on registers, predicates, queues and PCC alone. -/
def registerOnly (op : Nat) : Bool := op / 64 ∈ [0, 1, 2, 3, 4, 5]

/-- The registers that an opcode of those classes may change: d, and g1 for a call. -/
def mayWrite (op : Nat) (f : MForm) (r : BitVec 5) : Bool :=
  (r = f.d && (rolesOf op f).d ∈ [.dst, .rw]) || (r = 1 && op ∈ [0x102, 0x103])

/-- What no instruction of those classes changes. -/
structure RegisterFrame (op : Nat) (f : MForm) (s t : State) : Prop where
  regs : ∀ r, mayWrite op f r = false → t.reg r = s.reg r
  preds : (rolesOf op f).d ≠ .pred → op ≠ 0x0C7 → t.sl.preds = s.sl.preds
  pred : op ≠ 0x0C7 → ∀ k, k < 8 → k ≠ (f.d.setWidth 3 : BitVec 3).toNat → t.sl.preds.getLsbD k = s.sl.preds.getLsbD k
  flags : t.sl.fstat &&& s.sl.fstat = s.sl.fstat
  integerFlags : op / 64 ∈ [0, 2] → t.sl.fstat = s.sl.fstat
  special : t.sl.hm = s.sl.hm ∧ t.sl.fctl = s.sl.fctl ∧ t.sl.qmap = s.sl.qmap ∧ t.sl.domains = s.sl.domains ∧
    t.sl.trapRec = s.sl.trapRec ∧ t.sl.seedIdx = s.sl.seedIdx ∧ t.sl.rtgt = s.sl.rtgt ∧ t.sl.rsts = s.sl.rsts ∧
    t.sl.tclass = s.sl.tclass ∧ t.sl.shapes = s.sl.shapes
  generators : op / 64 ≠ 5 → t.sl.gens = s.sl.gens
  laterGenerators : ∀ i, 1 ≤ i → t.sl.gens[i]? = s.sl.gens[i]?
  stores : t.sl.sbuf = s.sl.sbuf ∧ t.sl.stfRecs = s.sl.stfRecs ∧ t.sl.ovf = s.sl.ovf ∧ t.sl.pend = s.sl.pend
  memory : t.mem = s.mem ∧ t.spad = s.spad ∧ t.lineMeta = s.lineMeta
  others : ∀ k, k ≠ s.me → t.slotAt k = s.slotAt k
  banks : (∀ k, k ≠ s.myCoreKey → t.coreBank k = s.coreBank k) ∧
    ({ t.coreBank s.myCoreKey with queues := (s.coreBank s.myCoreKey).queues } : CoreBank) = s.coreBank s.myCoreKey
  units : t.clusters = s.clusters ∧ t.dies = s.dies ∧ t.partitions = s.partitions ∧ t.net = s.net ∧ t.requesters = s.requesters ∧
    t.cores = s.cores ∧ t.quads = s.quads

/-- The canonical form of every byte store of the state. -/
def State.memoriesWf (s : State) : Bool := s.mem.wf && s.spad.wf

end Sys2Proof.Machine

/-- R43 to R51: words written from the encoding tables decode to the instructions they stand for; those that no row gives are rejected by
name. -/
def Obligations.WordsDecode : Prop :=
  decode (wordBytes [0x08025230]) = .ok (.cincS 9 9 8) 4 ∧
  decode (wordBytes [0x0229042C]) = .ok (.cmpS 2 4 5 2) 4 ∧
  decode (wordBytes [0x0148C038]) = .ok (.stDwordS 3 9 1) 4 ∧
  decode (wordBytes [0x00000D01, 0x00070000]) = .ok (.trap ⟨0, 0, 0, 0, 0, 7, false, false, false, 0, none⟩) 8 ∧
  decode (wordBytes [0x00029609, 0x00000000]) = .ok (.ldc ⟨0, 0, 1, 9, 0, 0, false, false, false, 0, none⟩) 8 ∧
  decode (wordBytes [0x124A8705, 0x00402700]) = .ok (.cas ⟨2, 9, 5, 8, 0x27, 64, false, false, false, 0, none⟩) 8 ∧
  decode (wordBytes [0x4812850E, 0x00000002, 0x3FC00000]) =
    .ok (.ffma ⟨9, 0, 9, 8, 0, 0, false, false, false, 2, some 0x3FC00000⟩) 12 ∧
  decode (wordBytes [0x000000FC]) = .reject .sOpcode 4 ∧
  decode (wordBytes [0x00000003]) = .reject .lengthCode 4 ∧
  decode (wordBytes [0x00000F01, 0x00000000]) = .reject .opcode 8

/-- Decode and encode agree: the words of every well-formed strand instruction, whatever follows them, decode to it, with every operand at every
value that the encoding admits. -/
def Obligations.EncodedInstructionsDecodeToThemselves : Prop :=
  ∀ (i : Instr) (ws : List (BitVec 32)) (tail : List Byte), WellFormed i → encode i = some ws →
    decode (wordBytes ws ++ tail) = .ok i (4 * ws.length)

/-- Nothing else decodes: what the decoder accepts is a well-formed instruction, and the bytes it read are the words of that instruction, so
that no two sequences of words stand for one instruction. -/
def Obligations.DecodedBytesAreTheEncoding : Prop :=
  ∀ (bs : List Byte) (i : Instr) (len : Nat), decode bs = .ok i len →
    WellFormed i ∧ ∃ ws, encode i = some ws ∧ len = 4 * ws.length ∧ bs.take len = wordBytes ws

/-- R36, R43, R153, R154, R217: a step of a core runs, in the slot whose turn it is, the instruction that the bytes at its PC decode to; bytes
that are no instruction run as the illegal encoding, poisoned bytes stop the core. A step of an event or of an engine runs that event or the
command of the record. The fetch reads the words at the cursor of PCC: where the words of an instruction lie in the bounds of a PCC with
permission X, it fetches exactly them and changes nothing. -/
def Obligations.AStepRunsTheDecodedInstruction : Prop :=
  (∀ (s t u v w : State) (dt core k : Nat) (groups : Option Nat) (ws : List (BitVec 32)) (poison : Bool),
    s.nextTurn = (⟨dt, .issue core groups⟩, t) → t.powered = true → (t.clock dt).mayIssue core = true →
    ((t.clock dt).startSlots core).chooseSlot core = some (k, v) → u = v.turnTo core k groups →
    u.boundary = none → u.pcBp = none → u.fetch = (.ok (ws, poison), w) →
    (∀ i len, poison = false → decode (wordBytes ws) = .ok i len →
      step s = exec i (w.countIssue w.myCore w.mySlot).swapEnds) ∧
    (∀ r len, poison = false → decode (wordBytes ws) = .reject r len →
      step s = exec (.illegalEncoding r) (w.countIssue w.myCore w.mySlot).swapEnds) ∧
    (poison = true → step s = .next (w.coreStop w.myCore))) ∧
  (∀ (s t : State) (dt : Nat) (i : Instr) (arg : Arg), s.nextTurn = (⟨dt, .event i arg⟩, t) → t.powered = true → i.isEvent = true →
    step s = exec i { t.clock dt with arg := arg }) ∧
  (∀ (s t : State) (dt : Nat) (c : Cur) (j : Job) (i : Instr), s.nextTurn = (⟨dt, .engine c⟩, t) → t.powered = true →
    (t.clock dt).jobAt c = some j → decodeRecord j.record = some i → step s = exec i { t.clock dt with cur := c }) ∧
  (∀ (s : State) (pa n : Nat) (pg : Page) (ws : List (BitVec 32)) (i : Instr), 1 ≤ n → n ≤ 3 →
    Allowed s.sl.pcc s.sl.pcc.cursor (4 * n) 4 → PlainCode s s.sl.pcc.cursor pa n pg → ws = s.codeAt pg pa n →
    decode (wordBytes ws) = .ok i (4 * n) → s.fetch = (.ok (ws, false), s))

/-- The memories of the machine after reset are in canonical form. The form is the model's own. -/
def Obligations.ResetMemoryIsCanonical : Prop := State.reset.memoriesWf = true

/-- Every step keeps the canonical form of global memory and of the scratchpads: addresses strictly rising, and no entry equal to what an unlisted byte
reads as. -/
def Obligations.EveryStepKeepsMemoryCanonical : Prop :=
  ∀ s t : State, s.memoriesWf = true → step s = .next t → t.memoriesWf = true

/-- R66, and R20, R28, R38: an instruction of classes 0x0 to 0x5 that performs and takes no trap changes its destination, the flags it sets, the queues
and PCC, and nothing else: no other register, no memory, no other slot and no unit. -/
def Obligations.RegisterInstructionsChangeNothingElse : Prop :=
  ∀ (i : Instr) (op : Nat) (f : MForm) (s : State), i.form = some (op, f) → registerOnly op = true → Runs op f s → s.sl.issued = false →
    ∃ t, exec i s = .next t ∧ ((∃ cause addr, t = s.takeTrap cause addr) ∨ RegisterFrame op f s t)

/-- R19, R20, R22, R25, R28, R42: a result written to a register replaces it, with the upper bits and the tag cleared for a 64-bit result; g0
discards it; a destination that names an enabled queue pushes it instead, and no register changes; p0 stays true. An M or L form whose guard
is false moves the PC past itself and does nothing else; one that names a register beyond the count of the kernel raises ILLEGAL_REGISTER,
whatever its guard. The forms named are those of classes 0x0 to 0x5 without checks of their own. -/
def Obligations.ResultsGuardsAndRegisterChecks : Prop :=
  (∀ (s : State) (d : BitVec 5) (c : Cap), s.sl.isQueue d = false → d ≠ 0 →
    (s.writeD d c).reg d = c ∧ ∀ r, r ≠ d → (s.writeD d c).reg r = s.reg r) ∧
  (∀ (s : State) (c : Cap) (r : BitVec 5), (s.writeD 0 c).reg r = s.reg r ∧ s.reg 0 = ⟨0, false⟩) ∧
  (∀ (s : State) (d : BitVec 5) (w : Word), s.writeData d w = s.writeD d ⟨w.setWidth 128, false⟩) ∧
  (∀ (s : State) (d : BitVec 5) (c : Cap), s.sl.isQueue d = true → (∀ e ∈ s.queue s.myCoreKey (d.toNat - 28), e.owner ≠ some s.me) →
    (s.writeD d c).queue s.myCoreKey (d.toNat - 28) = s.queue s.myCoreKey (d.toNat - 28) ++ [⟨c, none, false⟩] ∧
    (∀ q, q < 4 → q ≠ d.toNat - 28 → (s.writeD d c).queue s.myCoreKey q = s.queue s.myCoreKey q) ∧
    ∀ r, (s.writeD d c).reg r = s.reg r) ∧
  (∀ (s : State) (k j : BitVec 3) (v : Bool), (s.setPred k v).sl.pred j = if j = k ∧ k ≠ 0 then v else s.sl.pred j) ∧
  (∀ (i : Instr) (op : Nat) (f : MForm) (s : State), i.form = some (op, f) → registerOnly op = true →
    (s.regBad op f = true → exec i s = .next (s.takeTrap 0x02 0)) ∧
    (s.regBad op f = false → s.guard f = false → exec i s = .next (s.advance f.len false)))

/-- No instruction, command or event stops the machine: strands trap, commands fail and events that do not apply change nothing. Only a package
without power stops (R489). That every instruction has an effect in every state is the model's reading (log 17). -/
def Obligations.NothingStopsThePoweredMachine : Prop :=
  (∀ i s, ∃ t, exec i s = .next t) ∧
  (∀ s, (∃ t, step s = .next t) ∨ (step s = .fault .poweredOff ∧ s.nextTurn.2.powered = false ∧ s.nextTurn.1.needsPower = true))

namespace Sys2Proof.Machine

/-- The bytes that a stream without gaps takes: its elements or blocks, and for blocks the scale bytes (R122, R123, R125). -/
def Shape.spans (sh : Shape) (c : Cap) : List (Nat × Nat) :=
  if isBlock sh.typ then [(c.cursor, sh.count / 32 * blockBytes sh.typ), (c.cursor + sh.scaleOff, sh.count / 32)]
  else [(c.cursor, sh.count * elemBytes sh.typ)]

/-- A stream of any type that stands without gaps in the core's own scratchpad, in one row or in rows one after another; its capability admits
all its bytes, no breakpoint names them, and none is poisoned. -/
structure StreamHere (s : State) (c : Cap) (sh : Shape) (perm : BitVec 7) : Prop where
  some : 0 < sh.count
  dense : if isBlock sh.typ then sh.rank = 1 ∨ (sh.rank = 2 ∧ sh.stride.getD 1 0 = (sh.row / 32 * blockBytes sh.typ : Nat))
    else c.cursor % elemBytes sh.typ = 0 ∧ sh.stride.getD 0 0 = elemBytes sh.typ ∧
      (sh.rank = 1 ∨ (sh.rank = 2 ∧ sh.stride.getD 1 0 = (sh.row * elemBytes sh.typ : Nat)))
  allowed : ∀ r ∈ sh.spans c, Allowed c r.1 r.2 perm
  here : ∀ r ∈ sh.spans c, 0xFF0000000000 ≤ r.1 ∧ r.1 + r.2 ≤ 0xFF0000000000 + (s.coreBank s.myCoreKey).spad
  clear : ∀ r ∈ sh.spans c, s.dataBp r.1 r.2 = none ∧ s.spadPoisoned (s.ownByte r.1) r.2 = false

/-- A destination: its scale bytes, if it has any, stand after its blocks. -/
structure TargetHere (s : State) (c : Cap) (sh : Shape) (perm : BitVec 7) : Prop extends StreamHere s c sh perm where
  parted : isBlock sh.typ = true → sh.count / 32 * blockBytes sh.typ ≤ sh.scaleOff

/-- Two streams have no byte in common, or are one walk (R131). -/
abbrev Apart (c : Cap) (sh : Shape) (c' : Cap) (sh' : Shape) : Prop :=
  ∀ r ∈ sh.spans c, ∀ q ∈ sh'.spans c', r.1 + r.2 ≤ q.1 ∨ q.1 + q.2 ≤ r.1
abbrev ApartOrSame (c : Cap) (sh : Shape) (c' : Cap) (sh' : Shape) : Prop :=
  Apart c sh c' sh' ∨ (c.cursor = c'.cursor ∧ sh.typ = sh'.typ ∧ sh.count = sh'.count ∧ (isBlock sh.typ = true → sh.scaleOff = sh'.scaleOff))

/-- A vector instruction performs from its first element to its last: its shapes pass the checks of R121, R124 and R101, no store of the slot
is buffered, no halt arrives, and it has not begun before; its core has its scratchpad and is no twin, and no other slot of the core has a
vector instruction in the unit (R130). -/
structure VectorReady (s : State) (op : Nat) (f : MForm) : Prop where
  runs : Runs op f s
  shapes : vecIll op f s = false ∧ vecTyp op f s = false
  fresh : s.spad.wf = true ∧ s.sl.sbuf = [] ∧ s.sl.vecDone = 0 ∧ s.sl.vecFlags = 0 ∧ s.sl.vecAcc = [] ∧ s.groups = none
  core : (s.coreBank s.myCoreKey).spad ≤ 0x18000 ∧ (s.coreBank s.myCoreKey).launch ≠ none ∧
    (s.core s.myCore).stopped = false ∧ (s.core s.myCore).twin = none
  unit : ∀ k, k ≠ s.me → k / 8 = s.myCore → (s.slotAt k).vecTurn = none

/-- Block `B` of a stream of blocks: its bytes as a number, and its scale byte. -/
def State.blockAt (s : State) (c : Cap) (sh : Shape) (B : Nat) : Nat × Nat :=
  (leNat (s.ownBytes (c.cursor + B * blockBytes sh.typ) (blockBytes sh.typ)), leNat (s.ownBytes (c.cursor + sh.scaleOff + B) 1))

/-- The element of index `j` of a stream; a stream of one element that is no block gives it at every index (R102, R103, R124). -/
def State.element (s : State) (c : Cap) (sh : Shape) (j : Nat) : Elem :=
  if isBlock sh.typ then
    elemOf sh.typ ((s.blockAt c sh (j / 32)).1 / 2 ^ (elemBits sh.typ * (j % 32)) % 2 ^ elemBits sh.typ) (s.blockAt c sh (j / 32)).2
  else elemOf sh.typ (leNat (s.ownBytes (c.cursor + (if sh.count = 1 then 0 else j) * elemBytes sh.typ) (elemBytes sh.typ))) 127

/-- The state of generator `j mod 64` at the rounding of element `j`, where the elements that `steps` names step theirs in order (R116). -/
def State.genAt (s : State) (steps : Nat → Bool) (j : Nat) : BitVec 32 :=
  Nat.repeat genStep ((List.range (j + 1)).countP fun i => i % 64 = j % 64 && steps i) (s.sl.gens[j % 64]?.getD 0)

/-- The rounding of element `j`: the mode and the saturation that R83 selects, and under SR the generator of the element. `lsb` is the weight of
the last bit of a converted source (R105). -/
def State.rndAt (s : State) (f : MForm) (steps : Nat → Bool) (j : Nat) (lsb : Option Int) : Rnd :=
  if s.roundMode f.ext = 5 then ⟨5, s.roundSat f.ext, s.genAt steps j, lsb⟩ else ⟨s.roundMode f.ext, s.roundSat f.ext, 0, lsb⟩
abbrev State.rndOf (s : State) (f : MForm) (j : Nat) (lsb : Option Int) : Rnd := s.rndAt f (fun _ => true) j lsb

/-- What a vector instruction leaves besides its results: each of `n` elements that `steps` names has stepped its generator once, and no byte
outside `spans`, no global memory, no register, no predicate and no shape has changed. -/
structure VectorFrame (s u : State) (spans : List (Nat × Nat)) (steps : Nat → Bool) (n : Nat) : Prop where
  gens : ∀ i, i < 64 → u.sl.gens[i]? = some (Nat.repeat genStep ((List.range n).countP fun j => j % 64 = i && steps j) (s.sl.gens[i]?.getD 0))
  spad : ∀ a, (∀ r ∈ spans, a < s.ownByte r.1 ∨ s.ownByte r.1 + r.2 ≤ a) → u.spad.get a = s.spad.get a
  kept : u.mem = s.mem ∧ u.sl.regs = s.sl.regs ∧ u.sl.preds = s.sl.preds ∧ u.sl.shapes = s.sl.shapes ∧ u.sl.pcc = s.sl.pcc ∧
    u.sl.fctl = s.sl.fctl

/-- The bytes of a destination of whole elements: element `j` holds the code `r j`. -/
abbrev CodesAt (s u : State) (c : Cap) (sh : Shape) (r : Nat → Nat) : Prop :=
  ∀ j, j < sh.count → u.spad.bytes (s.ownByte (c.cursor + j * elemBytes sh.typ)) (elemBytes sh.typ) = leBytes (elemBytes sh.typ) (r j)

/-- The bytes of a destination of blocks: block `B` has the scale byte and the codes of `r B` (R102, R123). -/
abbrev BlocksAt (s u : State) (c : Cap) (sh : Shape) (r : Nat → Nat × List Nat) : Prop :=
  ∀ B, B < sh.count / 32 → u.spad.get (s.ownByte (c.cursor + sh.scaleOff + B)) = some (BitVec.ofNat 8 (r B).1) ∧
    (List.range 32).map (blockCode sh.typ (leNat (u.spad.bytes (s.ownByte (c.cursor + B * blockBytes sh.typ)) (blockBytes sh.typ)))) = (r B).2

/-- The vector instruction has performed: element `j` of the destination holds the code of `r j`, and the flags of all are set. -/
def VectorWrote (s t : State) (op : Nat) (f : MForm) (c : Cap) (sh : Shape) (steps : Nat → Bool) (r : Nat → Nat × Flags) : Prop :=
  ∃ u, t = s.completed op f f.len u ∧ CodesAt s u c sh (fun j => (r j).1) ∧ VectorFrame s u (sh.spans c) steps sh.count ∧
    u.sl.fstat = (List.range sh.count).foldl (fun fl j => fl ||| (r j).2) s.sl.fstat

/-- As `VectorWrote`, for a destination of blocks: `r` gives the scale byte, the codes and the flags of each. -/
def BlocksWrote (s t : State) (op : Nat) (f : MForm) (c : Cap) (sh : Shape) (steps : Nat → Bool) (r : Nat → Nat × List Nat × Flags) : Prop :=
  ∃ u, t = s.completed op f f.len u ∧ BlocksAt s u c sh (fun B => ((r B).1, (r B).2.1)) ∧ VectorFrame s u (sh.spans c) steps sh.count ∧
    u.sl.fstat = (List.range (sh.count / 32)).foldl (fun fl B => fl ||| (r B).2.2) s.sl.fstat

/-- A value that an element is computed to: exact, with the weight of the last bit of a converted source, and the flags of its computation. -/
abbrev Value := Num × Option Int × Flags

/-- Block `B` of the values `v`, quantised (R104): scale byte, codes and flags. -/
def quantised (t : Nat) (q : Nat → Option Int → Rnd) (v : Nat → Value) (B : Nat) : Nat × List Nat × Flags :=
  let k := quantiseBlock t ((List.range 32).map fun i => ((v (32 * B + i)).1, q (32 * B + i) (v (32 * B + i)).2.1))
  (k.1, k.2.1, (List.range 32).foldl (fun fl i => fl ||| (v (32 * B + i)).2.2) k.2.2)

/-- A value rounded to a type of whole elements (R105 to R109); SCALE8 ignores the mode. -/
def roundedTo (t : Nat) (q : Option Int → Rnd) (v : Value) : Nat × Flags :=
  let p := convertElem t (if t = 0x30 then {} else q v.2.1) false v.1
  (p.1, v.2.2 ||| p.2)

/-- The values `v`, written to a destination of blocks or of whole elements. -/
def ValuesWrote (s t : State) (op : Nat) (f : MForm) (c : Cap) (sh : Shape) (steps : Nat → Bool) (q : Nat → Option Int → Rnd)
    (v : Nat → Value) : Prop :=
  if isBlock sh.typ then BlocksWrote s t op f c sh steps (quantised sh.typ q v)
  else VectorWrote s t op f c sh steps fun j => roundedTo sh.typ (q j) (v j)

/-- The elements `g`, copied with their scale bytes; `fl` are the flags of each. -/
def ElementsWrote (s t : State) (op : Nat) (f : MForm) (c : Cap) (sh : Shape) (g : Nat → Elem) (fl : Nat → Flags) : Prop :=
  if isBlock sh.typ then BlocksWrote s t op f c sh (fun _ => false) fun B =>
    ((g (32 * B)).scale, (List.range 32).map fun i => (g (32 * B + i)).code, (List.range 32).foldl (fun a i => a ||| fl (32 * B + i)) 0)
  else VectorWrote s t op f c sh (fun _ => false) fun j => ((g j).code, fl j)

/-- As an element of the scalar of SB (R136). -/
def scalarElem (f : MForm) (x : Opnds) : Elem := ⟨0, 127, if isInt f.typ.toNat then .ofInt (intOf f.typ.toNat x.b.dv.toNat) else of32 (fpArg x.b)⟩

/-- The element-wise instruction of opcode `op` performs over streams of its own scratchpad. `two` says that it has a source b, `old` that it
reads its destination. -/
structure Elementary (s : State) (op : Nat) (f : MForm) (two old : Bool) (x : Opnds) : Prop where
  ready : VectorReady s op f
  ops : x = s.operands op f
  a : StreamHere s x.a (vecA s f) 64 ∧ ApartOrSame x.a (vecA s f) x.d (vecD s f)
  b : (two && !vecSB f) = true → StreamHere s x.b (vecB s f) 64 ∧ ApartOrSame x.b (vecB s f) x.d (vecD s f)
  d : TargetHere s x.d (vecD s f) (if old then 96 else 32)

/-- The function `val` of the elements `j` of a, of b (or the scalar of SB) and of the old destination. -/
def ofElements {α : Type} (s : State) (f : MForm) (two : Bool) (x : Opnds) (val : State → Opnds → Nat → Elem → Elem → Elem → α) (j : Nat) : α :=
  val s x j (s.element x.a (vecA s f) j) (if two && !vecSB f then s.element x.b (vecB s f) j else scalarElem f x) (s.element x.d (vecD s f) j)

/-- In every state in which the element-wise instruction `i` performs with a destination of whole elements, it completes, and element `j` of its
destination is `val` of the elements. `rounds` says that it rounds: under SR each element then steps its generator once. -/
def Elementwise (i : Instr) (op : Nat) (f : MForm) (two old rounds : Bool) (val : State → Opnds → Nat → Elem → Elem → Elem → Nat × Flags) : Prop :=
  ∀ s x, Elementary s op f two old x → isBlock (vecD s f).typ = false →
    ∃ t, exec i s = .next t ∧ VectorWrote s t op f x.d (vecD s f) (fun _ => rounds && s.roundMode f.ext = 5) (ofElements s f two x val)

/-- As `Elementwise`, with a destination of blocks: the values are quantised block by block (R104, R136). -/
def Blockwise (i : Instr) (op : Nat) (f : MForm) (two old : Bool) (val : State → Opnds → Nat → Elem → Elem → Elem → Value) : Prop :=
  ∀ s x, Elementary s op f two old x → isBlock (vecD s f).typ = true →
    ∃ t, exec i s = .next t ∧ BlocksWrote s t op f x.d (vecD s f) (fun _ => s.roundMode f.ext = 5)
      (quantised (vecD s f).typ (s.rndOf f) (ofElements s f two x val))

/-- An integer result of type `t`: modulo 2^w, or under saturation the nearest bound with SA (R136). -/
def integerResult (t : Nat) (sat : Bool) (v : Int) : Nat × Flags :=
  if sat && decide (v < intMin t) then (intCode t (intMin t), SA)
  else if sat && decide (intMax t < v) then (intCode t (intMax t), SA)
  else (intCode t v, 0)

/-- A floating result written as type `t` (R105, R106). -/
def floatResult (t : Nat) (q : Rnd) (r : Num × Flags) : Nat × Flags :=
  let p := roundF (fmtOf t) q r.1
  (p.1, r.2 ||| p.2)

/-- An operation of R137: integers exactly by `h`, wrapped or saturated; floating operands by `g`, rounded once; blocks by `g`, quantised. -/
def Arithmetic (i : Instr) (op : Nat) (f : MForm) (old : Bool) (h : Int → Int → Int → Int × Flags)
    (g : Nat → Num → Num → Num → Num × Flags) : Prop :=
  Elementwise i op f true old (!isInt f.typ.toNat) (fun s _ j a b d =>
    if isInt f.typ.toNat then
      let p := h a.val.toInt b.val.toInt d.val.toInt
      let q := integerResult f.typ.toNat (s.roundSat f.ext) p.1
      (q.1, p.2 ||| q.2)
    else floatResult f.typ.toNat (s.rndOf f j none) (g (s.roundMode f.ext) a.val b.val d.val)) ∧
  Blockwise i op f true old fun s _ _ a b d =>
    ((g (s.roundMode f.ext) a.val b.val d.val).1, none, (g (s.roundMode f.ext) a.val b.val d.val).2)

/-- A bit operation of R137 on codes of w bits. -/
def bitwise (f : MForm) (h : Nat → Nat → Nat) (_ : State) (_ : Opnds) (_ : Nat) (a b _d : Elem) : Nat × Flags :=
  let t := f.typ.toNat
  (h (intCode t a.val.toInt) (intCode t b.val.toInt) % 2 ^ intBits t, 0)

end Sys2Proof.Machine

namespace Sys2Proof.Machine

/-- A special function of R142: its exact value, rounded to nearest, or with the rounding of the instruction. -/
def special (f : MForm) (rounds : Bool) (g : Num → Num × Flags) (s : State) (_ : Opnds) (j : Nat) (a _b _d : Elem) : Nat × Flags :=
  floatResult 0x10 (if rounds then s.rndOf f j none else {}) (g a.val)

/-- VABS and VNEG of R138 on an element of type `t`: the codes of MXINT8 are numbers, those of the other types without integers have a sign bit. -/
def signResult (f : MForm) (neg : Bool) (s : State) (_ : Opnds) (_ : Nat) (a _b _d : Elem) : Nat × Flags :=
  let t := f.typ.toNat
  if isInt t then integerResult t (s.roundSat f.ext) (if neg then -a.val.toInt else a.val.toInt.natAbs)
  else if t = 0x25 then
    (if a.code = 0x80 then (0x7F, SA) else (if neg then (256 - a.code) % 256 else if 0x80 ≤ a.code then 256 - a.code else a.code, 0))
  else if neg then (a.code ^^^ 2 ^ (elemBits t - 1), 0) else (a.code % 2 ^ (elemBits t - 1), 0)

/-- VABS or VNEG: on whole elements, and on blocks, whose scale bytes are copied (R138). -/
def Signs (i : Instr) (op : Nat) (f : MForm) (neg : Bool) : Prop :=
  Elementwise i op f false false false (signResult f neg) ∧
  ∀ s x, Elementary s op f false false x → isBlock (vecD s f).typ = true → ∃ t, exec i s = .next t ∧
    BlocksWrote s t op f x.d (vecD s f) (fun _ => false) fun B =>
      let r := (List.range 32).map fun i => ofElements s f false x (signResult f neg) (32 * B + i)
      ((s.blockAt x.a (vecA s f) B).2, r.map Prod.fst, r.foldl (fun fl p => fl ||| p.2) 0)

/-- VCLAMP of R139 on exact values: the bounds are the registers b and b + 1. -/
def clamped (s : State) (f : MForm) (a : Elem) : Num × Flags :=
  let p := minmaxNum true false a.val (of32 (fpArg (s.reg f.b)))
  let q := minmaxNum false false p.1 (of32 (fpArg (s.reg (f.b + 1))))
  (q.1, p.2 ||| q.2)

/-- An element of a source of type `ta` converted to type `t` of whole elements (R105 to R109, R143). -/
def converted (ta t : Nat) (q : Option Int → Rnd) (e : Elem) : Nat × Flags :=
  convertElem t (if t = 0x30 then {} else q (some (e.lsb ta))) (isInt ta) e.val

/-- A conversion into blocks (R143, R144). -/
def convertedBlocks (f : MForm) (s : State) (_ : Opnds) (_ : Nat) (a _b _d : Elem) : Value := (a.val, some (a.lsb (vecA s f).typ), 0)

/-- The code of the scalar that VSEL chooses, with the flags of its one conversion (R140). -/
def selScalar (f : MForm) (x : Opnds) : Nat × Flags :=
  if isInt f.typ.toNat then (x.b.dv.toNat % 2 ^ intBits f.typ.toNat, 0)
  else if f.typ = 0x10 then (fpArg x.b, 0)
  else roundF (fmtOf f.typ.toNat) {} (of32 (fpArg x.b))

/-- The residual of a value that was written as `y` (R144). -/
def residualOf (x y : Num) : Nat × Flags :=
  if y.isNan then (0x7FC00000, 0)
  else floatResult 0x10 {} (numAdd 0 x y.negate)

end Sys2Proof.Machine

/-- R104, R131, R135 to R144, R149: the vector instructions that act element by element, into elements or into blocks and under every rounding, SR
with its generators included: arithmetic, bits, signs, clamps, selections, compares, special functions, conversions, quantisation with its
residual, copies and fills; a source may be the destination itself. A block takes the scale that its largest magnitude gives. -/
def Obligations.VectorElements : Prop :=
  (∀ f, Arithmetic (.vadd f) 0x240 f false (fun a b _ => (a + b, 0)) (fun m a b _ => numAdd m a b)) ∧
  (∀ f, Arithmetic (.vsub f) 0x241 f false (fun a b _ => (a - b, 0)) (fun m a b _ => numAdd m a b.negate)) ∧
  (∀ f, Arithmetic (.vmul f) 0x242 f false (fun a b _ => (a * b, 0)) (fun _ a b _ => numMul a b)) ∧
  (∀ f, Arithmetic (.vfma f) 0x243 f true (fun a b d => (a * b + d, 0)) (fun m a b d => numFma m a b d)) ∧
  (∀ f, Arithmetic (.vdiv f) 0x244 f false
    (fun a b _ => if b = 0 then (if intSigned f.typ.toNat then -1 else 2 ^ intBits f.typ.toNat - 1, DZ) else (a.tdiv b, 0))
    (fun _ a b _ => numDiv a b)) ∧
  (∀ f, Arithmetic (.vmin f) 0x245 f false (fun a b _ => (min a b, 0)) (fun _ a b _ => minmaxNum false false a b)) ∧
  (∀ f, Arithmetic (.vmax f) 0x246 f false (fun a b _ => (max a b, 0)) (fun _ a b _ => minmaxNum true false a b)) ∧
  (∀ f, Arithmetic (.vminn f) 0x247 f false (fun a b _ => (min a b, 0)) (fun _ a b _ => minmaxNum false true a b)) ∧
  (∀ f, Arithmetic (.vmaxn f) 0x248 f false (fun a b _ => (max a b, 0)) (fun _ a b _ => minmaxNum true true a b)) ∧
  (∀ f, isInt f.typ.toNat = true →
    Elementwise (.vand f) 0x24E f true false false (bitwise f (· &&& ·)) ∧ Elementwise (.vor f) 0x24F f true false false (bitwise f (· ||| ·)) ∧
    Elementwise (.vxor f) 0x250 f true false false (bitwise f (· ^^^ ·)) ∧
    Elementwise (.vshl f) 0x251 f true false false (bitwise f fun a b => a <<< (b % intBits f.typ.toNat)) ∧
    Elementwise (.vshr f) 0x252 f true false false fun _ _ _ a b _ =>
      (intCode f.typ.toNat (a.val.toInt / (2 ^ (intCode f.typ.toNat b.val.toInt % intBits f.typ.toNat) : Nat)), 0)) ∧
  (∀ f, Signs (.vabs f) 0x249 f false ∧ Signs (.vneg f) 0x24A f true) ∧
  (∀ f, Elementwise (.vclamp f) 0x24B f false false (!isInt f.typ.toNat) (fun s _ j a _ _ =>
      let bound (c : Cap) : Int := if intSigned f.typ.toNat then c.dv.toInt else c.dv.toNat
      if isInt f.typ.toNat then integerResult f.typ.toNat true (min (max a.val.toInt (bound (s.reg f.b))) (bound (s.reg (f.b + 1))))
      else floatResult f.typ.toNat (s.rndOf f j none) (clamped s f a)) ∧
    Blockwise (.vclamp f) 0x24B f false false fun s _ _ a _ _ => ((clamped s f a).1, none, (clamped s f a).2)) ∧
  (∀ f s x c, Elementary s 0x24C f true false x → c = s.reg f.ext → StreamHere s c (denseBytes (vecD s f).count) 64 →
    Apart c (denseBytes (vecD s f).count) x.d (vecD s f) →
    ∃ t, exec (.vsel f) s = .next t ∧
      let mask (j : Nat) : Bool := leNat (s.ownBytes (c.cursor + j) 1) ≠ 0
      let second (j : Nat) : Elem := if vecSB f then scalarElem f x else s.element x.b (vecB s f) j
      if isBlock (vecD s f).typ then BlocksWrote s t 0x24C f x.d (vecD s f) (fun _ => false)
        (quantised (vecD s f).typ (fun _ _ => {}) fun j => ((if mask j then s.element x.a (vecA s f) j else second j).val, none, 0))
      else VectorWrote s t 0x24C f x.d (vecD s f) (fun _ => false) fun j =>
        if mask j then ((s.element x.a (vecA s f) j).code, 0) else if vecSB f then selScalar f x else ((second j).code, 0)) ∧
  (∀ f, Elementwise (.vcmp f) 0x24D f true false false fun _ _ _ a b _ =>
    if isInt f.typ.toNat then
      (if relation (f.ext.toNat % 16) (BitVec.ofInt (intBits f.typ.toNat) a.val.toInt)
        (BitVec.ofInt (intBits f.typ.toNat) b.val.toInt) then 1 else 0, 0)
    else ((fcmp f.ext.toNat a.val b.val).1.toNat, (fcmp f.ext.toNat a.val b.val).2)) ∧
  (∀ f, Elementwise (.vexp2 f) 0x280 f false false false (special f false numExp2) ∧
    Elementwise (.vexp f) 0x281 f false false false (special f false numExp) ∧
    Elementwise (.vlog2 f) 0x282 f false false false (special f false numLog2) ∧
    Elementwise (.vlog f) 0x283 f false false false (special f false numLog) ∧
    Elementwise (.vrcp f) 0x284 f false false true (special f true (numDiv (.ofInt 1))) ∧
    Elementwise (.vrsqrt f) 0x285 f false false false (special f false numRsqrt) ∧
    Elementwise (.vsqrt f) 0x286 f false false true (special f true numSqrt) ∧
    Elementwise (.vtanh f) 0x287 f false false false (special f false numTanh) ∧
    Elementwise (.vsigm f) 0x288 f false false false (special f false numSigm)) ∧
  (∀ f, Elementwise (.vcvt f) 0x289 f false false (f.typ ≠ 0x30) (fun s _ j a _ _ =>
      converted (vecA s f).typ f.typ.toNat (s.rndOf f j) a) ∧
    Blockwise (.vcvt f) 0x289 f false false (convertedBlocks f)) ∧
  (∀ f, vecX f = false → Blockwise (.vquant f) 0x28A f false false (convertedBlocks f)) ∧
  (∀ f s x, vecX f = true → Elementary s 0x28A f false false x → StreamHere s x.b (vecB s f) 32 → Apart x.a (vecA s f) x.b (vecB s f) →
    Apart x.d (vecD s f) x.b (vecB s f) →
    ∃ t u, exec (.vquant f) s = .next t ∧ t = s.completed 0x28A f f.len u ∧
      let k := quantised (vecD s f).typ (s.rndOf f) (ofElements s f false x (convertedBlocks f))
      let rest (j : Nat) : Nat × Flags := residualOf (s.element x.a (vecA s f) j).val
        (decodeScaled (vecD s f).typ ((k (j / 32)).2.1.getD (j % 32) 0) (k (j / 32)).1)
      BlocksAt s u x.d (vecD s f) (fun B => ((k B).1, (k B).2.1)) ∧ CodesAt s u x.b (vecB s f) (fun j => (rest j).1) ∧
      VectorFrame s u ((vecD s f).spans x.d ++ (vecB s f).spans x.b) (fun _ => s.roundMode f.ext = 5) (vecD s f).count ∧
      u.sl.fstat = (List.range (vecD s f).count).foldl (fun fl j => fl ||| (k (j / 32)).2.2 ||| (rest j).2) s.sl.fstat) ∧
  (∀ f s x, Elementary s 0x28F f false false x →
    ∃ t, exec (.vcopy f) s = .next t ∧ ElementsWrote s t 0x28F f x.d (vecD s f) (s.element x.a (vecA s f)) fun _ => 0) ∧
  (∀ f s x, VectorReady s 0x290 f → x = s.operands 0x290 f → TargetHere s x.d (vecD s f) 32 →
    ∃ t, exec (.vfill f) s = .next t ∧
      if isInt f.typ.toNat then VectorWrote s t 0x290 f x.d (vecD s f) (fun _ => s.roundMode f.ext = 5) fun _ =>
        integerResult f.typ.toNat true x.a.dv.toInt
      else ValuesWrote s t 0x290 f x.d (vecD s f) (fun _ => s.roundMode f.ext = 5) (s.rndOf f) fun _ =>
        (of32 (fpArg x.a), some (lsbOf fmtFP32 (fpArg x.a)), 0)) ∧
  (∀ (t : Nat) (xs : List (Machine.Num × Rnd)), isBlock t = true →
    ((∃ p ∈ xs, p.1.isNan ∨ p.1.isInf) →
      quantiseBlock t xs = (255, xs.map fun _ => 0, if ∃ p ∈ xs, p.1.isSignal then NV else 0)) ∧
    ((∀ p ∈ xs, exactly p.1 = some 0) → quantiseBlock t xs = (0, xs.map fun _ => 0, 0)) ∧
    (∀ p ∈ xs, ∀ m e, exactly p.1 = some m → (∀ q ∈ xs, ∃ n, exactly q.1 = some n ∧ distance n 0 ≤ distance m 0) →
      (2 : Rat) ^ e ≤ distance m 0 → distance m 0 < (2 : Rat) ^ (e + 1) → ∃ X : Int, X = max (-127) (min 127 (e - emaxOf t)) ∧
        let r := xs.map fun q => blockElem t { q.2 with lsb := q.2.lsb.map (· - X) } (q.1.scale (-X))
        quantiseBlock t xs = ((X + 127).toNat, r.map Prod.fst, r.foldl (fun fl p => fl ||| p.2) 0)))

namespace Sys2Proof.Machine

/-- The elements of row `r` of a stream. -/
def State.rowOf (s : State) (c : Cap) (sh : Shape) (r : Nat) : List Elem := (List.range sh.row).map fun i => s.element c sh (r * sh.row + i)

/-- The output at place `i` of a row of an integer scan (R146): what the row gives up to `i`, or before `i` for an exclusive scan. -/
def scanInt (t op : Nat) (excl : Bool) (xs : List Int) (i : Nat) : Int :=
  let ys := xs.take (if excl then i else i + 1)
  if op = 0 then ys.foldl (· + ·) 0
  else match ys with
  | [] => if op = 1 ∨ op = 3 then intMin t else intMax t
  | y :: r => r.foldl (if op = 1 ∨ op = 3 then max else min) y

/-- The output at place `i` of a row of a floating scan: it begins with the first element, or with the identity of an exclusive scan, and place
`k` joins the next element by `join k`. -/
def scanFloat (op : Nat) (excl : Bool) (join : Nat → Num → Num → Num × Flags) (xs : List Num) (i : Nat) : Num × Flags :=
  let ys := if excl then (if op = 0 then Num.zero false else .inf (op = 1 || op = 3)) :: xs else xs
  (List.range i).foldl (fun a k => let p := join (k + 1) a.1 (ys.getD (k + 1) (.zero false)); (p.1, a.2 ||| p.2)) (ys.getD 0 (.zero false), 0)

/-- An addition of a floating scan, rounded to FP32 (R146). -/
def scanAdd (mode : Nat) (q : Rnd) (a y : Num) : Num × Flags :=
  let p := numAdd mode a y
  let c := roundF fmtFP32 q p.1
  (of32 c.1, p.2 ||| c.2)

/-- How often generator `j mod 64` has stepped when VRAND writes element `j` (R116, R149). -/
def randCode (s : State) (f : MForm) (j : Nat) : Nat :=
  let g : BitVec 32 := s.genAt (fun _ => true) j
  if f.typ = 0x10 then (fp32 (.fin false (g.toNat / 256) (-24) false)).1 else g.toNat

end Sys2Proof.Machine

/-- R135, R145 to R150: reductions, scans, gathers, scatters and random fills, under every rounding; an empty vector instruction only moves the PC;
SHLD, SHST and SHSET move and edit shape records, whose must-be-zero bits stay zero. That the additions of a scan into a narrower type do not
saturate is the model's choice (log 48). -/
def Obligations.VectorReductionsTablesAndShapes : Prop :=
  (∀ f s x, VectorReady s 0x28B f → x = s.operands 0x28B f → StreamHere s x.a (vecA s f) 64 →
    TargetHere s x.d (vecD s f) 32 → Apart x.a (vecA s f) x.d (vecD s f) →
    ∃ t, exec (.vreduce f) s = .next t ∧
      let q (r : Nat) := reduceRow f.typ.toNat (redOp f) (s.roundSat f.ext) ((s.rowOf x.a (vecA s f) r).map Elem.val)
      if isInt f.typ.toNat then VectorWrote s t 0x28B f x.d (vecD s f) (fun _ => false) fun r =>
        integerResult (vecD s f).typ (s.roundSat f.ext)
          (if redOp f = 0 then ((s.rowOf x.a (vecA s f) r).map fun e => e.val.toInt).foldl (· + ·) 0 else (q r).1.toInt)
      else if redOp f = 0 ∧ (vecD s f).typ = 0x10 then VectorWrote s t 0x28B f x.d (vecD s f) (fun _ => false) fun r => ((fp32 (q r).1).1, (q r).2)
      else ValuesWrote s t 0x28B f x.d (vecD s f) (fun _ => s.roundMode f.ext = 5) (s.rndOf f) fun r => ((q r).1, none, (q r).2)) ∧
  (∀ f s x, VectorReady s 0x28C f → x = s.operands 0x28C f → isInt f.typ.toNat = true → StreamHere s x.a (vecA s f) 64 →
    TargetHere s x.d (vecD s f) 32 → Apart x.a (vecA s f) x.d (vecD s f) →
    ∃ t, exec (.vscan f) s = .next t ∧ VectorWrote s t 0x28C f x.d (vecD s f) (fun _ => false) fun j =>
      integerResult (vecD s f).typ (s.roundSat f.ext) (scanInt f.typ.toNat (redOp f) (vecX f)
        ((s.rowOf x.a (vecA s f) (j / (vecA s f).row)).map fun e => e.val.toInt) (j % (vecA s f).row))) ∧
  (∀ f s x, VectorReady s 0x28C f → x = s.operands 0x28C f → isInt f.typ.toNat = false → StreamHere s x.a (vecA s f) 64 →
    TargetHere s x.d (vecD s f) 32 → Apart x.a (vecA s f) x.d (vecD s f) →
    ∃ t, exec (.vscan f) s = .next t ∧
      let row := (vecA s f).row
      let adds (j : Nat) : Bool := j % row ≠ 0
      let output (join : Nat → Machine.Num → Machine.Num → Machine.Num × Flags) (j : Nat) : Machine.Num × Flags :=
        scanFloat (redOp f) (vecX f) (fun k => join (j / row * row + k)) ((s.rowOf x.a (vecA s f) (j / row)).map Elem.val) (j % row)
      if redOp f = 0 ∧ (vecD s f).typ = 0x10 then
        VectorWrote s t 0x28C f x.d (vecD s f) (fun j => s.roundMode f.ext = 5 && adds j) fun j =>
          let r := output (fun k => scanAdd (s.roundMode f.ext) (s.rndAt f adds k none)) j
          ((fp32 r.1).1, r.2)
      else ValuesWrote s t 0x28C f x.d (vecD s f) (fun _ => s.roundMode f.ext = 5) (s.rndOf f) fun j =>
        let r := output (fun _ => if redOp f = 0 then scanAdd 0 {} else redMinMax (redOp f)) j
        (r.1, none, r.2)) ∧
  (∀ f s x, VectorReady s 0x28D f → x = s.operands 0x28D f → StreamHere s x.a (vecA s f) 64 → StreamHere s x.b (vecB s f) 64 →
    TargetHere s x.d (vecD s f) 32 → Apart x.a (vecA s f) x.d (vecD s f) → Apart x.b (vecB s f) x.d (vecD s f) →
    ∃ t, exec (.vgather f) s = .next t ∧
      let row := (vecA s f).row
      let height := (vecA s f).count / row
      let index (j : Nat) : Int := (s.element x.b (vecB s f) (j / row)).val.toInt
      let inside (j : Nat) : Bool := 0 ≤ index j ∧ index j < height
      ElementsWrote s t 0x28D f x.d (vecD s f) (fun j =>
        if inside j then s.element x.a (vecA s f) ((index j).toNat * row + j % row)
        else if vecX f then s.element x.a (vecA s f) ((if index j < 0 then 0 else height - 1) * row + j % row)
        else ⟨0, 0, .zero false⟩) fun j => if inside j || vecX f then 0 else NV) ∧
  (∀ f s x, VectorReady s 0x28E f → x = s.operands 0x28E f → StreamHere s x.a (vecA s f) 64 → StreamHere s x.b (vecB s f) 64 →
    TargetHere s x.d (vecD s f) 32 → Apart x.a (vecA s f) x.d (vecD s f) → Apart x.b (vecB s f) x.d (vecD s f) →
    ∃ t, exec (.vscatter f) s = .next t ∧
      let row := (vecD s f).row
      let index (r : Nat) : Int := (s.element x.b (vecB s f) r).val.toInt
      let rowsTo (j : Nat) := (List.range (vecB s f).count).filter fun r => index r = (j / row : Nat)
      let bad := (List.range (vecB s f).count).any fun r => decide (index r < 0 ∨ ((vecD s f).count / row : Nat) ≤ index r)
      ElementsWrote s t 0x28E f x.d (vecD s f) (fun j =>
        ((rowsTo j).getLast?.map fun r => s.element x.a (vecA s f) (r * row + j % row)).getD (s.element x.d (vecD s f) j))
        fun _ => if bad then NV else 0) ∧
  (∀ f s x, VectorReady s 0x291 f → x = s.operands 0x291 f → TargetHere s x.d (vecD s f) 32 →
    ∃ t, exec (.vrand f) s = .next t ∧ VectorWrote s t 0x291 f x.d (vecD s f) (fun _ => true) fun j => (randCode s f j, 0)) ∧
  (∀ (i : Instr) (op : Nat) (f : MForm) (s : State), i.form = some (op, f) → isVector op = true → vecIll op f s = false →
    vecTyp op f s = false → s.regBad op f = false → s.guard f = true → (vecD s f).count = 0 → exec i s = .next (s.advance f.len f.yield)) ∧
  (∀ f s x ea, Runs 0x292 f s → x = s.operands 0x292 f → ea = (x.a.cursor : Int) + f.imm.toInt → Reaches s x.a ea 32 64 → ea.toNat % 8 = 0 →
    ∃ r : BitVec 256, exec (.shld f) s = .next (s.completed 0x292 f f.len (s.setShape f.d r)) ∧
      ∀ i, i < 256 → r.getLsbD i = (!decide ((10 ≤ i ∧ i < 16) ∨ (24 ≤ i ∧ i < 32)) &&
        (leNat (s.ownBytes ea.toNat 32)).testBit i)) ∧
  (∀ f, Does (.shst f) 0x293 f f.len
    (fun x s => MayPost s x.a (x.a.cursor + f.imm.toInt) 32 32 false ∧ ((x.a.cursor : Int) + f.imm.toInt).toNat % 8 = 0)
    fun x s => s.posted ((x.a.cursor : Int) + f.imm.toInt).toNat (leBytes 32 (shapeKeep (s.shape f.b)).toNat) .plain) ∧
  (∀ f s x, Runs 0x294 f s → x = s.operands 0x294 f → f.typ ≠ 15 → ∃ r : BitVec 256,
    exec (.shset f) s = .next (s.completed 0x294 f f.len (s.setShape f.d r)) ∧
    ∀ i, i < 256 → r.getLsbD i =
      (if (shapeField f.typ.toNat).1 ≤ i ∧ i < (shapeField f.typ.toNat).1 + (shapeField f.typ.toNat).2
        then (x.a.dv + f.imm.signExtend 64).getLsbD (i - (shapeField f.typ.toNat).1) else (s.shape f.d).getLsbD i)) ∧
  (∀ f, f.typ = 15 → Does (.shset f) 0x294 f f.len (fun _ _ => True) fun _ s => s.setShape f.d 0)

namespace Sys2Proof.Machine

/-- The streams of a vector instruction, as its entry names them (R127, R136 to R149). -/
def vecAll (s : State) (op : Nat) (f : MForm) (x : Opnds) : List Stream :=
  let a : Stream := .src x.a (vecA s f)
  let b : Stream := .src x.b (vecB s f)
  let d : Stream := .dst x.d (vecD s f)
  let b1 : List Stream := if vecSB f then [] else [b]
  if op ∈ [0x249, 0x24A, 0x24B] ∨ (0x280 ≤ op ∧ op ≤ 0x289) ∨ op ∈ [0x28B, 0x28C, 0x28F] then [a, d]
  else if op = 0x243 then a :: b1 ++ [.both x.d (vecD s f)]
  else if op = 0x24C then a :: b1 ++ [.src (s.reg f.ext) (denseBytes (vecD s f).count), d]
  else if op = 0x28A then a :: (if vecX f then [.dst x.b (vecB s f)] else []) ++ [d]
  else if op ∈ [0x28D, 0x28E] then [a, b, d]
  else if op ∈ [0x290, 0x291] then [d]
  else a :: b1 ++ [d]

end Sys2Proof.Machine

/-- R125, R130, R133: a vector instruction of any form, type, shape and rounding whose footprints pass the checks of R125 and lie in the core's
own scratchpad completes, and writes no byte outside the footprints of its destinations: no global memory, no register, no predicate. -/
def Obligations.VectorInstructionsComplete : Prop :=
  ∀ (i : Instr) (op : Nat) (f : MForm) (s : State) (x : Opnds), i.form = some (op, f) → isVector op = true → VectorReady s op f →
    (vecD s f).count ≠ 0 → x = s.operands op f → streamCheck (vecAll s op f x) = none →
    (∀ st ∈ vecAll s op f x, ∀ r ∈ st.ranges, 0xFF0000000000 ≤ r.1 ∧ r.1 + r.2 ≤ 0xFF0000000000 + (s.coreBank s.myCoreKey).spad ∧
      s.dataBp r.1.toNat r.2 = none ∧ s.spadPoisoned (s.ownByte r.1.toNat) r.2 = false) →
    ∃ u, exec i s = .next (s.completed op f f.len u) ∧ u.mem = s.mem ∧ u.sl.regs = s.sl.regs ∧ u.sl.preds = s.sl.preds ∧
      u.sl.shapes = s.sl.shapes ∧ u.sl.pcc = s.sl.pcc ∧ u.sl.fstat &&& s.sl.fstat = s.sl.fstat ∧
      ∀ a, (∀ st ∈ vecAll s op f x, st.writes = true → ∀ r ∈ st.ranges,
        a < s.ownByte r.1.toNat ∨ s.ownByte r.1.toNat + r.2 ≤ a) → u.spad.get a = s.spad.get a

namespace Sys2Proof.Machine

/-- Messages of the slot to other units pass at once: its core is no twin, and the merge points of the die neither log nor replay (R390, R479). -/
abbrev Unheld (s : State) (die : Nat) : Prop := (s.core s.myCore).twin = none ∧ NoReplay s die

/-- A ticket handle that names a pair of a cluster of the partition (R196). -/
abbrev IsTicket (s : State) (h : Word) : Prop := h.toNat < 2 ^ 15 ∧ s.ownsCluster s.myPart (h.toNat / 64) = true

/-- The next ticket and the ticket served of a pair, and the pair set: each partition has its own 64 pairs of a cluster (R196, R407). -/
def State.pairOf (s : State) (h : Word) : BitVec 32 × BitVec 32 :=
  (look (s.cluster (h.toNat / 64)).tickets (64 * s.myPart + h.toNat % 64)).getD (0, 0)
def State.setPair (s : State) (h : Word) (v : BitVec 32 × BitVec 32) : State :=
  s.modCluster (h.toNat / 64) fun c => { c with tickets := put c.tickets (64 * s.myPart + h.toNat % 64) v }

/-- The ticket `t` is served (R197). -/
abbrev Served (s : State) (h : Word) (t : BitVec 32) : Prop := ((s.pairOf h).2 - t).toNat < 2 ^ 31

/-- A phase of the cell has passed (R193). -/
abbrev Passed (c : DomCell) (ph : BitVec 32) : Prop := 1 ≤ (c.phase - ph).toNat ∧ (c.phase - ph).toNat < 2 ^ 31

/-- The slot has suspended at safe point `sp` (R165): it runs the save routine, with the address it left in g1. -/
structure Suspended (s t : State) (sp : Nat) (dest : SaveTo) : Prop where
  routine : t.sl.routine = .save sp dest ∧ t.sl.state = .ready
  pcc : t.sl.pcc = s.sl.pcc.setCursor (BitVec.ofNat 48 (s.myHeader.base + (s.myHeader.point sp).save))
  g1 : t.reg 1 = s.sl.pcc
  regs : ∀ r, r ≠ 1 → t.reg r = s.reg r
  kept : t.sl.preds = s.sl.preds ∧ t.sl.domains = s.sl.domains ∧ t.sl.gens = s.sl.gens ∧ t.sl.qmap = s.sl.qmap ∧ t.sl.hm = s.sl.hm
  memory : t.mem = s.mem ∧ t.spad = s.spad ∧ t.clusters = s.clusters

/-- A wait marked .SUSP may park its strand: no routine runs, the record store has room, and no store or reply is missing (R184). -/
abbrev MayPark (s : State) (f : MForm) (dest : SaveTo) : Prop :=
  f.ext.getLsbD 2 = true ∧ f.imm.toNat % 4096 < s.myHeader.points.length ∧ s.sl.hm = false ∧ s.sl.routine = .none ∧
    s.storeUsed (parkCluster s.myCore dest) < 1024 ∧ s.sl.pend = false ∧ s.sl.sbuf = [] ∧ s.repliesOut = false

/-- An arrival counted in a cell: the last one completes the phase (R175). -/
def DomCell.arrive (c : DomCell) : DomCell :=
  if c.members ≤ c.arrived + 1 then { c with arrived := 0, phase := c.phase + 1 } else { c with arrived := c.arrived + 1 }

/-- A member less: the phase completes where the arrivals then reach the count (R192). -/
def DomCell.without (c : DomCell) : DomCell :=
  if 1 ≤ c.arrived ∧ c.members - 1 ≤ c.arrived then { c with members := c.members - 1, arrived := 0, phase := c.phase + 1 }
  else { c with members := c.members - 1 }

end Sys2Proof.Machine

/-- R186, R192 to R198: domains, phases, tickets, queue maps and yields. -/
def Obligations.DomainsTicketsAndQueues : Prop :=
  (∀ f s x kind members unit, Runs 0x208 f s → x = s.operands 0x208 f → (s.core s.myCore).twin = none → kind = x.a.dv.toNat % 8 →
    members = x.a.dv.toNat / 2 ^ 16 % 2 ^ 32 → unit = (if kind = 3 then s.myDie else if kind = 4 then 0 else s.myCluster) →
    1 ≤ kind → kind ≤ 5 → 1 ≤ members → members ≤ 73728 → (∃ i, i < 16 ∧ look (s.cellMap kind unit) i = none) →
    ∃ cell, cell < 16 ∧ look (s.cellMap kind unit) cell = none ∧
      exec (.domsetNew f) s = .next (s.completed 0x208 f f.len
        ((({ s with free := s.free + 1 } : State).setCell (mkHandle kind unit cell)
          ⟨kind, members, 0, 0, if kind = 5 then x.b.dv.setWidth 48 else 0, s.myCore, s.myLaunch⟩).writeData f.d
            ((mkHandle kind unit cell).setWidth 64)))) ∧
  (∀ f, Does (.domsetNew f) 0x208 f f.len (fun x s => (s.core s.myCore).twin = none ∧ (x.a.dv.toNat % 8 = 0 ∨ 5 < x.a.dv.toNat % 8 ∨
      x.a.dv.toNat / 2 ^ 16 % 2 ^ 32 = 0 ∨ 73728 < x.a.dv.toNat / 2 ^ 16 % 2 ^ 32))
    fun _ s => s.writeData f.d 0) ∧
  (∀ f k, k = f.ext.toNat % 4 → Does (.domsetEnter f) 0x208 f f.len
    (fun x s => (s.core s.myCore).twin = none ∧ s.mayEnter k (x.a.dv.setWidth 16) = true)
    fun x s => (s.modSl fun sl => { sl with domains := sl.domains.setIfInBounds k (x.a.dv.setWidth 16) }).setPred (f.d.setWidth 3) true) ∧
  (∀ f k, k = f.ext.toNat % 4 → Does (.domsetEnter f) 0x208 f f.len
    (fun x s => (s.core s.myCore).twin = none ∧ (s.cellOf (x.a.dv.setWidth 16) = none ∨ s.mayEnter k (x.a.dv.setWidth 16) = false))
    fun _ s => s.setPred (f.d.setWidth 3) false) ∧
  (∀ f, Does (.domsetLeave f) 0x208 f f.len (fun _ s => domOf s f.ext = 0) fun _ s => s.setPred (f.d.setWidth 3) false) ∧
  (∀ f s h c, Runs 0x208 f s → h = domOf s f.ext → h ≠ 0 → s.cellOf h = some c → Unheld s (cellDie h) →
    ∃ t, exec (.domsetLeave f) s = .next (s.completed 0x208 f f.len (t.setPred (f.d.setWidth 3) true)) ∧
      t.cellOf h = some c.without ∧ domOf t f.ext = 0 ∧ t.sl.regs = s.sl.regs ∧
      (c.without.phase = c.phase → t.mem = s.mem ∧ t.coreBanks = s.coreBanks)) ∧
  (∀ f c, Does (.arrive f) 0x206 f f.len
    (fun _ s => hKind (domOf s f.ext) ≠ 0 ∧ s.cellOf (domOf s f.ext) = some c ∧ Unheld s (cellDie (domOf s f.ext)))
    fun _ s => ((s.releaseAt s.myCoreKey (kindScope (hKind (domOf s f.ext)))).setCell (domOf s f.ext) c.arrive).writeData f.d
      (c.phase.setWidth 64)) ∧
  (∀ f c h, Does (.waitb f) 0x207 f f.len
    (fun x s => h = domOf s (f.ext &&& 3) ∧ hKind h ≠ 0 ∧ s.cellOf h = some c ∧ (s.core s.myCore).twin = none ∧ Passed c (low32 x.a) ∧
      s.sl.sbuf = [] ∧ s.soAhead s.me = false ∧ parkIll f s = false)
    fun _ s => s.acquireAt s.myCoreKey (kindScope (hKind h))) ∧
  (∀ f s h c, Runs 0x207 f s → h = domOf s (f.ext &&& 3) → hKind h ≠ 0 → s.cellOf h = some c → (s.core s.myCore).twin = none →
    ¬Passed c (low32 (s.operands 0x207 f).a) →
    (f.ext.getLsbD 2 = false → ∃ t, exec (.waitb f) s = .next t ∧ t.sl.state = .waiting (.waitb f) ∧ t.sl.pcc = s.sl.pcc) ∧
    (MayPark s f (.domain h (low32 (s.operands 0x207 f).a)) → s.sl.pops 0x207 f = [] → s.sl.issued = false → ∃ t,
      exec (.waitb f) s = .next t ∧ Suspended s t (f.imm.toNat % 4096) (.domain h (low32 (s.operands 0x207 f).a)))) ∧
  (∀ f, Does (.ticket f) 0x209 f f.len
    (fun x s => IsTicket s x.a.dv ∧ x.a.dv.toNat / 64 / 48 = s.myDie ∧ Unheld s s.myDie)
    fun x s => (s.setPair x.a.dv ((s.pairOf x.a.dv).1 + 1, (s.pairOf x.a.dv).2)).writeData f.d ((s.pairOf x.a.dv).1.setWidth 64)) ∧
  (∀ f, Does (.waittk f) 0x20A f f.len
    (fun x s => IsTicket s x.a.dv ∧ (s.core s.myCore).twin = none ∧ Served s x.a.dv (low32 x.b) ∧ s.sl.sbuf = [] ∧ s.soAhead s.me = false ∧
      parkIll f s = false)
    fun x s => s.acquireAt s.myCoreKey (unitScope s.myCore (x.a.dv.toNat / 64))) ∧
  (∀ f s x, Runs 0x20A f s → x = s.operands 0x20A f → IsTicket s x.a.dv → (s.core s.myCore).twin = none → ¬Served s x.a.dv (low32 x.b) →
    f.ext.getLsbD 2 = false → ∃ t, exec (.waittk f) s = .next t ∧ t.sl.state = .waiting (.waittk f) ∧ t.sl.pcc = s.sl.pcc) ∧
  (∀ f, Does (.serve f) 0x20B f f.len
    (fun x s => IsTicket s x.a.dv ∧ Unheld s (x.a.dv.toNat / 64 / 48))
    fun x s => (s.releaseAt s.myCoreKey (unitScope s.myCore (x.a.dv.toNat / 64))).setPair x.a.dv
      ((s.pairOf x.a.dv).1, (s.pairOf x.a.dv).2 + 1)) ∧
  (∀ f, Traps (.ticket f) 0x209 f (fun x s => ¬IsTicket s x.a.dv) 0x04 (fun x _ => x.a.dv.toNat) ∧
    Traps (.serve f) 0x20B f (fun x s => ¬IsTicket s x.a.dv) 0x04 (fun x _ => x.a.dv.toNat)) ∧
  (∀ f, Does (.qmap f) 0x20C f f.len (fun _ _ => True) fun x s =>
    (s.setReg f.d (Cap.ofWord (s.sl.qmap.setWidth 64))).modSl fun sl =>
      { sl with qmap := if f.ext = 1 then x.a.dv.setWidth 4 else f.imm.setWidth 4 }) ∧
  (∀ f, Does (.yield f) 0x202 f f.len (fun _ _ => True) fun _ s => s.modSl fun sl => { sl with yieldHint := true }) ∧
  Does .yieldS 0x202 (.plain 0 0 0 0) 4 (fun _ _ => True) (fun _ s => s.modSl fun sl => { sl with yieldHint := true })

namespace Sys2Proof.Machine

/-- The record of a strand that SPAWN makes (R164, R187). -/
def State.spawned (s : State) (f : MForm) (x : Opnds) : Record :=
  let st := f.imm.toNat % 16
  mkRecord (s.sl.pcc.setCursor (BitVec.ofNat 48 (s.myHeader.base + ((s.myHeader.stages[st]?).map Stage.sentry).getD 0))) x.a x.b.dv
    (s.reg (f.b + 1)).dv (BitVec.ofNat 4 st) 0xFFFF 0 s.sl.domains (BitVec.ofNat 24 s.myReq)

/-- The queue of a stage of the launch in a cluster, and the state with a record put last in it (R170). -/
def State.stageQueue (s : State) (c st : Nat) : List (Record × Bool) := ((s.cluster c).queuesOf s.myLaunch).get st
def State.queued (s : State) (c st : Nat) (r : Record) : State :=
  s.modCluster c fun x => x.setQueues (((s.cluster c).queuesOf s.myLaunch).set st (s.stageQueue c st ++ [(r, false)]))

/-- The slot of `s` has left its strand, and nothing else of memory, of the launch's units or of other slots has changed (R153, R185). -/
structure Left (s t : State) : Prop where
  slot : t.sl.state = .idle ∧ t.sl.launch = none ∧ t.sl.routine = .none
  others : ∀ k, k ≠ s.me → t.slotAt k = s.slotAt k
  memory : t.mem = s.mem ∧ t.spad = s.spad

/-- The slot `k` of `t` starts from the record `r` with no safe point: its PCC, g2 to g4, stage and domains come from it, every other register is
zero (R166, R29). -/
structure Started (t : State) (k : Nat) (r : Record) (l : Nat × Nat) : Prop where
  state : (t.slotAt k).state = .starting ∧ (t.slotAt k).launch = some l ∧ (t.slotAt k).stage = recStage r ∧ (t.slotAt k).hm = false
  pcc : (t.slotAt k).pcc = r.g0
  args : (t.slotAt k).reg 2 = r.g1 ∧ (t.slotAt k).reg 3 = ⟨(r.g2.val.setWidth 64).setWidth 128, false⟩ ∧
    (t.slotAt k).reg 4 = ⟨(r.g2.val >>> 64).setWidth 128, false⟩
  regs : ∀ j : BitVec 5, j ∉ [2, 3, 4] → (t.slotAt k).reg j = Cap.zero
  preds : (t.slotAt k).preds = 1
  domains : ∀ i, i < 4 → (t.slotAt k).domains[i]? = some (recDom r i)

end Sys2Proof.Machine

/-- R164 to R167, R172 to R174, R185 to R191: how strands are made, suspend, resume and end. Where the rules leave it open, these are the model's
choices: log 22 (a slot that ends), log 25 (which core and cell a fork takes), log 51 (a JOIN of a cell that another launch of the partition armed). -/
def Obligations.StrandsStartSuspendAndEnd : Prop :=
  (∀ f c st, st = f.imm.toNat % 16 → Does (.spawn f) 0x200 f f.len
    (fun x s => st < s.myHeader.stages.length ∧ c = (if f.ext = 1 then x.d.dv.toNat else s.myCluster) ∧ c / 48 = s.myDie ∧
      (f.ext = 1 → s.clusterInRange s.myLaunch c = true) ∧ (s.stageQueue c st).length < s.myHeader.bound st ∧ Unheld s s.myDie)
    fun x s => (s.releaseAt s.myCoreKey (unitScope s.myCore c)).queued c st (s.spawned f x)) ∧
  (∀ f s, Runs 0x201 f s → s.sl.hm = false → (∀ sp dest, s.sl.routine ≠ .save sp dest) →
    (∃ t, exec (.endStrand f) s = .next t ∧ Left s t)) ∧
  (∀ s, Runs 0x201 (.plain 0 0 0 0) s → s.sl.hm = false → (∀ sp dest, s.sl.routine ≠ .save sp dest) →
    (∃ t, exec .endS s = .next t ∧ Left s t)) ∧
  (∀ f s, Runs 0x201 f s → s.sl.hm = true → s.sl.stfRecs = [] → ∃ t, exec (.endStrand f) s = .next t ∧ Left s t) ∧
  (∀ f s sp c va, Runs 0x201 f s → s.sl.hm = false → s.sl.routine = .save sp (.stage c) → va = (s.reg 2).cursor →
    Allowed (s.reg 2) va 256 32 → 0xFF0000000000 ≤ va → va + 256 ≤ 0xFF0000000000 + (s.coreBank s.myCoreKey).spad →
    (s.coreBank s.myCoreKey).spad ≤ 0x18000 → (s.coreBank s.myCoreKey).launch ≠ none → (s.core s.myCore).stopped = false →
    Unheld s s.myDie → c / 48 = s.myDie → sp < s.myHeader.points.length → s.sl.stage < s.myHeader.stages.length → s.sl.stage < 16 →
    (s.stageQueue c s.sl.stage).length < s.myHeader.bound s.sl.stage → s.sl.sent = none → s.sl.wrote = 0 → s.sl.flushed = false →
    s.spad.wf = true →
    ∃ t, exec (.endStrand f) s = .next t ∧ t.sl.state = .idle ∧
      (∀ i, i < 64 → leNat (t.spad.bytes (s.ownByte va + 4 * i) 4) = ((s.sl.gens[i]?).getD 0).toNat) ∧
      (∀ a, a < s.ownByte va ∨ s.ownByte va + 256 ≤ a → t.spad.get a = s.spad.get a) ∧
      ∃ r : Record, ((t.cluster c).queuesOf s.myLaunch).get s.sl.stage = s.stageQueue c s.sl.stage ++ [(r, false)] ∧
        r.g0 = s.sl.pcc.setCursor (BitVec.ofNat 48 (s.myHeader.base + (s.myHeader.point sp).sppc)) ∧ r.g1 = s.reg 2 ∧
        r.g2 = ⟨(s.reg 4).dv ++ (s.reg 3).dv, false⟩ ∧ recSafept r = sp % 65536 ∧ recStage r = s.sl.stage ∧
        (∀ i, i < 4 → s.sl.domains[i]? = some (recDom r i)) ∧ recPred r = s.sl.preds.extractLsb' 1 7) ∧
  (∀ f s x, Runs 0x203 f s → x = s.operands 0x203 f → s.sl.hm = false → s.sl.routine = .none → f.imm.toNat % 4096 < s.myHeader.points.length →
    f.imm.toNat / 4096 < s.myHeader.stages.length → s.sl.issued = false → s.sl.pops 0x203 f = [] →
    (f.ext = 1 → s.clusterInRange s.myLaunch x.a.dv.toNat = true) →
    ∃ t, exec (.suspend f) s = .next t ∧ t.sl.stage = f.imm.toNat / 4096 ∧
      Suspended s t (f.imm.toNat % 4096) (.stage (if f.ext = 1 then x.a.dv.toNat else s.myCluster))) ∧
  (∀ f s x, Runs 0x204 f s → x = s.operands 0x204 f → s.sl.hm = false → s.sl.routine = .none → f.imm.toNat % 4096 < s.myHeader.points.length →
    s.sl.issued = false → s.sl.pops 0x204 f = [] →
    ∃ t, exec (.rfork f) s = .next t ∧ Suspended s t (f.imm.toNat % 4096) (.fork x.a.dv.toNat x.b.dv.toNat (decide (f.ext = 1))
      (s.sl.pcc.setCursor (BitVec.ofNat 48 (s.sl.pcc.cursor + f.len))))) ∧
  (∀ f s sp trip grain die body va n, Runs 0x201 f s → s.sl.hm = false → s.sl.routine = .save sp (.fork trip grain die body) →
    va = (s.reg 2).cursor → Allowed (s.reg 2) va 264 32 → 0xFF0000000000 ≤ va →
    va + 264 ≤ 0xFF0000000000 + (s.coreBank s.myCoreKey).spad → (s.coreBank s.myCoreKey).spad ≤ 0x18000 →
    (s.coreBank s.myCoreKey).launch ≠ none → (s.core s.myCore).stopped = false → (s.core s.myCore).twin = none → 1 ≤ trip → 1 ≤ grain →
    trip < 2 ^ 64 → s.sl.sent = none → s.sl.wrote = 0 → s.sl.flushed = false → (∃ i, i < 32 ∧ look (s.cluster s.myCluster).joins i = none) →
    n = min ((trip + grain - 1) / grain) (1 + ((treeOf s.myCore die).filter fun c =>
      s.inRange s.myLaunch c && s.idleCore s.myLaunch c && s.sl.domains.toList.all fun h => s.coreInside c h).length) →
    ∃ t r cell, exec (.endStrand f) s = .next t ∧ cell < 32 ∧ look (s.cluster s.myCluster).joins cell = none ∧
      look (t.cluster s.myCluster).joins cell = some ⟨n, die, r, s.myLaunch⟩ ∧ recSafept r = sp % 65536 ∧ r.g1 = s.reg 2 ∧
      ∃ part, Started t s.me part s.myLaunch ∧ part.g0 = body ∧ part.g1 = s.reg 2 ∧
        part.g2 = ⟨BitVec.ofNat 64 (min ((trip + grain - 1) / grain / n * grain) trip) ++ (0 : BitVec 64), false⟩) ∧
  (∀ f s x j, Runs 0x205 f s → x = s.operands 0x205 f → (s.core s.myCore).twin = none → x.a.dv.toNat < 2 ^ 14 →
    s.ownsCluster s.myPart (x.a.dv.toNat / 32) = true → look (s.cluster (x.a.dv.toNat / 32)).joins (x.a.dv.toNat % 32) = some j → j.launch.1 = s.myPart →
    (1 < j.count → ∃ t, exec (.join f) s = .next t ∧ t.sl.state = .idle ∧
      look (t.cluster (x.a.dv.toNat / 32)).joins (x.a.dv.toNat % 32) = some { j with count := j.count - 1 }) ∧
    (j.count ≤ 1 → recSafept j.cont = 0xFFFF → risingFrom 0 (s.cluster (x.a.dv.toNat / 32)).joins = true → ∃ t, exec (.join f) s = .next t ∧ Started t s.me j.cont j.launch ∧
      look (t.cluster (x.a.dv.toNat / 32)).joins (x.a.dv.toNat % 32) = none)) ∧
  (∀ f s, s.guard f = true → s.sl.hm = true → exec (.suspend f) s = .next (s.takeTrap 0x01 0) ∧
    exec (.rfork f) s = .next (s.takeTrap 0x01 0))

namespace Sys2Proof.Machine

/-- An access that names timeline `i` of the set, with the permission it needs (R288, R302). -/
abbrev NamesTimeline (c : Cap) (ea : Int) (perm : BitVec 7) (i : Nat) : Prop :=
  Allowed c ea 8 perm ∧ i < 1024 ∧ ea = 0xFF0200010000 + 8 * i

/-- Timeline `i` of the slot's partition. -/
def State.myTimeline (s : State) (i : Nat) : Timeline := (s.part s.myPart).timeline i

/-- COUNT with ERR as bit 63, as a read of TL[i] gives it (R289). -/
def Timeline.reads (t : Timeline) : Word := BitVec.ofBool t.err ++ t.count

/-- The record `r` has entered the input `c` of its engine behind those before it, for the slot of `s`; with SIG it has taken the next position on its
timeline (R285, R286, R290). -/
structure Accepted (s t : State) (c : Cur) (r : Record) : Prop where
  job : ∃ j : Job, t.jobs c = s.jobs c ++ [j] ∧ j.record = r ∧ j.part = s.myPart ∧ j.slot = s.mySlot ∧ j.launch = s.myLaunch ∧
    j.mtcw = none ∧ j.pos = if r.g0.val.getLsbD 8 then some ((s.myTimeline (rTlidx r)).issued + 1).toNat else none
  issued : (t.myTimeline (rTlidx r)).issued = (s.myTimeline (rTlidx r)).issued + (if r.g0.val.getLsbD 8 then 1 else 0)
  count : (t.myTimeline (rTlidx r)).count = (s.myTimeline (rTlidx r)).count ∧ (t.myTimeline (rTlidx r)).err = (s.myTimeline (rTlidx r)).err
  slot : t.sl = s.sl

/-- The acceptance word of an accepted record: the position in bits [61:0] (R286). -/
def State.acceptedWord (s : State) (r : Record) : Word :=
  if r.g0.val.getLsbD 8 then ((s.myTimeline (rTlidx r)).issued + 1).setWidth 62 |>.setWidth 64 else 0

/-- The engine inputs that SENDCMD reaches with an opcode, and their sizes (R284, R285). -/
def engineInput (s : State) (opcode : Nat) : Option (Cur × Nat) :=
  if 0x20 ≤ opcode ∧ opcode ≤ 0x23 then some (.copy s.myCluster 0, 64)
  else if opcode = 0x24 then some (.dispatch (s.myCluster / 48) 0, 256)
  else if 0x30 ≤ opcode ∧ opcode ≤ 0x36 then some (.market (s.myCluster / 48) 0, 256)
  else none

/-- The conditions under which a tile control is no illegal one (R307). -/
def TileControl (w : BitVec 32) : Prop := tileIll w = false ∧ tileBits (tileType w) ≠ 0

end Sys2Proof.Machine

/-- R284 to R287, R289, R290, R301 to R307: SENDCMD and COLL put the record in the input of its engine and write the acceptance word; a record
with an opcode that the path does not take is refused with bit 63; a combined record gives the word that its window brought. Timelines are
waited for, read, signalled, cleared and advanced in position order; MTCW queues a tile control that MTCR reads back. -/
def Obligations.CommandsTimelinesAndTileControls : Prop :=
  (∀ f s r c n, Runs 0x2C0 f s → r = s.group f.b → (s.core s.myCore).twin = none → s.sl.joined = none → r.g0.val.getLsbD 9 = false →
    engineInput s (rOpcode r) = some (c, n) → (s.jobs c).length < n →
    ∃ t : State, exec (.sendcmd f) s = .next (s.completed 0x2C0 f f.len (t.writeData f.d (s.acceptedWord r))) ∧ Accepted s t c r) ∧
  (∀ f s r c n, Runs 0x2C0 f s → r = s.group f.b → (s.core s.myCore).twin = none → s.sl.joined = none → r.g0.val.getLsbD 9 = false →
    engineInput s (rOpcode r) = some (c, n) → n ≤ (s.jobs c).length →
    ∃ t : State, exec (.sendcmd f) s = .next t ∧ t.sl.state = .waiting (.sendcmd f) ∧ t.sl.pcc = s.sl.pcc ∧ t.jobs c = s.jobs c) ∧
  (∀ f s r, Runs 0x2C0 f s → r = s.group f.b → (s.core s.myCore).twin = none → s.sl.joined = none → engineInput s (rOpcode r) = none →
    ∃ (t : State) (w : Word), exec (.sendcmd f) s = .next (s.completed 0x2C0 f f.len (t.writeData f.d w)) ∧ w = s.acceptedWord r + 2 ^ 63 ∧
      (∀ c, t.jobs c = s.jobs c) ∧
      (r.g0.val.getLsbD 8 = false → (t.myTimeline (rTlidx r)).err = true ∧ (t.myTimeline (rTlidx r)).count = (s.myTimeline (rTlidx r)).count)) ∧
  (∀ f w, Does (.sendcmd f) 0x2C0 f f.len (fun _ s => s.sl.joined = some (some w)) fun _ s => s.writeData f.d w) ∧
  (∀ f s r, Runs 0x306 f s → r = s.group f.b → (s.core s.myCore).twin = none → 0x40 ≤ rOpcode r → rOpcode r ≤ 0x45 →
    (s.die s.myDie).coll.length < 256 →
    ∃ t : State, exec (.coll f) s = .next (s.completed 0x306 f f.len (t.writeData f.d (s.acceptedWord r))) ∧ Accepted s t (.coll s.myDie 0) r) ∧
  (∀ f s r, Runs 0x306 f s → r = s.group f.b → (s.core s.myCore).twin = none → (rOpcode r < 0x40 ∨ 0x45 < rOpcode r) →
    ∃ t : State, exec (.coll f) s = .next (s.completed 0x306 f f.len (t.writeData f.d (s.acceptedWord r + 2 ^ 63))) ∧ ∀ c, t.jobs c = s.jobs c) ∧
  (∀ f i, Does (.tlwait f) 0x2C1 f f.len
    (fun x s => NamesTimeline x.a (x.a.cursor + f.imm.toInt) 64 i ∧ (s.core s.myCore).twin = none ∧ s.sl.sbuf = [] ∧
      s.soAhead s.me = false ∧
      x.b.dv.toNat % 2 ^ 63 ≤ (s.myTimeline i).count.toNat)
    fun _ s => (s.acquireAt s.myCoreKey (s.myTimeline i).scope.toNat).writeData f.d (s.myTimeline i).reads) ∧
  (∀ f s x i, Runs 0x2C1 f s → x = s.operands 0x2C1 f → NamesTimeline x.a (x.a.cursor + f.imm.toInt) 64 i → (s.core s.myCore).twin = none →
    (s.myTimeline i).count.toNat < x.b.dv.toNat % 2 ^ 63 →
    ∃ t : State, exec (.tlwait f) s = .next t ∧ t.sl.state = .waiting (.tlwait f) ∧ t.sl.pcc = s.sl.pcc ∧ t.partitions = s.partitions) ∧
  (∀ f i, Does (.tlread f) 0x2C2 f f.len
    (fun x s => NamesTimeline x.a (x.a.cursor + f.imm.toInt) 64 i ∧ (s.core s.myCore).twin = none)
    fun _ s => s.writeData f.d (if f.ext = 1 then (s.myTimeline i).issued.setWidth 64 else (s.myTimeline i).reads)) ∧
  (∀ f s x i, Runs 0x2C3 f s → x = s.operands 0x2C3 f → NamesTimeline x.a (x.a.cursor + f.imm.toInt) 32 i → (s.core s.myCore).twin = none →
    ∃ t : State, exec (.tlsig f) s = .next (s.completed 0x2C3 f f.len (t.writeData f.d (((s.myTimeline i).issued + 1).setWidth 64))) ∧
      t.myTimeline i = { s.myTimeline i with issued := (s.myTimeline i).issued + 1
                                             finished := (s.myTimeline i).finished ++ [⟨((s.myTimeline i).issued + 1).toNat, decide (f.ext = 1), none⟩] } ∧
      t.sl = s.sl ∧ ∀ j, j ≠ i → t.myTimeline j = s.myTimeline j) ∧
  (∀ f i, Does (.tlclr f) 0x2C4 f f.len
    (fun x s => NamesTimeline x.a (x.a.cursor + f.imm.toInt) 32 i ∧ (s.core s.myCore).twin = none ∧
      (s.myTimeline i).count = (s.myTimeline i).issued)
    fun _ s => s.modTimeline s.myPart i fun t => { t with count := 0, err := false, issued := 0, scope := f.typ.setWidth 3,
                                                          owner := BitVec.ofNat 5 s.myLaunch.2, ownGen := (s.entry s.myLaunch).gen }) ∧
  (∀ s p i x, p = s.arg.a → i = s.arg.b →
    ((s.part p).timeline i).finished.find? (fun x => x.pos = (((s.part p).timeline i).count + 1).toNat && s.mayAdvance p x) = some x →
    ∃ t : State, exec .timelineAdvance s = .next t ∧ ((t.part p).timeline i).count = ((s.part p).timeline i).count + 1 ∧
      ((t.part p).timeline i).err = (((s.part p).timeline i).err || x.err) ∧ ((t.part p).timeline i).issued = ((s.part p).timeline i).issued ∧
      (∀ y ∈ ((t.part p).timeline i).finished, y ∈ ((s.part p).timeline i).finished ∧ y.pos ≠ x.pos)) ∧
  (∀ f s w, Runs 0x2C5 f s → w = low32 (s.operands 0x2C5 f).b → TileControl w → (s.core s.myCore).twin = none →
    (s.coreBank s.myCoreKey).mq.length < 16 → (∀ i, i < 4 → (s.slotAt (bankKey (4 * s.myCore + i) (s.me % 2))).mqTurn = none) →
    ∃ (t : State) (j : Job), exec (.mtcw f) s = .next (s.completed 0x2C5 f f.len t) ∧
      (t.coreBank s.myCoreKey).mq = (s.coreBank s.myCoreKey).mq ++ [j] ∧ j.mtcw = some (f.d.toNat % 4, w) ∧
      (t.coreBank s.myCoreKey).ctlLast[f.d.toNat % 4]? = some w ∧ (t.coreBank s.myCoreKey).ctl = (s.coreBank s.myCoreKey).ctl ∧ t.sl = s.sl) ∧
  (∀ f s w, w = low32 (s.operands 0x2C5 f).b → s.canRead 0x2C5 f = true →
    (tileIll w = true → exec (.mtcw f) s = .next (s.takeTrap 0x01 0)) ∧
    (tileIll w = false → tileBits (tileType w) = 0 → exec (.mtcw f) s = .next (s.takeTrap 0x0C 0))) ∧
  (∀ f, Gives (.mtcr f) 0x2C6 f f.len fun _ s => ((s.coreBank s.myCoreKey).ctlLast[f.a.toNat % 4]?.getD 0).setWidth 64)

namespace Sys2Proof.Machine

/-- A remote access of `n` bytes at the cursor of `c` names the scratchpad of the strand's own core, and nothing stands in its way (R432, R433). -/
abbrev RemoteHere (s : State) (c : Cap) (n : Nat) (perm : BitVec 7) : Prop :=
  Reaches s c c.cursor n perm ∧ c.cursor % 64 + n ≤ 64 ∧ s.bankOf s.myCluster s.myPart = some s.myBank ∧ s.liveBank s.myCore = s.myBank ∧
    s.myPart < 64 ∧ s.mySlot < 2 ^ 17 ∧ s.soAhead s.me = false

/-- The status predicate of a remote operation that is done (R434). -/
def State.reported (s : State) (f : MForm) (p : BitVec 3) : State := if f.imm.getLsbD 3 then s.setPred p true else s

/-- The acquire actions of an access with ORD 1 or 3. -/
def State.acquiredAt (s : State) (f : MForm) : State := if moOrdF f % 2 = 1 then s.acquireAt s.myCoreKey (moScopeF f) else s
def State.releasedAt (s : State) (f : MForm) : State := if 2 ≤ moOrdF f then s.releaseAt s.myCoreKey (moScopeF f) else s

/-- A stamped operation of the slot has its final reply `(st, w)` (R427, R429): the target `loc` of `c`, a scratchpad or not, lies beyond the die. -/
abbrev Replied (s : State) (c : Cap) (n : Nat) (loc : Nat) (spad : Bool) (st : Nat) (w : Word) : Prop :=
  Allowed c c.cursor n 96 ∧ c.cursor % 64 + n ≤ 64 ∧ c.cursor % n = 0 ∧ s.dataBp c.cursor n = none ∧ s.rtgtBad c.cursor = false ∧
    (s.core s.myCore).twin = none ∧ s.sl.sbuf = [] ∧ s.soAhead s.me = false ∧ s.sl.sent.isSome = true ∧ s.sl.reply = some (st, w) ∧
    s.remoteTarget s.via c.cursor .amo s.sl.rtgtCluster = (.ok (loc, spad, false), s) ∧ s.onMesh loc spad = false ∧
    (spad = false → s.lineBusy s.myCoreKey (loc / 64) = false)

/-- The reply to an atomic on memory has come: what the own L1 holds of the line goes home or is dropped, so that later reads see the result. -/
def State.answered (s : State) (loc : Nat) (spad : Bool) : State := if spad then s else s.dropLine s.myCoreKey (loc / 64)

end Sys2Proof.Machine

/-- R434, R437 to R442, R450, R451: remote reads, posted stores, atomics, acknowledgements, status and launches. Log 32 names the corners of these
rules that the model settles. -/
def Obligations.RemoteOperations : Prop :=
  (∀ f, IsWidth f.ext → Does (.rld f) 0x300 f f.len (fun x s => RemoteHere s x.a (widthOf f.ext) 64)
    fun x s => ((s.acquired f).writeD f.d (loadExtended f.ext (s.ownBytes x.a.cursor (widthOf f.ext)))).reported f (f.imm.setWidth 3)) ∧
  (∀ f code n, code = f.ext.toNat % 16 → code ≤ 6 → n = (if 5 ≤ code then 8 else 2 ^ code) → Does (.rst f) 0x301 f f.len
    (fun x s => Allowed x.a x.a.cursor n (if 5 ≤ code then 33 else 32) ∧ x.a.cursor % 64 + n ≤ 64 ∧ (5 ≤ code → x.a.cursor % 8 = 0) ∧
      s.dataBp x.a.cursor n = none ∧ s.rtgtBad x.a.cursor = false ∧ s.sl.sbuf.length < 16 ∧
      (regionOf x.a.cursor = .localW ∨ regionOf x.a.cursor = .clusterW ∨ (regionOf x.a.cursor = .memory ∧ code ≤ 4)))
    fun x s => (fun t : State => if moOrdF f = 2 then t.releaseAt t.myCoreKey (moScopeF f) else t)
      (s.posted x.a.cursor (leBytes n x.b.val.toNat) (.remote (if 5 ≤ code then code else 0) (f.ext.getLsbD 4)
        (if moOrdF f = 2 then some (moScopeF f) else none)
        (if regionOf x.a.cursor = .clusterW then s.sl.rtgtCluster else none)))) ∧
  (∀ f, Does (.ramo f) 0x302 f f.len (fun x s => RemoteHere s x.a (atomicWidth f) 96 ∧ x.a.cursor % atomicWidth f = 0) fun x s =>
    let old := s.ownBytes x.a.cursor (atomicWidth f)
    (((((s.releasedAt f).spadWrite (s.ownByte x.a.cursor) (amoBytes f old x.b.dv) false).acquiredAt f).writeData f.d
      (BitVec.ofNat 64 (leNat old))).reported f (f.imm.setWidth 3))) ∧
  (∀ f, Does (.rcas f) 0x303 f f.len (fun x s => RemoteHere s x.a (atomicWidth f) 96 ∧ x.a.cursor % atomicWidth f = 0) fun x s =>
    let n := atomicWidth f
    let old := leNat (s.ownBytes x.a.cursor n)
    let same := decide (old = leNat (leBytes n x.d.dv.toNat))
    let t := if same then (s.releasedAt f).spadWrite (s.ownByte x.a.cursor) (leBytes n x.b.dv.toNat) false else s.releasedAt f
    (((t.acquiredAt f).writeData f.d (BitVec.ofNat 64 old)).setPred (f.imm.setWidth 3) same).reported f (f.imm.extractLsb' 4 3)) ∧
  (∀ f loc spad w, Does (.ramo f) 0x302 f f.len (fun x s => Replied s x.a (atomicWidth f) loc spad 0 w)
    fun _ s => (((s.answered loc spad).acquiredAt f).writeData f.d w).reported f (f.imm.setWidth 3)) ∧
  (∀ f s x loc spad w, Runs 0x302 f s → x = s.operands 0x302 f → Replied s x.a (atomicWidth f) loc spad 7 w → f.imm.getLsbD 3 = false →
    exec (.ramo f) s = .next ((s.answered loc spad).takeTrap 0x13 x.a.cursor)) ∧
  (∀ f, Does (.rack f) 0x304 f f.len (fun _ s => (s.requester s.myReq).owners = []) fun _ s => s) ∧
  (∀ f s, Runs 0x304 f s → (s.requester s.myReq).owners ≠ [] → s.sl.acked = false →
    ∃ t : State, exec (.rack f) s = .next t ∧ t.sl.state = .waiting (.rack f) ∧ t.sl.acked = true ∧
      ∀ o ∈ (s.requester s.myReq).owners, o.owner < 1024 → s.pathUp (reqDie s.myReq) (ownerDie o.owner) = true →
        Msg.ack o.owner s.myReq (s.requester s.myReq).done ∈ t.net) ∧
  (∀ f, Does (.rstat f) 0x305 f f.len (fun _ _ => True) fun _ s =>
    (s.modSl fun sl => { sl with rsts := sl.rsts &&& ~~~3#64 }).writeData f.d s.sl.rsts) ∧
  (∀ f s x p e, Runs 0x307 f s → x = s.operands 0x307 f → (s.core s.myCore).twin = none → p = s.myPart → s.myDie = 0 →
    x.a.dv.toNat = s.fabId.toNat + 65536 * p → p < 64 → (s.part p).freeEntry = some e →
    ∃ t : State, exec (.launch f) s = .next (s.completed 0x307 f f.len ((t.writeData f.d
        (BitVec.ofNat 64 (1 + 2 * e + 2 ^ 8 * (s.requester s.myReq).next.toNat))).reported f (f.imm.setWidth 3))) ∧
      (t.entry (p, e)).st = .queued ∧ (t.entry (p, e)).gen = (s.entry (p, e)).gen ∧ (t.entry (p, e)).packet.g0 = (s.group f.b).g0 ∧
      (t.entry (p, e)).packet.g1 = (s.group f.b).g1 ∧ pktSerial (t.entry (p, e)).packet = (s.requester s.myReq).next ∧ t.sl = s.sl) ∧
  (∀ f s x, Runs 0x307 f s → x = s.operands 0x307 f → (s.core s.myCore).twin = none → s.myDie = 0 →
    x.a.dv.toNat = s.fabId.toNat + 65536 * s.myPart → s.myPart < 64 → (s.part s.myPart).freeEntry = none →
    ∃ t : State, exec (.launch f) s = .next (s.completed 0x307 f f.len ((t.writeData f.d
        (BitVec.ofNat 64 (2 ^ 5 + 2 ^ 8 * (s.requester s.myReq).next.toNat))).reported f (f.imm.setWidth 3))) ∧ t.partitions = s.partitions) ∧
  (∀ f, Traps (.launch f) 0x307 f (fun x _ => 2 ^ 22 ≤ x.a.dv.toNat) 0x09 fun x _ => x.a.dv.toNat)

namespace Sys2Proof.Machine

/-- The core bank whose scratchpad a job's local window names, and where a byte of that window stands in `State.spad` (R296). -/
def State.jobBank (s : State) (j : Job) : Nat := bankKey (j.slot / 4) ((s.bankOf (clusterOf (j.slot / 4)) j.part).getD 0)
def State.jobByte (s : State) (j : Job) (va : Nat) : Nat :=
  j.slot / 4 * 0x18000 + (s.coreBank (s.jobBank j)).spadBase + (va - 0xFF0000000000)
/-- The bytes at `va` that the job sees. -/
def State.jobBytes (s : State) (j : Job) (va n : Nat) : List Byte := s.spad.bytes (s.jobByte j va) n

/-- The scratchpad of the issuing core is there for the engines, and is no twin's. -/
abbrev JobWindow (s : State) (j : Job) : Prop :=
  (s.coreBank (s.jobBank j)).spad ≤ 0x18000 ∧ (s.coreBank (s.jobBank j)).launch ≠ none ∧ (s.core (j.slot / 4)).stopped = false ∧
    (s.core (j.slot / 4)).twin = none ∧ s.spad.wf = true

/-- The `n` bytes from `va` lie in that window, and none of them is poisoned. -/
abbrev JobHere (s : State) (j : Job) (va n : Nat) : Prop :=
  0xFF0000000000 ≤ va ∧ va + n ≤ 0xFF0000000000 + (s.coreBank (s.jobBank j)).spad ∧ s.spadPoisoned (s.jobByte j va) n = false

/-- The job has not come to its end with writes on their way, and no write of it to another die is on its way or was lost (R296, R422). -/
abbrev Unwritten (s : State) (j : Job) : Prop :=
  j.closing = none ∧ j.parkedRows = 0 ∧ (∀ q ∈ (s.requester (s.jobReq j)).open_, q.job ≠ some j.order) ∧
    j.order ∉ (s.requester (s.jobReq j)).failed

/-- A capability field of a record admits `n` bytes from `va` (R282). -/
abbrev JobMay (c : Cap) (perm : BitVec 7) (va n : Nat) : Prop :=
  c.tag = true ∧ c.perm &&& (perm ||| 2) = perm ||| 2 ∧ c.base ≤ va ∧ va + n ≤ c.top

/-- A range that a record may read or write in the window. -/
abbrev JobRange (s : State) (j : Job) (c : Cap) (perm : BitVec 7) (va n : Nat) : Prop := JobMay c perm va n ∧ JobHere s j va n

/-- The command has finished without an error: its record has left the input, and with SIG its advance is due (R285, R290). -/
structure Finishes (s t : State) (j : Job) : Prop where
  left : t.jobs s.cur = (s.jobs s.cur).eraseIdx s.cur.index
  advance : (t.part j.part).timeline (rTlidx j.record) = { (s.part j.part).timeline (rTlidx j.record) with
    finished := ((s.part j.part).timeline (rTlidx j.record)).finished ++ (match j.pos with | some p => [⟨p, false, s.cur.holds⟩] | none => []) }

/-- The `n` scratchpad bytes at `a` of `t` are `bs`, and no other byte of memory has changed. -/
abbrev WroteOnly (s t : State) (a : Nat) (bs : List Byte) : Prop :=
  t.mem = s.mem ∧ ∀ b, t.spad.get b = if a ≤ b ∧ b < a + bs.length then bs[b - a]?.getD 0 else s.spad.get b

/-- The command has failed with `code` and ADDR: it has left the input, ERR is set with its advance or at once (R291, R293), and its engine has
reported it. -/
def FailsWith (s t : State) (j : Job) (code addr : Nat) : Prop := t = ((s.cmdRecord j s.cur.engine code addr).failAdvance j).endJob

/-- A copy command runs now, at a copy engine. -/
abbrev CopyTurn (s : State) (r : Record) (j : Job) : Prop := s.curJob r = some j ∧ Unwritten s j ∧ ∃ c i, s.cur = .copy c i

end Sys2Proof.Machine

namespace Sys2Proof.Machine

/-- A market command runs now: its job stands first among those of its lots (R351). -/
abbrev MarketTurn (s : State) (r : Record) (j : Job) : Prop := s.curJob r = some j ∧ Unwritten s j ∧ s.lotBusy r = false ∧ s.cur = .market s.cur.die s.cur.index

/-- The lot that a record names, of the die of the engine, is the partition's, which has not ended (R350). -/
abbrev OwnsLot (s : State) (r : Record) (j : Job) : Prop := (s.lot (rLot r)).owner = some j.part ∧ (s.lot (rLot r)).ending = false

/-- The lot `n` of the die of the market engine of `s`, read in `t`. -/
def State.lotIn (s t : State) (n : Nat) : Lot := (t.die s.cur.die).lot n

/-- Bits of a list of bytes as one number. -/
def numberAt (bs : List Byte) (lo n : Nat) : Nat := leNat bs / 2 ^ lo % 2 ^ n

/-- The affinities of a lot's pending tokens for the experts with seats, as its auction reads them (R354, R358). -/
def State.affinities (s : State) (j : Job) (l : Lot) : List (List Int) :=
  (rowAddrs l.pending).map fun va => (List.range l.e).map fun k =>
    if l.cap k = 0 then 0 else (BitVec.ofNat 16 (leNat (s.jobBytes j (va + 2 * k) 2))).toInt

end Sys2Proof.Machine

/-- R349 to R365: what the commands of the market engine do to a lot that their partition owns, and what they write. The corners of failed auctions
are the model's choices (log 12, log 35). -/
def Obligations.MarketCommands : Prop :=
  (∀ r s j e k lim eps, MarketTurn s r j → e = Record.bits r.g0 64 10 → k = Record.bits r.g0 74 4 → lim = Record.bits r.g0 80 12 →
    eps = Record.bits r.g0 96 32 → ((s.lot (rLot r)).owner = none ∨ OwnsLot s r j) → 1 ≤ e → e ≤ 512 → 1 ≤ k → k ≤ 8 → 1 ≤ lim →
    1 ≤ eps → eps < 2 ^ 31 →
    ∃ t : State, exec (.mktcfgSetup r) s = .next t ∧ Finishes s t j ∧ t.mem = s.mem ∧ t.spad = s.spad ∧
      (s.lotIn t (rLot r)).owner = some j.part ∧ (s.lotIn t (rLot r)).e = e ∧ (s.lotIn t (rLot r)).k = k ∧
      (s.lotIn t (rLot r)).surplus = r.g0.val.getLsbD 78 ∧ (s.lotIn t (rLot r)).roundLim = lim ∧ (s.lotIn t (rLot r)).eps.toNat = eps ∧
      (OwnsLot s r j → risingFrom 0 (s.lot (rLot r)).prices = true → ∀ i, i < e → (s.lotIn t (rLot r)).price i = (s.lot (rLot r)).price i)) ∧
  (∀ r s j l, MarketTurn s r j → JobWindow s j → OwnsLot s r j → l = s.lot (rLot r) → JobRange s j r.g1 64 r.g1.cursor (4 * l.e) →
    (∀ i, i < l.e → leNat (s.jobBytes j (r.g1.cursor + 4 * i) 4) ≤ 65536) →
    ∃ t : State, exec (.mktcfgCaps r) s = .next t ∧ Finishes s t j ∧ t.spad = s.spad ∧
      ∀ i, i < l.e → (s.lotIn t (rLot r)).cap i = leNat (s.jobBytes j (r.g1.cursor + 4 * i) 4)) ∧
  (∀ r s j, MarketTurn s r j → OwnsLot s r j → r.g1.tag = true → r.g1.perm &&& 34 = 34 → r.g2.tag = true → r.g2.perm &&& 34 = 34 →
    r.g3.tag = true → r.g3.perm &&& 66 = 66 →
    ∃ t : State, exec (.mktcfgBuffers r) s = .next t ∧ Finishes s t j ∧ t.spad = s.spad ∧ s.lotIn t (rLot r) = { s.lot (rLot r) with
      asgn := r.g1, park := r.g2, rtab := r.g3, pidxOff := Record.bits r.g0 64 32 }) ∧
  (∀ r s j, MarketTurn s r j → OwnsLot s r j →
    ∃ t : State, exec (.mktcfgRelease r) s = .next t ∧ Finishes s t j ∧ (s.lotIn t (rLot r)).owner = none ∧ (s.lotIn t (rLot r)).auctNo = 0) ∧
  (∀ r s j l u, MarketTurn s r j → JobWindow s j → OwnsLot s r j → l = s.lot (rLot r) →
    u = ⟨Record.bits r.g0 64 17, (r.g0.val.extractLsb' 96 32).toInt, r.g1⟩ → 1 ≤ u.ntok → u.ntok ≤ 65536 → u.astride % 2 = 0 →
    JobMay r.g1 64 (u.foot l.e).1.toNat (u.foot l.e).2 → 0 ≤ (u.foot l.e).1 → JobRange s j r.g2 32 r.g2.cursor 16 →
    s.auctAhead (rLot r) = false → l.pending.length < 16 → (tokensOf l.pending + u.ntok) * l.k ≤ 65536 → 1 ≤ l.k →
    ∃ t : State, exec (.mktsub r) s = .next t ∧ Finishes s t j ∧ s.lotIn t (rLot r) = { l with pending := l.pending ++ [u] } ∧
      WroteOnly s t (s.jobByte j r.g2.cursor) (leBytes 16 (tokensOf l.pending * 2 ^ 16 + (l.auctNo + 1).toNat * 2 ^ 32))) ∧
  (∀ r s j l, MarketTurn s r j → OwnsLot s r j → l = s.lot (rLot r) → Record.bits r.g0 40 8 = 0 → l.pending = [] → rOpcode r = 0x32 →
    ∃ t : State, exec (.auct r) s = .next t ∧ Finishes s t j ∧ t.spad = s.spad ∧ (s.lotIn t (rLot r)).auctNo = l.auctNo + 1 ∧
      (s.lotIn t (rLot r)).pending = l.late ∧ (s.lotIn t (rLot r)).late = [] ∧ (s.lotIn t (rLot r)).rounds = 0) ∧
  (∀ (r : Record) (s : State) (j : Job) (l : Lot) (x : AuctionIn) (o : AuctionOut), MarketTurn s r j → JobWindow s j → OwnsLot s r j → l = s.lot (rLot r) → Record.bits r.g0 40 8 = 0 → rOpcode r = 0x32 →
    1 ≤ tokensOf l.pending → lotFills l = true → lotCaps l = none → JobHere s j l.asgn.cursor (4 * tokensOf l.pending * l.k) →
    (∀ va ∈ rowAddrs l.pending, JobHere s j va (2 * l.e)) → x = ⟨l.k, (List.range l.e).map l.cap, l.eps.toInt, s.affinities j l⟩ →
    o = x.run l.roundLim ((List.range l.e).map l.price) → o.fallback = [] →
    ∃ t : State, exec (.auct r) s = .next t ∧ Finishes s t j ∧ (s.lotIn t (rLot r)).auctNo = l.auctNo + 1 ∧
      (s.lotIn t (rLot r)).pending = l.late ∧ (s.lotIn t (rLot r)).rounds = o.rounds ∧
      (∀ i, i < l.e → (s.lotIn t (rLot r)).price i = (BitVec.ofInt 32 (o.prices.getD i 0)).toInt) ∧
      WroteOnly s t (s.jobByte j l.asgn.cursor) ((List.range (tokensOf l.pending * l.k)).flatMap fun i => leBytes 4 (o.entry i).toNat)) ∧
  (∀ r s j l m, MarketTurn s r j → OwnsLot s r j → l = s.lot (rLot r) → (∃ i, i < l.e ∧ l.price i = m) → (∀ i, i < l.e → m ≤ l.price i) →
    ∃ t : State, exec (.mktnorm r) s = .next t ∧ Finishes s t j ∧ t.spad = s.spad ∧
      ∀ i, i < l.e → (s.lotIn t (rLot r)).price i = min 0x7FFFFFFF (l.price i - m)) ∧
  (∀ r s j l, MarketTurn s r j → JobWindow s j → OwnsLot s r j → l = s.lot (rLot r) → JobRange s j r.g1 64 r.g1.cursor (4 * l.e) →
    ∃ t : State, exec (.mktwrp r) s = .next t ∧ Finishes s t j ∧ t.spad = s.spad ∧
      ∀ i, i < l.e → (s.lotIn t (rLot r)).price i = (BitVec.ofNat 32 (leNat (s.jobBytes j (r.g1.cursor + 4 * i) 4))).toInt) ∧
  (∀ r s j l, MarketTurn s r j → JobWindow s j → OwnsLot s r j → l = s.lot (rLot r) → JobRange s j r.g1 32 r.g1.cursor (4 * l.e) →
    ∃ t : State, exec (.mktrdp r) s = .next t ∧ Finishes s t j ∧ s.lotIn t (rLot r) = l ∧
      WroteOnly s t (s.jobByte j r.g1.cursor) ((List.range l.e).flatMap fun i => leBytes 4 (BitVec.ofInt 32 (l.price i)).toNat)) ∧
  (∀ r s j l, MarketTurn s r j → JobWindow s j → OwnsLot s r j → l = s.lot (rLot r) → JobRange s j r.g1 32 r.g1.cursor 64 →
    ∃ (t : State) (bs : List Byte), exec (.mktstat r) s = .next t ∧ Finishes s t j ∧ s.lotIn t (rLot r) = l ∧ bs.length = 64 ∧
      WroteOnly s t (s.jobByte j r.g1.cursor) bs ∧ numberAt bs 0 32 = l.auctNo.toNat ∧ numberAt bs 32 16 = l.rounds % 65536 ∧
      numberAt bs 64 32 = l.fallback % 2 ^ 32 ∧ numberAt bs 96 32 = l.dups % 2 ^ 32 ∧ numberAt bs 128 32 = l.parked % 2 ^ 32 ∧
      numberAt bs 160 32 = tokensOf l.pending % 2 ^ 32 ∧ numberAt bs 192 32 = tokensOf l.late % 2 ^ 32 ∧
      numberAt bs 224 8 = l.pending.length % 256 ∧ numberAt bs 232 8 = l.late.length % 256 ∧
      numberAt bs 240 1 = (s.auctAhead (rLot r)).toNat ∧ numberAt bs 241 1 = l.lastFail.toNat ∧ numberAt bs 256 10 = l.e % 1024 ∧
      numberAt bs 266 4 = l.k % 16 ∧ numberAt bs 270 1 = l.surplus.toNat ∧ numberAt bs 272 12 = l.roundLim % 4096 ∧ numberAt bs 288 32 = l.eps.toNat)

/-- An auction that has seats for every bidder seats each of them exactly once, and no expert beyond its capacity, whatever the affinities, the
prices and the limit of rounds (R356 to R360). The statement derives from the algorithm; the spec does not say it in one sentence. -/
def Obligations.AuctionsSeatEveryBidderOnce : Prop :=
  ∀ (x : AuctionIn) (limit : Nat) (prices : List Int), 1 ≤ x.k → prices.length = x.caps.length → x.aff.length * x.k ≤ x.caps.sum →
    let o := x.run limit prices
    o.hold.length = x.caps.length ∧
    (∀ e, e < x.caps.length → (o.hold.getD e []).length ≤ x.caps.getD e 0) ∧
    (∀ i, i < x.aff.length * x.k → ((o.hold.flatMap fun h => h).filter fun b => b.bidder = i).length = 1) ∧
    (∀ i ∈ o.fallback, i < x.aff.length * x.k) ∧ o.rounds ≤ limit

namespace Sys2Proof.Machine

/-- A DISPATCH of one token with one copy that may start: its lot, its row of `w` bytes, its assignment entry `a`, and the residence entry of the
expert that the entry names (R300, R360, R366). -/
structure OneToken (s : State) (r : Record) (j : Job) (l : Lot) (w a : Nat) (buf : Cap) (place : Nat) : Prop where
  job : s.curJob r = some j ∧ Unwritten s j ∧ j.started = false ∧ s.cur = .dispatch s.cur.die s.cur.index
  window : JobWindow s j
  lot : l = s.lot (Record.bits r.g0 64 8) ∧ l.owner = some j.part ∧ l.ending = false
  fields : w = Record.bits r.g0 32 32 ∧ w % 16 = 0 ∧ 1 ≤ w ∧ w ≤ 65536 ∧ Record.bits r.g0 72 17 = 1 ∧ Record.bits r.g0 89 4 = 1 ∧
    3 ≤ ((s.part j.part).timeline (rTlidx r)).scope.toNat
  rows : JobRange s j r.g1 64 r.g1.cursor w
  entry : JobRange s j r.g2 64 r.g2.cursor 4 ∧ a = leNat (s.jobBytes j r.g2.cursor 4)
  residence : JobRange s j l.rtab 64 (l.rtab.cursor + 32 * (a / 2 ^ 16 % 512)) 32 ∧ l.rtab.cursor % 16 = 0 ∧ s.jobByte j l.rtab.cursor % 16 = 0 ∧
    buf = ⟨BitVec.ofNat 128 (leNat (s.jobBytes j (l.rtab.cursor + 32 * (a / 2 ^ 16 % 512)) 16)),
      s.spad.tag (s.jobByte j (l.rtab.cursor + 32 * (a / 2 ^ 16 % 512)) / 16)⟩ ∧
    place = leNat (s.jobBytes j (l.rtab.cursor + 32 * (a / 2 ^ 16 % 512) + 16) 16)

end Sys2Proof.Machine

/-- R282, R285, R296 to R298, R300, R366: CPY, CPYX, GATH and SCAT over the scratchpad of the issuing core, with sources apart from destinations;
a capability that does not admit its range fails the command before any byte is written. A token whose expert is resident goes to the die of
the expert as a packet, and the ingress there writes its row at its seat; one whose expert is not resident is parked with its index, and the
command reports it. The address that a failure reports is in part the model's choice (log 34). -/
def Obligations.CopyAndDispatchCommands : Prop :=
  (∀ r s j n src dst, CopyTurn s r j → JobWindow s j → n = Record.bits r.g3 0 64 → src = r.g1.cursor → dst = r.g2.cursor →
    JobRange s j r.g1 64 src n → JobRange s j r.g2 32 dst n → (src + n ≤ dst ∨ dst + n ≤ src) →
    ∃ t : State, exec (.cpy r) s = .next t ∧ Finishes s t j ∧ WroteOnly s t (s.jobByte j dst) (s.jobBytes j src n)) ∧
  (∀ r s j n, CopyTurn s r j → n = Record.bits r.g3 0 64 → n ≠ 0 → ¬JobMay r.g1 64 r.g1.cursor n →
    ∃ t : State, exec (.cpy r) s = .next t ∧ FailsWith s t j 2 r.g1.cursor) ∧
  (∀ (r : Record) (s : State) (j : Job) (rank size : Nat) (dims : List Dim) (d : Nat), CopyTurn s r j → JobWindow s j → d = r.g3.cursor → JobRange s j r.g3 64 d (8 + 24 * rank) →
    rank = leNat (s.jobBytes j d 8) % 16 → size = 2 ^ (leNat (s.jobBytes j d 8) / 256 % 8) → 1 ≤ rank → rank ≤ 9 →
    leNat (s.jobBytes j d 8) / 256 % 8 ≤ 4 → dims = (List.range rank).map (dimOf (s.jobBytes j (d + 8) (24 * rank))) →
    (∀ q ∈ dims, 1 ≤ q.extent ∧ q.extent ≤ 2 ^ 32) →
    (∀ lo n, footOf r.g1.cursor size (dims.map fun q => (q.extent, q.sstride)) = ((lo : Int), n) → JobRange s j r.g1 64 lo.toNat n ∧ 0 ≤ lo) →
    (∀ lo n, footOf r.g2.cursor size (dims.map fun q => (q.extent, q.dstride)) = ((lo : Int), n) → JobRange s j r.g2 32 lo.toNat n ∧ 0 ≤ lo) →
    (dimOffsets dims).Pairwise (fun p q => p.2 + (size : Int) ≤ q.2 ∨ q.2 + (size : Int) ≤ p.2) →
    (∀ p ∈ dimOffsets dims, ∀ q ∈ dimOffsets dims, r.g1.cursor + p.1 + size ≤ r.g2.cursor + q.2 ∨ r.g2.cursor + q.2 + size ≤ r.g1.cursor + p.1) →
    ∃ t : State, exec (.cpyx r) s = .next t ∧ Finishes s t j ∧ t.mem = s.mem ∧
      (∀ p ∈ dimOffsets dims, t.spad.bytes (s.jobByte j ((r.g2.cursor : Int) + p.2).toNat) size =
        s.jobBytes j ((r.g1.cursor : Int) + p.1).toNat size) ∧
      ∀ a, (∀ p ∈ dimOffsets dims, a < s.jobByte j ((r.g2.cursor : Int) + p.2).toNat ∨
        s.jobByte j ((r.g2.cursor : Int) + p.2).toNat + size ≤ a) → t.spad.get a = s.spad.get a) ∧
  (∀ (r : Record) (s : State) (j : Job) (w n table dense : Nat) (idx : Nat → Nat), CopyTurn s r j → JobWindow s j → w = Record.bits r.g0 32 32 → n = Record.bits r.g0 64 64 →
    table = r.g1.cursor → dense = r.g2.cursor → idx = (fun k => leNat (s.jobBytes j (r.g3.cursor + 4 * k) 4)) →
    1 ≤ w → w ≤ 2 ^ 24 → n ≤ 2 ^ 32 → JobRange s j r.g3 64 r.g3.cursor (4 * n) → JobRange s j r.g2 32 dense (n * w) → JobMay r.g1 64 table 0 →
    (∀ k, k < n → JobRange s j r.g1 64 (table + idx k * w) w ∧ (table + idx k * w + w ≤ dense ∨ dense + n * w ≤ table + idx k * w)) →
    ∃ t : State, exec (.gath r) s = .next t ∧ Finishes s t j ∧
      WroteOnly s t (s.jobByte j dense) ((List.range n).flatMap fun k => s.jobBytes j (table + idx k * w) w)) ∧
  (∀ (r : Record) (s : State) (j : Job) (w n table dense : Nat) (idx : Nat → Nat), CopyTurn s r j → JobWindow s j → w = Record.bits r.g0 32 32 → n = Record.bits r.g0 64 64 →
    table = r.g2.cursor → dense = r.g1.cursor → idx = (fun k => leNat (s.jobBytes j (r.g3.cursor + 4 * k) 4)) →
    1 ≤ w → w ≤ 2 ^ 24 → n ≤ 2 ^ 32 → JobRange s j r.g3 64 r.g3.cursor (4 * n) → JobRange s j r.g1 64 dense (n * w) → JobMay r.g2 32 table 0 →
    (∀ k, k < n → JobRange s j r.g2 32 (table + idx k * w) w ∧ (table + idx k * w + w ≤ dense ∨ dense + n * w ≤ table + idx k * w)) →
    (∀ k l, k < n → l < n → idx k = idx l → k = l) →
    ∃ t : State, exec (.scat r) s = .next t ∧ Finishes s t j ∧ t.mem = s.mem ∧
      (∀ k, k < n → t.spad.bytes (s.jobByte j (table + idx k * w)) w = s.jobBytes j (dense + k * w) w) ∧
      ∀ a, (∀ k, k < n → a < s.jobByte j (table + idx k * w) ∨ s.jobByte j (table + idx k * w) + w ≤ a) → t.spad.get a = s.spad.get a) ∧
  (∀ r s j, CopyTurn s r j → (Record.bits r.g0 32 32 = 0 ∨ 2 ^ 24 < Record.bits r.g0 32 32) →
    (∃ t : State, exec (.gath r) s = .next t ∧ FailsWith s t j 1 0) ∧ ∃ t : State, exec (.scat r) s = .next t ∧ FailsWith s t j 1 0) ∧
  (∀ r s j l w a buf place, OneToken s r j l w a buf place → (buf.tag = false ∨ place % 2 = 0) →
    JobRange s j l.park 32 l.park.cursor w → JobRange s j l.park 32 (l.park.cursor + l.pidxOff) 4 → w ≤ l.pidxOff →
    ∃ t : State, exec (.dispatch r) s = .next t ∧ t.jobs s.cur = (s.jobs s.cur).eraseIdx s.cur.index ∧
      (s.lotIn t (Record.bits r.g0 64 8)).parked = 1 ∧ t.spad.bytes (s.jobByte j l.park.cursor) w = s.jobBytes j r.g1.cursor w ∧
      leNat (t.spad.bytes (s.jobByte j (l.park.cursor + l.pidxOff)) 4) = a / 2 ^ 16 % 512 * 2 ^ 16) ∧
  (∀ r s j l w a buf place, OneToken s r j l w a buf place → buf.tag = true → place % 2 = 1 →
    ∃ (t : State) (p : Packet) (k : Job), exec (.dispatch r) s = .next t ∧ t.jobs s.cur = (s.jobs s.cur).set s.cur.index k ∧ k.started = true ∧
      k.packets = [p] ∧ p.die = place / 2 % 8 ∧ p.data = s.jobBytes j r.g1.cursor w ∧ p.rowBytes = w ∧ p.dest = [(buf, a % 2 ^ 16)] ∧
      t.spad = s.spad ∧ (s.pathUp s.cur.die p.die = true → Msg.row s.cur.die j.order p s.now ∈ t.net)) ∧
  (∀ s d i j p buf seat sent va, s.net[s.arg.a]? = some (.row d j.order p sent) → (s.die d).dispatch[i]? = some j →
    (∀ k, k < i → ∀ q, (s.die d).dispatch[k]? = some q → q.order ≠ j.order) → j.packets = [p] → p.dest = [(buf, seat)] → j.parkedRows = 0 →
    true ∉ p.poison → Unwritten { s with cur := .dispatch d i } j → va = buf.cursor + seat * p.rowBytes → p.data.length = p.rowBytes → 1 ≤ p.rowBytes → JobWindow s j →
    JobRange s j buf 32 va p.rowBytes →
    ∃ t : State, exec .dispatchIngress s = .next t ∧ (t.die d).dispatch = (s.die d).dispatch.eraseIdx i ∧ t.net = s.net.eraseIdx s.arg.a ∧
      WroteOnly s t (s.jobByte j va) p.data)

namespace Sys2Proof.Machine

/-- The command of a record stands at the head of the matrix queue of a core without a twin, and its step is now. -/
structure MxTurn (s : State) (r : Record) (j : Job) (core : Nat) : Prop where
  job : s.curJob r = some j ∧ Unwritten s j
  place : s.cur = .matrix core ∧ j.slot / 4 = core
  twin : (s.core core).twin = none

/-- One slice of `total` has run: after the last one the command has finished, before it the head waits for its next slice (R313, R314). -/
def MxSlice (s t : State) (j : Job) (total : Nat) : Prop :=
  if total ≤ j.slice + 1 then Finishes s t j
  else ∃ k : Job, t.jobs s.cur = k :: (s.jobs s.cur).drop 1 ∧ k.record = j.record ∧ k.pos = j.pos ∧ k.slice = j.slice + 1 ∧ k.started = true ∧
    (t.part j.part).timeline (rTlidx j.record) = (s.part j.part).timeline (rTlidx j.record)

/-- A row of the slice that runs (R314). -/
abbrev InSlice (j : Job) (row rows : Nat) : Prop := row / 16 = j.slice ∧ row < rows

/-- The maps of the engine are in their canonical order. -/
def MxRising (s : State) (core : Nat) : Prop :=
  (∀ k, k < 4 → risingFrom 0 (s.mxTile core k).elems = true ∧ risingFrom 0 (s.mxTile core k).scales = true) ∧
  (∀ k, k < 2 → risingFrom 0 (s.mxAcc core k).elems = true) ∧
  risingFrom 0 (s.mxWeights core).elems = true ∧ risingFrom 0 (s.mxWeights core).scales = true

/-- The code and the scale of a tile register. -/
def State.tileCode (s : State) (core k row c : Nat) : Nat := (look (s.mxTile core k).elems (512 * row + c)).getD 0
def State.tileScale (s : State) (core k row b : Nat) : Nat := (look (s.mxTile core k).scales (16 * row + b)).getD 0

/-- A tile, or a pair of tiles joined along their columns, that a product may read: each written under the control in force (R310, R317). -/
structure TileOperand (s : State) (core k : Nat) (pair : Bool) (o : Oper) : Prop where
  typed : tileType (s.mxCtl core k) ≠ 0
  first : (s.mxTile core k).ctl = s.mxCtl core k ∧ (s.mxTile core k).poison = []
  joined : pair = true → k % 2 = 0 ∧ tileType (s.mxCtl core (k + 1)) = tileType (s.mxCtl core k) ∧
    tileRows (s.mxCtl core (k + 1)) = tileRows (s.mxCtl core k) ∧ (s.mxTile core (k + 1)).ctl = s.mxCtl core (k + 1) ∧
    (s.mxTile core (k + 1)).poison = []
  is : o = ⟨tileType (s.mxCtl core k), tileRows (s.mxCtl core k), tileCols (s.mxCtl core k) + (if pair then tileCols (s.mxCtl core (k + 1)) else 0),
    s.mxTile core k, if pair then s.mxTile core (k + 1) else {}⟩

/-- The weight block admits a product at its first slice (R326): `cols` is the length of the reduction, `G` its group. -/
def WeightsFit (r : Record) (o : Oper) (w : Weights) (transposed : Bool) : Prop :=
  w.typ ≠ 0 ∧ classOf o.typ = classOf w.typ.toNat ∧ (xKey r = 0 ∨ xKey r = w.key.toNat) ∧
  (if transposed then o.cols = w.n ∧ w.n % groupOf o.typ = 0 ∧ 64 * xKblk r < w.k else o.cols = w.k)

/-- The accumulators that a product reads are not poisoned. -/
abbrev AccsClean (s : State) (core : Nat) : Prop := ∀ k, k < 2 → (s.mxAcc core k).poison = []

end Sys2Proof.Machine

/-- R314, R317 to R320, R325: MZERO, MWLOAD, MMA, MMAT and MSIG, one slice of at most 16 rows at a step. -/
def Obligations.MatrixProducts : Prop :=
  (∀ r s j core, MxTurn s r j core → MxRising s core →
    ∃ t : State, exec (.mzero r) s = .next t ∧ MxSlice s t j (if Record.bits r.g0 32 2 = 0 then 0 else 4) ∧
      ∀ k row c, k < 2 → c < 64 → t.accAt core k row c =
        if r.g0.val.getLsbD (32 + k) = true ∧ InSlice j row 64 then 0 else s.accAt core k row c) ∧
  (∀ r s j core o, MxTurn s r j core → MxRising s core → TileOperand s core (xTile r) (xPair r) o → 1 ≤ o.rows → o.cols ≤ kLimit o.typ →
    (1 ≤ j.slice → (s.mxWeights core).k = o.cols) →
    ∃ t : State, exec (.mwload r) s = .next t ∧ MxSlice s t j ((o.rows + 15) / 16) ∧
      (j.slice = 0 → (t.mxWeights core).typ.toNat = o.typ ∧ (t.mxWeights core).key.toNat = xKey r ∧ (t.mxWeights core).n = o.rows ∧
        (t.mxWeights core).k = o.cols) ∧
      (∀ n k, InSlice j n o.rows → k < o.cols → (t.mxWeights core).code k n = o.code n k) ∧
      (isBlock o.typ = true → o.cols % 32 = 0 → ∀ n b, InSlice j n o.rows → b < o.cols / 32 → (t.mxWeights core).scale (32 * b) n = o.scale n b) ∧
      (∀ n k, n / 16 < j.slice → k < o.cols → (t.mxWeights core).code k n = (s.mxWeights core).code k n)) ∧
  (∀ r s j core o w, MxTurn s r j core → MxRising s core → TileOperand s core (xTile r) (xPair r) o → w = s.mxWeights core → w.poison = [] →
    AccsClean s core → w.n ≤ 64 → (j.slice = 0 → WeightsFit r o w false) →
    ∃ t : State, exec (.mma r) s = .next t ∧ MxSlice s t j ((o.rows + 15) / 16) ∧ t.mxWeights core = w ∧
      ∀ k row c, k < 2 → c < 64 → t.accAt core k row c =
        if k = xDsta r ∧ InSlice j row o.rows ∧ c < w.n then mmaElem o w row c (if xAcc r then s.accAt core k row c else 0)
        else s.accAt core k row c) ∧
  (∀ r s j core o w, MxTurn s r j core → MxRising s core → TileOperand s core (xTile r) false o → w = s.mxWeights core → w.poison = [] →
    AccsClean s core → xDsta r + xNacc r ≤ 1 → (j.slice = 0 → WeightsFit r o w true) →
    ∃ t : State, exec (.mmat r) s = .next t ∧ MxSlice s t j ((o.rows + 15) / 16) ∧ t.mxWeights core = w ∧
      ∀ k row c, k < 2 → c < 64 → t.accAt core k row c =
        if xDsta r ≤ k ∧ InSlice j row o.rows ∧ 64 * (k - xDsta r) + c < min (64 * (xNacc r + 1)) (w.k - 64 * xKblk r)
        then mmatElem o w row (64 * xKblk r + (64 * (k - xDsta r) + c)) (if xAcc r then s.accAt core k row c else 0)
        else s.accAt core k row c) ∧
  (∀ r s j core, MxTurn s r j core →
    ∃ t : State, exec (.msig r) s = .next t ∧ Finishes s t j ∧ t.mem = s.mem ∧ t.spad = s.spad ∧ ∀ k, k < 2 → t.mxAcc core k = s.mxAcc core k)

namespace Sys2Proof.Machine

/-- What the writes `l`, made in order by a command of the job, leave at byte `b` of the scratchpads. -/
def State.afterWrites (s : State) (j : Job) (l : List (Nat × List Byte)) (b : Nat) : Byte :=
  l.foldl (fun v w => if s.jobByte j w.1 ≤ b ∧ b < s.jobByte j w.1 + w.2.length then w.2[b - s.jobByte j w.1]?.getD 0 else v) (s.spad.get b)

/-- The rows of a strided operand lie in the window of the issuing core, and so does its scale stream (R321). -/
structure RowsHere (s : State) (j : Job) (r : Record) (perm : BitVec 7) (rows rowBytes scaleBytes : Nat) : Prop where
  aligned : r.g1.cursor % 16 = 0 ∧ xStride r % 16 = 0
  inside : ∀ lo n, footOf r.g1.cursor rowBytes [(rows, xStride r)] = ((lo : Int), n) → 0 ≤ lo ∧ JobRange s j r.g1 perm lo.toNat n
  scales : scaleBytes ≠ 0 → JobRange s j r.g1 perm (r.g1.cursor + xScaleOff r) (rows * scaleBytes)

/-- The address of a row and of its scale bytes (R321). -/
def rowVa (r : Record) (row : Nat) : Nat := ((r.g1.cursor : Int) + (row : Int) * xStride r).toNat
def scaleVa (r : Record) (row n : Nat) : Nat := r.g1.cursor + xScaleOff r + row * n

/-- Codes of `bits` bits packed from the lowest bit on (R102). -/
def packed (bits : Nat) (codes : List Nat) : List Byte :=
  leBytes ((codes.length * bits + 7) / 8) ((codes.mapIdx fun c v => v % 2 ^ bits * 2 ^ (bits * c)).sum)

/-- The rows of the slice that runs. -/
def rowsOf (j : Job) (rows : Nat) : List Nat := (List.range rows).filter fun row => row / 16 = j.slice

/-- The generators of a drain at its slice (R118, R324). -/
def Job.drainGens (j : Job) (r : Record) : Vector (BitVec 32) 64 := if j.started then j.gens else seedDerive (dSeed r)

/-- The rows of a drain's slice: conversion of the accumulator rows, or of what the projector makes of them, in row order (R324). -/
def State.drained (s : State) (core : Nat) (r : Record) (j : Job) : DrainOut :=
  (rowsOf j (dRows r)).foldl (fun d row => drainOne r ((List.range (dCols r)).map (s.accAt core (dSrca r) row)) row d) { gens := j.drainGens r }

/-- The destination and the records of a drain lie in the window (R323, R332). -/
structure DrainHere (s : State) (core : Nat) (j : Job) (r : Record) : Prop where
  clean : AccsClean s core
  valid : drainBad s core r = false
  rows : dPmode r ≠ 1 → dTile r = false →
    RowsHere s j r 32 (dRows r) ((dCols r * elemBits (dType r) + 7) / 8) (if isBlock (dType r) then dCols r / 32 else 0)
  records : dPset r ≠ 0 → JobRange s j r.g2 32 r.g2.cursor ((if dPmode r = 1 then 16 else 32) * dRows r)

/-- What a slice of a drain does: its rows and records are written in row order, or its rows enter the tile. -/
def Drains (s t : State) (core : Nat) (r : Record) (j : Job) : Prop :=
  MxSlice s t j ((dRows r + 15) / 16) ∧ (xSite r = 0 → t.mem = s.mem) ∧ (∀ b, t.spad.get b = s.afterWrites j (s.drained core r j).out b) ∧
  (∀ k, k < 2 → t.mxAcc core k = s.mxAcc core k) ∧
  (dTile r = true → dPmode r ≠ 1 → ∀ row c, InSlice j row (dRows r) → c < dCols r →
    t.tileCode core (dDtk r) row c = (((s.drained core r j).rows.find? fun p => p.1 = row).map fun p => p.2.1.getD c 0).getD 0)

end Sys2Proof.Machine

/-- R321 to R324, R331 to R346: MLDT, MSTT, MLDA, MDRAIN with its projector and MADJ over the scratchpad of the issuing core, one slice of at
most 16 rows at a step. -/
def Obligations.MatrixTransfers : Prop :=
  (∀ r s j core c n, MxTurn s r j core → JobWindow s j → MxRising s core → c = s.mxCtl core (xTile r) → tileType c ≠ 0 → 1 ≤ tileRows c →
    n = (if isBlock (tileType c) then tileCols c / 32 else 0) → tileCols c ≤ 512 → n ≤ 16 →
    RowsHere s j r 64 (tileRows c) ((tileCols c * elemBits (tileType c) + 7) / 8) n →
    ∃ t : State, exec (.mldt r) s = .next t ∧ MxSlice s t j ((tileRows c + 15) / 16) ∧ t.spad = s.spad ∧
      (∀ row k, InSlice j row (tileRows c) → k < tileCols c → t.tileCode core (xTile r) row k =
        leNat (s.jobBytes j (rowVa r row) ((tileCols c * elemBits (tileType c) + 7) / 8)) / 2 ^ (elemBits (tileType c) * k) %
          2 ^ elemBits (tileType c)) ∧
      (∀ row b, InSlice j row (tileRows c) → b < n → t.tileScale core (xTile r) row b = leNat (s.jobBytes j (scaleVa r row n + b) 1)) ∧
      (j.slice = 0 → (t.mxTile core (xTile r)).ctl = c) ∧ ∀ k, k < 4 → k ≠ xTile r → t.mxTile core k = s.mxTile core k) ∧
  (∀ r s j core o n, MxTurn s r j core → JobWindow s j → TileOperand s core (xTile r) false o → n = (if isBlock o.typ then o.cols / 32 else 0) →
    1 ≤ o.rows → RowsHere s j r 32 o.rows ((o.cols * elemBits o.typ + 7) / 8) n →
    ∃ t : State, exec (.mstt r) s = .next t ∧ MxSlice s t j ((o.rows + 15) / 16) ∧ t.mem = s.mem ∧
      ∀ b, t.spad.get b = s.afterWrites j ((rowsOf j o.rows).flatMap fun row =>
        [(rowVa r row, packed (elemBits o.typ) ((List.range o.cols).map (o.code row))),
         (scaleVa r row n, (List.range n).map fun k => BitVec.ofNat 8 (o.scale row k))]) b) ∧
  (∀ r s j core, MxTurn s r j core → JobWindow s j → MxRising s core → 1 ≤ aRows r → aRows r ≤ 64 → 1 ≤ aCols r → aCols r ≤ 64 →
    RowsHere s j r 64 (aRows r) (4 * aCols r) 0 →
    ∃ t : State, exec (.mlda r) s = .next t ∧ MxSlice s t j ((aRows r + 15) / 16) ∧ t.spad = s.spad ∧
      ∀ k row c, k < 2 → c < 64 → t.accAt core k row c =
        if k = dSrca r ∧ InSlice j row (aRows r) ∧ c < aCols r then leNat (s.jobBytes j (rowVa r row + 4 * c) 4) else s.accAt core k row c) ∧
  (∀ r s j core, MxTurn s r j core → JobWindow s j → MxRising s core → DrainHere s core j r →
    (∃ t : State, exec (.mdrain r) s = .next t ∧ Drains s t core r j) ∧ (∃ t : State, exec (.mdrainEval r) s = .next t ∧ Drains s t core r j) ∧
    ∃ t : State, exec (.mdrainApply r) s = .next t ∧ Drains s t core r j) ∧
  (∀ (r : Record) (s : State) (j : Job) (core n : Nat) (q m : Nat → Nat) (ys : Nat → List (Bool × Machine.Num)), MxTurn s r j core → JobWindow s j → MxRising s core → AccsClean s core → adjBad r = false → n = jCols r →
    (jPset r = 2 ∨ jPset r = 3 → RowsHere s j r 64 (jRows r) (n * elemBytes (jYtype r)) 0) →
    JobRange s j r.g2 64 r.g2.cursor (16 * jRows r) → q = (fun row => leNat (s.jobBytes j (r.g2.cursor + 16 * row) 16)) →
    (∀ row, row < jRows r → recSet (q row) = jPset r ∧ recMode (q row) ≠ 1 ∧ recCount (q row) ≤ n ∧ JobRange s j r.g2 64 (recMptr (q row)) 16) →
    m = (fun row => leNat (s.jobBytes j (recMptr (q row)) 16)) →
    ys = (fun row => (List.range n).map fun k =>
      let y := leNat (s.jobBytes j (rowVa r row + elemBytes (jYtype r) * k) (elemBytes (jYtype r)))
      (y.testBit (elemBits (jYtype r) - 1), decodeElem (jYtype r) y)) →
    ∃ t : State, exec (.madj r) s = .next t ∧ MxSlice s t j ((jRows r + 15) / 16) ∧ t.spad = s.spad ∧
      ∀ k row c, k < 2 → c < 64 → t.accAt core k row c =
        if dSrca r ≤ k ∧ InSlice j row (jRows r) ∧ 64 * (k - dSrca r) + c < n
        then (madjRow (jPset r) ((List.range n).map (s.accAt core (dSrca r) row)) (q row) (m row)
          (if needsY (jPset r) (q row) then ys row else []) (dP1 r)).getD (64 * (k - dSrca r) + c) 0
        else s.accAt core k row c)

/-- R285, R291, R313 to R316, R326, R328, R307: a tile operand or a weight block that a command may not take fails it without a change; the
resources of a quad run the slice of the head that is next in turn; a tile control takes its place when it reaches the head. -/
def Obligations.MatrixTurns : Prop :=
  (∀ r s j core, MxTurn s r j core → j.started = false → tileType (s.mxCtl core (xTile r)) = 0 →
    (∃ t : State, exec (.mwload r) s = .next t ∧ FailsWith s t j 1 0) ∧ (∃ t : State, exec (.mma r) s = .next t ∧ FailsWith s t j 1 0) ∧
    (∃ t : State, exec (.mmat r) s = .next t ∧ FailsWith s t j 1 0) ∧ (∃ t : State, exec (.mldt r) s = .next t ∧ FailsWith s t j 1 0) ∧
    ∃ t : State, exec (.mstt r) s = .next t ∧ FailsWith s t j 1 0) ∧
  (∀ r s j core o, MxTurn s r j core → TileOperand s core (xTile r) (xPair r) o → 1 ≤ o.rows → j.started = false → j.slice = 0 →
    ¬WeightsFit r o (s.mxWeights core) false → ∃ t : State, exec (.mma r) s = .next t ∧ FailsWith s t j 1 0) ∧
  (∀ s q res core j i last, s.arg.a = q → s.arg.b = res → res < 2 → q < Config.cores / 4 → (s.cluster (q / 12)).halted = false →
    last = (if res = 0 then (s.quad q).lastArray else (s.quad q).lastPort) →
    ([1, 2, 3, 4].map fun k => 4 * q + (last + k) % 4).find? (fun c => s.eligible c res) = some core →
    s.matrixHead core = some (j, some i) → rOpcode j.record / 16 = 1 →
    ∃ t u : State, exec i { s with cur := .matrix core } = .next u ∧ exec .matrixSlice s = .next t ∧ (∀ k, t.coreBank k = u.coreBank k) ∧
      t.mem = u.mem ∧ t.spad = u.spad ∧ t.partitions = u.partitions ∧
      ((s.core core).twin = none → s.blockRefuses core j i = false → (∀ k ∈ (s.jobs (.matrix core)).drop 1, k.order ≠ j.order) →
        (res = 0 → (t.quad q).lastArray = core % 4) ∧ (res = 1 → (t.quad q).lastPort = core % 4))) ∧
  (∀ s q res last, s.arg.a = q → s.arg.b = res → res < 2 → last = (if res = 0 then (s.quad q).lastArray else (s.quad q).lastPort) →
    ((s.cluster (q / 12)).halted = true ∨ ∀ k ∈ [1, 2, 3, 4], s.eligible (4 * q + (last + k) % 4) res = false) → exec .matrixSlice s = .next s) ∧
  (∀ s core j k w, s.arg.a = core → (s.cluster (core / 48)).halted = false → s.matrixHead core = some (j, none) → j.mtcw = some (k, w) →
    ∃ t : State, exec .tileControlApply s = .next t ∧ t.mxCtl core k = w ∧ (∀ n, n % 4 ≠ k % 4 → t.mxCtl core n = s.mxCtl core n) ∧
      t.jobs (.matrix core) = (s.jobs (.matrix core)).drop 1)

/-- What the projector makes of a row that is no NaN row (R336 to R343): as many elements as the row has; COUNT is the number of bits of the
mask; a box gives values between its ends; a cone gives values that do not fall; a simplex and APPLY on it give no negative value. The
statement derives from the rules; COUNT and the mask are theirs. -/
def Obligations.ProjectedRows : Prop :=
  ∀ pset mode row p1 p2, p1 < 2 ^ 32 → p2 < 2 ^ 32 → (∀ x ∈ row, x < 2 ^ 32) → row ≠ [] → row.length ≤ 128 → projectBad pset mode p1 p2 = false → pset ≠ 0 → mode ≠ 1 →
    isNanRow pset (row.map of32) = false →
    (drainRow pset mode row p1 p2).out.length = row.length ∧
    (drainRow pset mode row p1 p2).count = ((List.range 128).filter fun k => (drainRow pset mode row p1 p2).mask.testBit k).length ∧
    (drainRow pset mode row p1 p2).mask < 2 ^ row.length ∧
    (pset = 4 → ∀ x ∈ (drainRow pset mode row p1 p2).out, (of32 x).cmp (of32 p1) ≠ -1 ∧ (of32 x).cmp (of32 p2) ≠ 1) ∧
    (pset = 5 → (drainRow pset mode row p1 p2).out.Pairwise fun x y => (of32 x).cmp (of32 y) ≠ 1) ∧
    (pset = 1 → ∀ x ∈ (drainRow pset mode row p1 p2).out, (of32 x).cmp (.zero false) ≠ -1)

namespace Sys2Proof.Machine

/-- The opcode and the instruction of each collective kind (R456). -/
inductive CollKind : Nat → (Record → Instr) → Prop
  | allred : CollKind 0x40 Instr.allred
  | redscat : CollKind 0x41 Instr.redscat
  | allgath : CollKind 0x42 Instr.allgath
  | reshard : CollKind 0x43 Instr.reshard
  | bcast : CollKind 0x44 Instr.bcast
  | rsred : CollKind 0x45 Instr.rsred

/-- A collective's step is now, at the collective engine of a die. -/
abbrev CollTurn (s : State) (r : Record) (j : Job) : Prop := s.curJob r = some j ∧ Unwritten s j ∧ s.cur = .coll s.cur.die s.cur.index

/-- Bytes of `n` elements of a type in memory: MX and BL6 blocks with their scale bytes after them (R459). -/
def elementsBytes (t n : Nat) : Nat := if isBlock t then n / 32 * (4 * elemBits t + 1) else n * (elemBits t / 8)

/-- The types and the count that a kind admits (R459). -/
def CollFields (kind : Nat) (r : Record) : Prop :=
  gOp r ≤ 4 ∧ (isBlock (gStype r) = true → kind = 0x42 ∨ kind = 0x44 → gCount r % 32 = 0) ∧
  ((kind = 0x40 ∨ kind = 0x41) → gStype r ∈ [5, 6, 7, 16] ∧ gDtype r = gStype r ∧ 1 ≤ gCount r) ∧
  (kind = 0x42 → isType (gStype r) = true ∧ gStype r ≠ 0x30 ∧ (gDtype r = gStype r ∨ isBlock (gStype r) = true ∧ (gDtype r = 16 ∨ gDtype r = 17))) ∧
  (kind = 0x43 → gStype r = 0 ∧ gDtype r = 0) ∧ (kind = 0x44 → isType (gStype r) = true ∧ gDtype r = gStype r) ∧
  (kind = 0x45 → gStype r = 16 ∧ gDtype r = 16 ∧ 1 ≤ gCount r ∧ gCount r ≤ 16384)

/-- The bytes of a participant's source, a RESHARD's permutation apart. -/
def sourceBytes (kind : Nat) (r : Record) : Nat := if kind = 0x45 then 8 + 4 * gCount r else elementsBytes (gStype r) (gCount r)

/-- What a participant contributes: its source, in RESHARD its shard, and nothing in a BCAST whose root it is not. -/
def contribution (kind : Nat) (r : Record) (rank : Nat) (s : State) (j : Job) : List Byte :=
  if kind = 0x44 ∧ rank ≠ gRoot r then [] else if kind = 0x43 then s.jobBytes j r.g2.cursor (gCount r)
  else s.jobBytes j r.g1.cursor (sourceBytes kind r)

/-- A participant that may start: its group of `P` lies in the window, names it at its rank and lies within its timeline's scope, its
operands lie in the window, every link is up, and the merge points of the die hold nothing (R457, R458, R479). `perm` is the permutation of a RESHARD, `pb` its bytes. -/
structure Participant (s : State) (kind : Nat) (r : Record) (j : Job) (P rank : Nat) (ms : List Member) (perm : List Nat) (pb : List Byte) : Prop where
  window : JobWindow s j ∧ j.group = none
  fields : CollFields kind r
  group : JobRange s j r.g3 64 r.g3.cursor (8 + 8 * P) ∧ 1 ≤ P ∧ P ≤ 1024 ∧ leNat (s.jobBytes j r.g3.cursor 2) = P ∧
    leNat (s.jobBytes j (r.g3.cursor + 2) 2) = rank ∧ rank < P
  list : ms = (List.range P).map fun k => memberOf (leNat (s.jobBytes j (r.g3.cursor + 8 + 8 * k) 8))
  itself : ms[rank]? = some ⟨s.fabId.toNat, s.cur.die, j.part⟩
  scope : (if ms.any fun m => m.device ≠ s.fabId.toNat then 4 else if ms.any fun m => m.die ≠ s.cur.die then 3 else 2) ≤
    ((s.part j.part).timeline (rTlidx r)).scope.toNat
  shape : (kind = 0x44 → gRoot r < P) ∧ (kind = 0x41 → gCount r % P = 0 ∧ P ≤ gCount r)
  perms : if kind = 0x43 then pb = s.jobBytes j r.g1.cursor (2 * P) ∧
      perm = (List.range P).map (fun k => leNat (s.jobBytes j (r.g1.cursor + 2 * k) 2)) ∧ (∀ k, k < P → k ∈ perm) else pb = [] ∧ perm = []
  sources : if kind = 0x44 ∧ rank ≠ gRoot r then r.g1.tag = true ∧ r.g1.perm &&& 66 = 66
    else JobRange s j r.g1 64 r.g1.cursor (if kind = 0x43 then 2 * P else sourceBytes kind r)
  destination : if kind = 0x43 then JobRange s j r.g2 96 r.g2.cursor (gCount r)
    else JobRange s j r.g2 32 r.g2.cursor (if kind = 0x41 then sourceBytes kind r / P
      else if kind = 0x42 then P * elementsBytes (gDtype r) (gCount r) else sourceBytes kind r)
  links : (∀ m ∈ ms, s.memberUp s.cur.die m = true) ∧ NoReplay s s.cur.die

/-- Node `r` of the tree of R459 after `l` of its levels, over the operands `x` of `P` ranks. -/
def treeNode {α : Type} (op : α → α → α) (x : Nat → α) (P : Nat) (l r : Nat) : α :=
  match l with
  | 0 => x r
  | k + 1 => if r + 2 ^ k < P then op (treeNode op x P k r) (treeNode op x P k (r + 2 ^ k)) else treeNode op x P k r

/-- All `P` participants of a command have met, and none of them differs from it (R457, R458); the receiver of a shard that it overwrites has
confirmed it (R461). -/
structure AllMet (s : State) (kind : Nat) (r : Record) (j : Job) (g : Group) (x : Meeting) : Prop where
  window : JobWindow s j ∧ j.group = some g ∧ g.members.length ≤ 1024 ∧ g.rank < g.members.length
  met : x = s.meeting g.hash (rTlidx r) j.nth ∧ x.arrived.length = g.members.length
  each : ∀ q, q < g.members.length → ∃ m ∈ x.arrived, m.rank = q
  confirmed : kind = 0x43 → ∀ n m, g.perm[g.rank]? = some n → g.members[n]? = some m → m.device = s.fabId.toNat ∨ g.rank ∈ x.confirmed
  same : ∀ m ∈ x.arrived, m.kind = kind ∧ m.stype = gStype r ∧ m.dtype = gDtype r ∧ m.op = gOp r ∧ m.count = gCount r ∧ m.root = gRoot r

/-- Element `i` of the contribution of rank `q`. -/
def Meeting.elem (x : Meeting) (w q i : Nat) : Nat := leNat (((x.data q).drop (w * i)).take w)

/-- A participant has written `bs` at its destination and finished (R459). -/
def Delivers (s : State) (mk : Record → Instr) (r : Record) (j : Job) (bs : List Byte) : Prop :=
  JobHere s j r.g2.cursor bs.length → ∃ t : State, exec (mk r) s = .next t ∧ Finishes s t j ∧ WroteOnly s t (s.jobByte j r.g2.cursor) bs

end Sys2Proof.Machine

/-- R456 to R458: a collective checks its group, reads its contribution and joins the meeting of its hash, timeline and number; it waits for
the others; it fails when it is malformed, when those that meet differ, or when another keeps it waiting for 2^32 clk. Which number a meeting has
and which address a failure reports are in part the model's choices (log 26, log 34). -/
def Obligations.CollectivesMeet : Prop :=
  (∀ kind mk r s j P rank ms perm pb, CollKind kind mk → CollTurn s r j → Participant s kind r j P rank ms perm pb →
    ∃ (t : State) (k : Job), exec (mk r) s = .next t ∧ t.jobs s.cur = (s.jobs s.cur).set s.cur.index k ∧ k.started = true ∧
      k.group = some ⟨crc64 ((List.range P).flatMap (fun q => s.jobBytes j (r.g3.cursor + 8 + 8 * q) 8) ++ pb), rank, ms, perm⟩ ∧ k.since = s.now ∧
      t.spad = s.spad ∧ t.mem = s.mem ∧
      (∃ m ∈ (t.meeting (crc64 ((List.range P).flatMap (fun q => s.jobBytes j (r.g3.cursor + 8 + 8 * q) 8) ++ pb)) (rTlidx r) k.nth).arrived,
        m.rank = rank ∧ m.kind = kind ∧ m.count = gCount r ∧ m.data = contribution kind r rank s j) ∧
      (∀ h n, h ≠ (crc64 ((List.range P).flatMap (fun q => s.jobBytes j (r.g3.cursor + 8 + 8 * q) 8) ++ pb)) →
        t.meeting h (rTlidx r) n = s.meeting h (rTlidx r) n)) ∧
  (∀ kind mk r s j, CollKind kind mk → CollTurn s r j → j.group = none → 5 ≤ gOp r →
    ∃ t : State, exec (mk r) s = .next t ∧ FailsWith s t j 1 0) ∧
  (∀ kind mk r s j n, CollKind kind mk → CollTurn s r j → j.group = none → CollFields kind r → ¬JobMay r.g3 64 r.g3.cursor 8 → n = r.g3.cursor →
    ∃ t : State, exec (mk r) s = .next t ∧ FailsWith s t j 2 n) ∧
  (∀ kind mk r s j g x, CollKind kind mk → CollTurn s r j → j.group = some g → x = s.meeting g.hash (rTlidx r) j.nth →
    x.differ = false → x.arrived.length < g.members.length → (∀ m ∈ g.members, s.memberUp s.cur.die m = true) → exec (mk r) s = .next s) ∧
  (∀ kind mk r s j g a b, CollKind kind mk → CollTurn s r j → j.group = some g → a ∈ (s.meeting g.hash (rTlidx r) j.nth).arrived →
    b ∈ (s.meeting g.hash (rTlidx r) j.nth).arrived →
    (a.kind ≠ b.kind ∨ a.count ≠ b.count ∨ a.stype ≠ b.stype ∨ a.dtype ≠ b.dtype ∨ a.op ≠ b.op ∨ a.root ≠ b.root) →
    ∃ t : State, exec (mk r) s = .next t ∧ t.partitions = (s.cmdFail j (1, 0)).partitions ∧ t.jobs s.cur = (s.jobs s.cur).eraseIdx s.cur.index ∧
      t.spad = s.spad) ∧
  (∀ s m, s.arg.pay = .coll m → s.arg.a < 18 → (s.port s.arg.a).up = true → (m.confirms = false → NoReplay s (portDie s.arg.a)) →
    ∃ t : State, exec .collParticipantArrive s = .next t ∧
      (t.meeting m.hash m.timeline m.nth).arrived = (s.meeting m.hash m.timeline m.nth).arrived ++ (if m.confirms then [] else [m]) ∧
      (t.meeting m.hash m.timeline m.nth).confirmed = (s.meeting m.hash m.timeline m.nth).confirmed ++ (if m.confirms then [m.rank] else []) ∧
      ∀ h tl n, (h ≠ m.hash ∨ tl ≠ m.timeline ∨ n ≠ m.nth) → t.meeting h tl n = s.meeting h tl n) ∧
  (∀ s d i j g, s.arg.a = d → s.arg.b = i → (s.die d).coll[i]? = some j → j.group = some g → Unwritten { s with cur := .coll d i } j →
    (s.meeting g.hash (rTlidx j.record) j.nth).arrived.length < g.members.length → 2 ^ 32 ≤ (s.now - j.since).toNat →
    ∃ t : State, exec .collectiveExpire s = .next t ∧ (t.die d).coll = (s.die d).coll.eraseIdx i ∧
      t.partitions = ({ s with cur := .coll d i }.cmdFail j (9, 0)).partitions)

/-- R459 to R462: what each collective kind writes when all its participants have met. Over integers the tree of R459 gives the sum of all
contributions modulo the width, and its bits do not depend on how the ranks are paired. -/
def Obligations.CollectivesDeliver : Prop :=
  (∀ r s j g x w, CollTurn s r j → AllMet s 0x40 r j g x → gStype r ∈ [5, 6, 7, 16] → w = elemBits (gStype r) / 8 →
    (∀ m ∈ x.arrived, m.data.length = w * gCount r) →
    Delivers s Instr.allred r j ((List.range (gCount r)).flatMap fun i =>
      leBytes w (treeNode (nodeElem (gStype r) (gOp r)) (fun q => x.elem w q i) g.members.length 10 0))) ∧
  (∀ r s j g x w n, CollTurn s r j → AllMet s 0x41 r j g x → gStype r ∈ [5, 6, 7, 16] → w = elemBits (gStype r) / 8 →
    (∀ m ∈ x.arrived, m.data.length = w * gCount r) → gCount r = n * g.members.length →
    Delivers s Instr.redscat r j ((List.range n).flatMap fun i =>
      leBytes w (treeNode (nodeElem (gStype r) (gOp r)) (fun q => x.elem w q (g.rank * n + i)) g.members.length 10 0))) ∧
  (∀ r s j g x, CollTurn s r j → AllMet s 0x42 r j g x → gDtype r = gStype r →
    Delivers s Instr.allgath r j ((List.range g.members.length).flatMap x.data)) ∧
  (∀ r s j g x t d b, CollTurn s r j → AllMet s 0x42 r j g x → t = gStype r → d = gDtype r → b = 4 * elemBits t → isBlock t = true →
    (d = 16 ∨ d = 17) → gCount r % 32 = 0 → (∀ m ∈ x.arrived, m.data.length = elementsBytes t (gCount r)) →
    Delivers s Instr.allgath r j ((List.range g.members.length).flatMap fun q => (List.range (gCount r)).flatMap fun i =>
      leBytes (elemBits d / 8) (roundF (fmtOf d) {} (decodeScaled t
        (leNat (((x.data q).drop (b * (i / 32))).take b) / 2 ^ (elemBits t * (i % 32)) % 2 ^ elemBits t)
        (x.elem 1 q (gCount r / 32 * b + i / 32)))).1)) ∧
  (∀ r s j g x q, CollTurn s r j → AllMet s 0x43 r j g x → g.perm.idxOf? g.rank = some q → Delivers s Instr.reshard r j (x.data q)) ∧
  (∀ r s j g x, CollTurn s r j → AllMet s 0x44 r j g x → Delivers s Instr.bcast r j (x.data (gRoot r))) ∧
  (∀ r s j g x, CollTurn s r j → AllMet s 0x45 r j g x → (∀ m ∈ x.arrived, m.data.length = 8 + 4 * gCount r) →
    Delivers s Instr.rsred r j ((treeNode rsNode (fun q => (List.range (2 + gCount r)).map (x.elem 4 q)) g.members.length 10 0).flatMap
      (leBytes 4))) ∧
  (∀ (t P : Nat) (x : Nat → Nat), t ∈ [5, 6, 7] → 1 ≤ P → P ≤ 1024 → (∀ q, q < P → x q < 2 ^ elemBits t) →
    treeNode (nodeElem t 0) x P 10 0 = ((List.range P).map x).sum % 2 ^ elemBits t)

namespace Sys2Proof.Machine

/-- A copy of a request stands at place `arg.a` of the links and is no older than LIFETIME (R420, R428). -/
abbrev Arriving (s : State) (o req : Nat) (st : Stamp) (op : RemOp) : Prop :=
  o < 1024 ∧ ∃ sent cls, s.net[s.arg.a]? = some (.request o req st op sent cls) ∧ (s.now - sent).toNat ≤ 2 ^ 20

/-- A serial precedes a mark or equals it (R426). -/
abbrev UpTo (serial mark : BitVec 32) : Prop := serial = mark ∨ (mark - serial).toNat < 2 ^ 31

/-- The owner's mark of a requester once an ACKMARK has been applied, and none for a requester it does not know (R428, R430). -/
def Owner.marked (w : Owner) (req : Nat) (ack : BitVec 32) : Option (BitVec 32) :=
  (w.marks.find? fun m => m.req = req).map fun m => if m.mark ≠ ack ∧ (ack - m.mark).toNat < 2 ^ 31 then ack else m.mark

/-- An entry of the cache of an owner, for a request (R428). -/
abbrev Owner.caches (w : Owner) (req : Nat) (serial : BitVec 32) (status : Nat) (result : Word) : Prop :=
  (w.cache.find? fun e => e.req = req && e.serial = serial) = some ⟨req, serial, status, result⟩

/-- The owner executes a request: known incarnation, a serial beyond the mark and in no entry, room in the cache and among the marks. -/
abbrev Executes (s : State) (o req : Nat) (st : Stamp) : Prop :=
  st.incar = (s.owner o).incar ∧ (∀ e ∈ (s.owner o).cache, e.req = req → e.serial ≠ st.serial) ∧ (s.owner o).cache.length < 4096 ∧
  (∀ m, (s.owner o).marked req st.ackmark = some m → ¬UpTo st.serial m) ∧
  ((s.owner o).marked req st.ackmark = none → (s.owner o).marks.length < 1024)

/-- The reply that an owner has sent. -/
abbrev Answers (s t : State) (o req : Nat) (st : Stamp) (status : Nat) (result : Word) : Prop :=
  t.net = s.net.eraseIdx s.arg.a ++ [.reply req o st.serial status result (s.owner o).incar st.ackmark]

/-- Nothing but the owner's own state and the links has changed. -/
abbrev OnlyOwner (s t : State) : Prop :=
  t.mem = s.mem ∧ t.spad = s.spad ∧ t.clusters = s.clusters ∧ t.coreBanks = s.coreBanks ∧ t.partitions = s.partitions ∧ t.slots = s.slots ∧
  t.requesters = s.requesters

/-- A message is a copy of a request of a requester to an owner. -/
def Msg.copies (m : Msg) (o req : Nat) : Bool := match m with
  | .request w q _ _ _ _ => w = o && q = req
  | _ => false

end Sys2Proof.Machine

/-- R420, R426, R428 to R431: an owner executes each stamped request at most once. A copy that is too old is discarded, one of an old
incarnation is answered OWNER_RESTARTED, one whose reply is cached receives that reply again, one that has been acknowledged is STALE, and
one that finds no room is BUSY; none of these changes anything but the owner. A new request executes and its final reply is cached. That a mark stays
while a copy of a request is on its way is the model's reading (log 54). -/
def Obligations.OwnersExecuteOnce : Prop :=
  (∀ s o req st op sent cls, s.net[s.arg.a]? = some (.request o req st op sent cls) → o < 1024 → 2 ^ 20 < (s.now - sent).toNat →
    exec .ownerReceive s = .next { s with net := s.net.eraseIdx s.arg.a }) ∧
  (∀ s o req st op, Arriving s o req st op → st.incar ≠ (s.owner o).incar →
    ∃ t : State, exec .ownerReceive s = .next t ∧ Answers s t o req st 7 0 ∧ OnlyOwner s t ∧ t.owner o = s.owner o) ∧
  (∀ s o req st op status result, Arriving s o req st op → st.incar = (s.owner o).incar → (s.owner o).caches req st.serial status result →
    (∀ m, m = ((s.owner o).marked req st.ackmark).getD st.ackmark → ¬UpTo st.serial m) →
    ∃ t : State, exec .ownerReceive s = .next t ∧ Answers s t o req st status result ∧ OnlyOwner s t ∧ (t.owner o).caches req st.serial status result) ∧
  (∀ s o req st op m, Arriving s o req st op → st.incar = (s.owner o).incar → (s.owner o).marked req st.ackmark = some m → UpTo st.serial m →
    ∃ t : State, exec .ownerReceive s = .next t ∧ Answers s t o req st 1 0 ∧ OnlyOwner s t) ∧
  (∀ s o req st op, Arriving s o req st op → st.incar = (s.owner o).incar → (s.owner o).marked req st.ackmark = none →
    (∀ e ∈ (s.owner o).cache, e.req ≠ req) → (4096 ≤ (s.owner o).cache.length ∨ 1024 ≤ (s.owner o).marks.length) →
    ∃ t : State, exec .ownerReceive s = .next t ∧ Answers s t o req st 2 0 ∧ OnlyOwner s t) ∧
  (∀ s o req st c p v, Arriving s o req st (.ticket c p) → Executes s o req st → NoReplay s (c / 48) → v = s.ticketPair c (reqPart req) p →
    ∃ t : State, exec .ownerReceive s = .next t ∧ Answers s t o req st 0 (v.1.setWidth 64) ∧
      t.ticketPair c (reqPart req) p = (v.1 + 1, v.2) ∧ (t.owner o).caches req st.serial 0 (v.1.setWidth 64)) ∧
  (∀ s o req st op, Arriving s o req st op → Executes s o req st →
    ∃ (t : State) (status : Nat) (result : Word), exec .ownerReceive s = .next t ∧ Answers s t o req st status result ∧
      ((status = 0 ∨ 4 ≤ status) → (t.owner o).caches req st.serial status result) ∧
      (status ≠ 0 → status < 4 → ∀ e ∈ (t.owner o).cache, e.req = req → e.serial ≠ st.serial)) ∧
  (∀ s o req mark m, s.net[s.arg.a]? = some (.ack o req mark) → o < 1024 → m = ((s.owner o).marked req mark).getD mark →
    ∃ t : State, exec .ownerReceive s = .next t ∧ t.net = s.net.eraseIdx s.arg.a ++ [.ackDone o req mark] ∧ OnlyOwner s t ∧
      (t.owner o).cache = (s.owner o).cache.filter (fun e => !(e.req = req && decide (UpTo e.serial m)))) ∧
  (∀ s o req, s.arg.a = o → s.arg.b = req → (∀ e ∈ (s.owner o).cache, e.req ≠ req) → (∀ m ∈ s.net, m.copies o req = false) → o < 1024 →
    ∃ t : State, exec .markForget s = .next t ∧ OnlyOwner s t ∧ (t.owner o).cache = (s.owner o).cache ∧
      (t.owner o).marks = (s.owner o).marks.filter fun m => !(m.req = req && decide (2 ^ 21 ≤ (s.now - m.lastAt).toNat))) ∧
  (∀ s e, e ∈ (s.owner s.arg.a).cache → e.req = s.arg.b → exec .markForget s = .next s) ∧
  (∀ s m, m ∈ s.net → m.copies s.arg.a s.arg.b = true → exec .markForget s = .next s)

namespace Sys2Proof.Machine

/-- The table entry of a requester that an event or a reply names. -/
abbrev Outstanding (s : State) (id : Nat) (e : TabEnt) : Prop := ((s.requester id).table.find? fun x => x.serial = e.serial) = some e

/-- The table of a requester without one serial. -/
abbrev Ended (s t : State) (id : Nat) (serial : BitVec 32) : Prop :=
  (t.requester id).table = (s.requester id).table.filter fun x => x.serial ≠ serial

/-- An entry has been sent again, under its stamp and the DONE mark of now. -/
abbrev SentAgain (s t : State) (id : Nat) (e : TabEnt) : Prop :=
  (t.requester id).table = (s.requester id).table.map (fun x => if x.serial = e.serial then { x with sends := x.sends + 1, lastSent := s.now, busyAt := none } else x) ∧
  (e.owner < 1024 → s.pathUp (reqDie id) (ownerDie e.owner) = true →
    t.net = s.net ++ [.request e.owner id ⟨e.serial, e.incar, (s.requester id).done⟩ e.op s.now e.cls]) ∧
  (s.pathUp (reqDie id) (ownerDie e.owner) = false → t.net = s.net)

end Sys2Proof.Machine

/-- R422, R425, R427, R434: what a requester's interface does with the replies it receives and with the entries of its table. That a BUSY or FULL reply
sets the count of transmissions back, and that a context in its save area takes no reply, are the model's readings (log 32, log 16). -/
def Obligations.RequestersRetryUntilAFinalReply : Prop :=
  (∀ s id o serial status w incar ack e, s.arg.pay = .none → s.net[s.arg.a]? = some (.reply id o serial status w incar ack) → e.serial = serial →
    Outstanding s id e → s.savedAway id = false → (status = 0 ∨ 4 ≤ status) →
    ∃ t : State, exec .replyReceive s = .next t ∧ t.net = s.net.eraseIdx s.arg.a ∧ Ended s t id serial ∧
      look (t.die (reqDie id)).learnt o = some incar ∧
      (id / 2 ^ 17 % 2 = 0 → e.home = false → e.waiting = true → (s.slotAt (s.reqKey id)).sent = some serial → (t.slotAt (s.reqKey id)).reply = some (status, w)) ∧
      (id / 2 ^ 17 % 2 = 0 → e.home = false → e.waiting = false → e.quiet = false → s.twinSlot (s.reqKey id) = none → (status = 7 ∨ status = 8) →
        (t.slotAt (s.reqKey id)).replyTraps = (s.slotAt (s.reqKey id)).replyTraps ++ [⟨0x13, e.va, serial⟩])) ∧
  (∀ s id o serial status w incar ack e, s.arg.pay = .none → s.net[s.arg.a]? = some (.reply id o serial status w incar ack) → e.serial = serial →
    Outstanding s id e → s.savedAway id = false → (status = 2 ∨ status = 3) →
    ∃ t : State, exec .replyReceive s = .next t ∧ (t.requester id).table = (s.requester id).table.map (fun x => if x.serial = serial then { x with busyAt := some s.now, sends := 0 } else x)) ∧
  (∀ s id o serial status w incar ack, s.arg.pay = .none → s.net[s.arg.a]? = some (.reply id o serial status w incar ack) →
    (status = 1 ∨ ∀ x ∈ (s.requester id).table, x.serial ≠ serial) →
    ∃ t : State, exec .replyReceive s = .next t ∧ t.requester id = s.requester id ∧ t.slots = s.slots) ∧
  (∀ s id o mark, s.arg.pay = .none → s.net[s.arg.a]? = some (.ackDone o id mark) →
    ∃ t : State, exec .replyReceive s = .next t ∧
      (t.requester id).owners = (s.requester id).owners.filter fun x => !(x.owner = o && decide (UpTo x.last mark))) ∧
  (∀ s e, Outstanding s s.arg.a e → e.serial.toNat = s.arg.b → e.busyAt = none → 2048 ≤ (s.now - e.lastSent).toNat → e.sends < 16 → s.savedAway s.arg.a = false →
    ∃ t : State, exec .requestRetransmit s = .next t ∧ SentAgain s t s.arg.a e) ∧
  (∀ s e, Outstanding s s.arg.a e → e.serial.toNat = s.arg.b → e.busyAt = none → 2048 ≤ (s.now - e.lastSent).toNat → 16 ≤ e.sends → s.savedAway s.arg.a = false →
    ∃ t : State, exec .requestRetransmit s = .next t ∧ Ended s t s.arg.a e.serial ∧ t.net = s.net) ∧
  (∀ s e at_, Outstanding s s.arg.a e → e.serial.toNat = s.arg.b → e.busyAt = some at_ → 256 ≤ (s.now - at_).toNat → s.savedAway s.arg.a = false →
    ∃ t : State, exec .busyRetry s = .next t ∧ SentAgain s t s.arg.a e) ∧
  (∀ s r, r = s.requester s.arg.a → r.owners ≠ [] → (256 ≤ (s.now - r.lastSent).toNat ∨ 16 ≤ r.owners.length) → s.savedAway s.arg.a = false →
    ∃ t : State, exec .ackSend s = .next t ∧ t.net = s.net ++ (r.owners.filter fun o =>
      s.pathUp (reqDie s.arg.a) (ownerDie o.owner) && decide (o.owner < 1024)).map (fun o => Msg.ack o.owner s.arg.a r.done)) ∧
  (∀ s k n at_, k = s.slotKey s.arg.a → (s.slotAt k).xread = some (n, at_) → 2048 ≤ (s.now - at_).toNat → n < 16 →
    ∃ t : State, exec .readRetransmit s = .next t ∧ t.slotAt k = { s.slotAt k with xread := some (n + 1, s.now) })

namespace Sys2Proof.Machine

/-- A packet with tags that the host's tag register gives it (R445). -/
def hostPacket (s : State) (p : Nat) (r : Record) : Record :=
  ⟨{ r.g0 with tag := (s.part p).ktag }, { r.g1 with tag := (s.part p).atag }, { r.g2 with tag := false }, { r.g3 with tag := false }⟩

/-- A packet has entered the first empty entry of a partition's queue and taken its position on its timeline (R161). -/
structure Queued (s t : State) (p e : Nat) (packet : Record) (peer : Option Nat) : Prop where
  entry : (t.entry (p, e)).st = .queued ∧ (t.entry (p, e)).packet = packet ∧ (t.entry (p, e)).peer = peer ∧
    (t.entry (p, e)).gen = (s.entry (p, e)).gen
  position : if pktTlidx packet < 1024 then (t.entry (p, e)).pos = some (((s.part p).timeline (pktTlidx packet)).issued + 1).toNat ∧
    ((t.part p).timeline (pktTlidx packet)).issued = ((s.part p).timeline (pktTlidx packet)).issued + 1 else (t.entry (p, e)).pos = none
  others : ∀ q, q ≠ e → t.entry (p, q) = s.entry (p, q)

/-- The lowest empty entry of a partition's queue. -/
abbrev LowestEmpty (s : State) (p e : Nat) : Prop := e < 16 ∧ (s.entry (p, e)).st = .empty ∧ ∀ q, q < e → (s.entry (p, q)).st ≠ .empty

/-- The result word of R161 for a packet. -/
def resultFor (accepted : Bool) (entry reason : Nat) (serial : BitVec 32) : Word :=
  BitVec.ofNat 64 ((if accepted then 1 else 0) + 2 * entry + 2 ^ 5 * reason + 2 ^ 8 * serial.toNat)

/-- A launch packet of a peer at a fabric port that is up: the port, the device, and the requester as the port's interface tells it from others; no
copy of it is on its way to the queue (R423, R449). -/
structure PeerPacket (s : State) (st : Stamp) (r : Record) (port dev req : Nat) : Prop where
  packet : s.arg.pay = .packet st r ∧ port = s.arg.a % 18 ∧ dev = s.arg.b ∧ req = (dev + 1) * 2 ^ 24 + s.arg.c / 64 % 2 ^ 24
  open_ : (s.port port).up = true ∧ s.bootFailed 0 = false
  first : ∀ f ∈ (s.port port).fwd, ¬(f.device = dev ∧ f.req = s.arg.c / 64 ∧ f.stamp.serial = st.serial)

/-- The entry of the launch table that admits a peer to a partition: the first valid one that names both (R449). -/
abbrev AdmittedBy (s : State) (d peer p i : Nat) : Prop :=
  i < 256 ∧ (let w := s.csr d (0x380 + i); w.getLsbD 0 = true ∧ (w.extractLsb' 1 16).toNat = peer ∧ (w.extractLsb' 17 6).toNat = p ∧
    (((List.range 16).filter fun j => ((s.part p).entry j).st ≠ .empty && ((s.part p).entry j).peer = some peer).length < (w.extractLsb' 23 5).toNat) ∧
    (((s.die d).aclCount.filter fun c => c.1 = i && (s.now - c.2).toNat < 2 ^ 20).length < (w.extractLsb' 28 16).toNat)) ∧
  ∀ k, k < i → ¬(let w := s.csr d (0x380 + k); w.getLsbD 0 = true ∧ (w.extractLsb' 1 16).toNat = peer ∧ (w.extractLsb' 17 6).toNat = p)

end Sys2Proof.Machine

namespace Sys2Proof.Machine

/-- A field of `n` bytes at byte `off`. -/
def fieldOf (bs : List Byte) (off n : Nat) : Nat := leNat ((bs.drop off).take n)

/-- The launch unit reads `n` bytes at `va` for a launch of partition `p` whose first core is `first`: the bytes, and the state after. -/
abbrev LaunchReads (s : State) (p first va n : Nat) (bs : List Byte) (t : State) : Prop := s.engReadRange (launchEng p first) va n = (.ok bs, t)

/-- The header that its 256 bytes and its table of safe points describe (R157, R158). -/
structure Describes (kcap : Cap) (h table : List Byte) (hd : Header) : Prop where
  place : hd.kcap = kcap ∧ hd.base = kcap.cursor
  fields : hd.regs = 8 * (fieldOf h 6 1 % 4 + 1) ∧ (hd.twin = true ↔ fieldOf h 7 1 % 2 = 1) ∧ hd.scratch = fieldOf h 8 4 ∧ hd.entry = fieldOf h 12 4 ∧
    hd.handler = fieldOf h 16 4
  stages : hd.stages = (List.range (fieldOf h 26 1)).map fun i => ⟨fieldOf h (32 + 8 * i) 4, fieldOf h (36 + 8 * i) 2 % 2 ^ 12, fieldOf h (38 + 8 * i) 1⟩
  points : hd.points = (List.range (fieldOf h 24 2)).map fun i => ⟨fieldOf table (16 * i) 4, fieldOf table (16 * i + 4) 4, fieldOf table (16 * i + 8) 4,
    BitVec.ofNat 32 (fieldOf table (16 * i + 12) 4)⟩

/-- An entry has returned to EMPTY with its generation raised, and its position has finished (R160, R161, R294). -/
structure Leaves (s t : State) (l : Nat × Nat) (err : Bool) : Prop where
  empty : (t.entry l).st = .empty ∧ (t.entry l).gen = (s.entry l).gen + 1 ∧ (t.entry l).hdr = none
  position : ∀ p, (s.entry l).pos = some p → ((t.part l.1).timeline (pktTlidx (s.entry l).packet)).finished =
    ((s.part l.1).timeline (pktTlidx (s.entry l).packet)).finished ++ [⟨p, err, none⟩]

/-- A launch of `count` cores from `first`, or of as many pairs. -/
abbrev LaunchCores (s : State) (l : Nat × Nat) (n : Nat) : Prop :=
  n = (if (s.header l).twin then 2 * pktCount (s.entry l).packet else pktCount (s.entry l).packet)

/-- Every core of a launch can start, and every cluster of it has room for its records (R161, R169). -/
abbrev CoresFree (s : State) (l : Nat × Nat) : Prop :=
  (∀ c ∈ s.coresOf l, s.coreFree l c = true) ∧ ∀ c ∈ s.clustersOf l, s.storeUsed c + (s.header l).bounds ≤ 1024

end Sys2Proof.Machine

/-- R41, R157 to R163, R388, R389, R445, R449: launch packets of the host and of peers, the host's tags and its ACKMARK; a packet whose header is
good waits, one that breaks a rule is refused with its error record and leaves the queue; the oldest waiting entry binds its cores when all
are free, and is refused at once under NOWAIT; a core wakes with its presets; a launch whose strands have all ended returns its cores and
finishes its position. The order of the checks, which die's unit makes them, and how the interface of a port forwards a packet to the queue are in part
the model's choices (log 13, log 56). -/
def Obligations.LaunchesRunThroughTheQueue : Prop :=
  (∀ s v p, s.arg.pay = .word v → p = s.arg.a % 64 → s.attachUp = true →
    ∃ t : State, exec .launchTagWrite s = .next t ∧ t.part p = { s.part p with ktag := v.getLsbD 0, atag := v.getLsbD 1 } ∧
      ∀ q, q ≠ p → t.part q = s.part q) ∧
  (∀ s v p o, s.arg.pay = .word v → p = s.arg.a % 64 → s.attachUp = true → (o = 0 ∨ o = 256) →
    ∃ t : State, exec .hostAckmarkWrite s = .next t ∧ (t.part p).hostAck = v.setWidth 32 ∧ (t.owner o).cache = (s.owner o).cache.filter (fun e =>
      !(e.req = hostReq p && decide (UpTo e.serial (((s.owner o).marked (hostReq p) (v.setWidth 32)).getD (v.setWidth 32)))))) ∧
  (∀ s st r p o e packet, s.arg.pay = .packet st r → p = s.arg.a % 64 → o = (if s.arg.b % 4 < 2 then 0 else 256) → packet = hostPacket s p r →
    s.lanes (s.arg.b % 4) ≠ 0 → s.bootFailed 0 = false → Executes s o (hostReq p) ⟨pktSerial packet, st.incar, (s.part p).hostAck⟩ → LowestEmpty s p e →
    ∃ t : State, exec .launchPacketWrite s = .next t ∧ Queued s t p e packet none ∧
      look (t.part p).results ((pktSerial packet).toNat % 256) = some (resultFor true e 0 (pktSerial packet) ||| 2 ^ 63)) ∧
  (∀ s st r p o e packet, s.arg.pay = .packet st r → p = s.arg.a % 64 → o = (if s.arg.b % 4 < 2 then 0 else 256) → packet = hostPacket s p r →
    s.lanes (s.arg.b % 4) ≠ 0 → s.bootFailed 0 = false → Executes s o (hostReq p) ⟨pktSerial packet, st.incar, (s.part p).hostAck⟩ →
    (∀ q, q < 16 → (s.entry (p, q)).st ≠ .empty) → e = pktSerial packet →
    ∃ t : State, exec .launchPacketWrite s = .next t ∧ look (t.part p).results (e.toNat % 256) = some (resultFor false 0 1 e ||| 2 ^ 63) ∧
      ∀ q, t.entry (p, q) = s.entry (p, q)) ∧
  (∀ s st r p port dev req e i, PeerPacket s st r port dev req → p = s.arg.c % 64 → (port = 0 ∨ port = 1 ∨ port = 16) →
    Executes s (512 + port) req st → AdmittedBy s 0 dev p i → LowestEmpty s p e →
    ∃ t : State, exec .peerLaunchReceive s = .next t ∧ Queued s t p e r (some dev) ∧
      (t.owner (512 + port)).caches req st.serial 0 (resultFor true e 0 (pktSerial r))) ∧
  (∀ s st r p port dev req, PeerPacket s st r port dev req → p = s.arg.c % 64 → (port = 0 ∨ port = 1 ∨ port = 16) → Executes s (512 + port) req st →
    (∀ i, i < 256 → ¬(let w := s.csr 0 (0x380 + i); w.getLsbD 0 = true ∧ (w.extractLsb' 1 16).toNat = dev ∧ (w.extractLsb' 17 6).toNat = p)) →
    ∃ t : State, exec .peerLaunchReceive s = .next t ∧ t.partitions = s.partitions ∧
      (t.owner (512 + port)).caches req st.serial 0 (resultFor false 0 2 (pktSerial r))) ∧
  (∀ s st r port dev req, PeerPacket s st r port dev req → ownerDie (512 + port) ≠ 0 → Executes s (512 + port) req st →
    ∃ t : State, exec .peerLaunchReceive s = .next t ∧ t.partitions = s.partitions ∧
      (t.port port).fwd = (s.port port).fwd ++ [⟨s.order, dev, s.arg.c / 64, st⟩] ∧
      (t.requester (portReq port (reqPart (s.arg.c / 64)))).queue = (s.requester (portReq port (reqPart (s.arg.c / 64)))).queue ++
        [{ owner := 0, op := .launch (s.arg.c % 64) (some dev) r, va := 0, job := some s.order }]) ∧
  (∀ s l k, l = (s.arg.a, s.arg.b) → (s.entry l).st = .queued → k = (s.entry l).packet.g0 → (k.tag = false ∨ k.perm &&& 68 ≠ 68) →
    ∃ t : State, exec .launchHeaderCheck s = .next t ∧ t = s.refuseLaunch l (2, k.cursor) ∧ Leaves s t l true) ∧
  (∀ s l k, l = (s.arg.a, s.arg.b) → (s.entry l).st = .queued → k = (s.entry l).packet.g0 → k.tag = true → k.perm &&& 68 = 68 → k.cursor % 64 ≠ 0 →
    ∃ t : State, exec .launchHeaderCheck s = .next t ∧ t = s.refuseLaunch l (1, 0) ∧ Leaves s t l true) ∧
  (∀ s l k h table u v, l = (s.arg.a, s.arg.b) → (s.entry l).st = .queued → k = (s.entry l).packet.g0 → k.tag = true → k.perm &&& 68 = 68 →
    k.cursor % 64 = 0 → pktTlidx (s.entry l).packet < 1024 → k.base ≤ k.cursor → k.cursor + 256 ≤ k.top →
    LaunchReads s l.1 (pktFirst (s.entry l).packet) k.cursor 256 h u → fieldsOk k h = true →
    LaunchReads u l.1 (pktFirst (s.entry l).packet) (k.cursor + fieldOf h 20 4) (16 * fieldOf h 24 2) table v →
    (∀ i, i < fieldOf h 24 2 → pointOk k ⟨fieldOf table (16 * i) 4, fieldOf table (16 * i + 4) 4, fieldOf table (16 * i + 8) 4, 0⟩ = true) →
    v.rangeOk l.1 (s.entry l).packet (decide (fieldOf h 7 1 % 2 = 1)) = true →
    ∃ (t : State) (hd : Header), exec .launchHeaderCheck s = .next t ∧ t.entry l = { v.entry l with st := .waiting, hdr := some hd } ∧
      Describes k h table hd) ∧
  (∀ s i l n, (s.part s.arg.a).oldest = some i → l = (s.arg.a, i) → (s.entry l).st = .waiting → LaunchCores s l n → CoresFree s l →
    ∃ t : State, exec .launchDequeue s = .next t ∧ (t.entry l).st = .waking ∧
      (t.entry l).toWake = (List.range n).map (fun k => pktFirst (s.entry l).packet + k) ∧
      ∀ k, k < n → (t.coreBank (bankKey (pktFirst (s.entry l).packet + k)
        ((s.bankOf (clusterOf (pktFirst (s.entry l).packet + k)) l.1).getD 0))).launch = some l) ∧
  (∀ s i l, (s.part s.arg.a).oldest = some i → l = (s.arg.a, i) → (s.entry l).st = .waiting → (∃ c ∈ s.coresOf l, s.coreFree l c = false) →
    if pktNowait (s.entry l).packet then ∃ t : State, exec .launchDequeue s = .next t ∧ t = s.refuseLaunch l (5, 0) ∧ Leaves s t l true
    else exec .launchDequeue s = .next s) ∧
  (∀ s l c b h first count i k size, l = (s.arg.a, s.arg.b) → c = s.arg.c → (s.entry l).st = .waking → c ∈ (s.entry l).toWake → s.bankOf (clusterOf c) l.1 = some b →
    b = (s.core c).liveBank → (s.cluster (clusterOf c)).resting = false → h = s.header l → first = pktFirst (s.entry l).packet → count = pktCount (s.entry l).packet → 1 ≤ count → first ≤ c → i = c - first → k = bankKey (4 * c) b →
    size = (if h.twin then 98304 else (max 32768 h.scratch + 16383) / 16384 * 16384) → h.scratch < 2 ^ 20 →
    ∃ t : State, exec .coreWake s = .next t ∧ (t.entry l).toWake = (s.entry l).toWake.filter (fun x => decide (x ≠ c)) ∧
      ((s.entry l).toWake = [c] → (t.entry l).st = .running) ∧
      (t.slotAt k).state = .starting ∧ (t.slotAt k).launch = some l ∧ (t.slotAt k).pcc = h.kcap.withCursor (h.base + h.entry) ∧
      (t.slotAt k).preds = 1 ∧ (t.slotAt k).hm = false ∧ (t.slotAt k).gens = seedDerive 0 ∧
      ((t.slotAt k).reg 1).val = BitVec.ofNat 128 (i % count % 2 ^ 64) ∧ ((t.slotAt k).reg 2).val = BitVec.ofNat 128 (count % 2 ^ 64) ∧
      (t.slotAt k).reg 3 = (s.entry l).packet.g1 ∧ ((t.slotAt k).reg 4).base = 0xFF0000000000 ∧ ((t.slotAt k).reg 4).top = 0xFF0000000000 + h.scratch ∧
      ((t.slotAt k).reg 5).base = 0xFF0100000000 ∧ ((t.slotAt k).reg 5).top = 0xFF0100000000 + 48 * 98304 ∧
      ((t.slotAt k).reg 6).base = 0xFF0200000000 ∧ ((t.slotAt k).reg 6).top = 0xFF0200000040 ∧
      ((t.slotAt k).reg 7).base = 0xFF0200010000 ∧ ((t.slotAt k).reg 7).top = 0xFF0200020000 ∧
      (t.coreBank (bankKey c b)).spad = size ∧
      (t.coreBank (bankKey c b)).l1Bytes = (if (s.cluster (clusterOf c)).shared then 49152 else 98304) - size ∧
      (h.twin = true → (t.core c).twin = some (if i < count then (c + count, true) else (c - count, false)))) ∧
  (∀ s l, l = (s.arg.a, s.arg.b) → (s.entry l).st = .running → s.launchQuiet l = true → s.armedCells l = 0 → (s.entry l).abnormal = false →
    ∃ t : State, exec .launchComplete s = .next t ∧ Leaves s t l false ∧ ∀ b, (t.coreBank b).launch ≠ some l) ∧
  (∀ s l, l = (s.arg.a, s.arg.b) → (s.entry l).st = .running → s.launchQuiet l = true → (s.entry l).abnormal = true →
    ∃ t : State, exec .launchComplete s = .next t ∧ Leaves s t l true ∧ ∀ b, (t.coreBank b).launch ≠ some l) ∧
  (∀ s l, l = (s.arg.a, s.arg.b) → (∃ k sl, look s.slots k = some sl ∧ sl.launch = some l ∧ sl.state ≠ .idle) → exec .launchComplete s = .next s)

namespace Sys2Proof.Machine

/-- A slot that may go on with the instruction on which it waits: its context is live, neither it nor its cluster is halted, its core is in
service and no twin's, and it has not been killed (R153, R387, R473). -/
structure GoesOn (s : State) (k : Nat) (i : Instr) : Prop where
  waits : (s.slotAt k).state = .waiting i
  live : k % 2 = (s.core (k / 8)).liveBank ∧ (s.slotAt k).halted = false ∧ (s.core (k / 8)).stopped = false ∧
    (s.cluster (k / 8 / 48)).halted = false
  alone : (s.slotAt k).twinOk = false ∧ (s.slotAt k).killed = false

/-- A wait has ended: the state is the instruction's own, and the watchdog of its partition starts again (R179, R184). -/
structure WaitEnds (s u t : State) (p : Nat) : Prop where
  effect : t.slots = u.slots ∧ t.mem = u.mem ∧ t.spad = u.spad ∧ t.clusters = u.clusters ∧ t.coreBanks = u.coreBanks
  watchdog : t.part p = { u.part p with wdCount := 0 } ∧ ∀ q, q ≠ p → t.part q = u.part q

/-- An instruction that waits is tried again in the state `s`: the state is its own, and where its wait was satisfied the watchdog of the partition
starts again; a trap, a parked strand and an abnormal end satisfy no wait (R153, R179, R184). -/
def TriedAgain (s t : State) (k : Nat) (i : Instr) : Prop :=
  ∃ u : State, runStrand i s = .next u ∧
    if (u.slotAt k).state ≠ .waiting i ∧ waitMet i (s.slotAt k) (u.slotAt k) = true then WaitEnds s u t (s.partOf k) else t = u

/-- WAITTK of slot `k` may complete in the state `s`: its ticket is served, and nothing that it follows is missing (R184, R197). -/
structure TicketServed (s : State) (f : MForm) : Prop where
  runs : Runs 0x20A f s
  names : IsTicket s (s.operands 0x20A f).a.dv
  served : Served s (s.operands 0x20A f).a.dv (low32 (s.operands 0x20A f).b)
  alone : (s.core s.myCore).twin = none ∧ s.sl.sbuf = [] ∧ s.soAhead s.me = false ∧ parkIll f s = false

/-- A ready strand at the safe point `i`, asked to migrate, with nothing outstanding (R165, R168). -/
structure AtSafePoint (s : State) (k i : Nat) : Prop where
  ready : (s.slotAt k).state = .ready ∧ (s.slotAt k).halted = false ∧ (s.core (k / 8)).stopped = false
  asked : (s.slotAt k).migReq = true ∧ (s.slotAt k).routine = .none ∧ (s.slotAt k).hm = false ∧ (s.slotAt k).qmap = 0
  settled : (s.slotAt k).pend = false ∧ (s.slotAt k).drained = true ∧ ({ s with cur := .slot k }).repliesOut = false
  point : (let h := s.header ((s.slotAt k).launch.getD (0, 0)); i < h.points.length ∧ h.base + (h.point i).sppc = (s.slotAt k).pcc.cursor ∧
    ∀ j, j < i → h.base + (h.point j).sppc ≠ (s.slotAt k).pcc.cursor)

/-- A closing window takes the record of its first waiting member to the engine (R287). -/
structure Closing (s : State) (c : Nat) (w : Window) (k : Nat) (more : List Nat) (eng : Nat) : Prop where
  window : (s.cluster c).windows[s.arg.b]? = some w ∧ s.arg.a = c ∧ 64 ≤ (s.now - w.opened).toNat
  members : w.members.filter (fun m => decide ((s.slotAt m).joined = some none)) = k :: more ∧ (k :: more).Nodup
  engine : sendTarget (rOpcode w.record) = some eng ∧ (s.jobs (inputOf eng c)).length < inputSize eng
  plain : ∀ m ∈ k :: more, (s.core (m / 8)).twin = none

end Sys2Proof.Machine

/-- R156, R165, R168, R184, R287: parked records, migrations and combining windows. That each partition has its own ticket pairs of a cluster is R196
with R407. -/
def Obligations.RecordsMoveBetweenUnits : Prop :=
  (∀ s c i p, s.arg.a = c → s.arg.b = i → (s.cluster c).parked[i]? = some p → (p.marked = true ∨ p.ready = true) →
    recordBad (s.header p.launch) p.record = false → s.stageFull c p.launch (recStage p.record) = false →
    ∃ t : State, exec .parkedRecordRelease s = .next t ∧ (t.cluster c).parked = (s.cluster c).parked.eraseIdx i ∧
      (((t.cluster c).queuesOf p.launch).get (recStage p.record)) =
        ((s.cluster c).queuesOf p.launch).get (recStage p.record) ++ [(p.record, p.marked)] ∧
      (p.marked = false → (t.part p.launch.1).wdCount = 0)) ∧
  (∀ s c i p h ph n, s.arg.a = c → s.arg.b = i → (s.cluster c).parked[i]? = some p → p.marked = false → p.ready = false → p.dest = .ticket h ph n →
    2 ^ 31 ≤ ((s.ticketPair h p.launch.1 ph).2 - n).toNat → exec .parkedRecordRelease s = .next s) ∧
  (∀ s c i p h n x, s.arg.a = c → s.arg.b = i → (s.cluster c).parked[i]? = some p → p.marked = false → p.ready = false → p.dest = .domain h n →
    s.cellOf h = some x → ¬Passed x n → exec .parkedRecordRelease s = .next s) ∧
  (∀ s k i h, k = s.slotKey s.arg.a → AtSafePoint s k i → h = s.header ((s.slotAt k).launch.getD (0, 0)) →
    ∃ t : State, exec .migrationAtSafepoint s = .next t ∧ (t.slotAt k).routine = .save i (.stage (k / 8 / 48)) ∧ (t.slotAt k).migReq = false ∧
      (t.slotAt k).reg 1 = (s.slotAt k).pcc ∧ (t.slotAt k).pcc = (s.slotAt k).pcc.withCursor (h.base + (h.point i).save) ∧
      ∀ j, j ≠ k → t.slotAt j = s.slotAt j) ∧
  (∀ (s : State) (v : Word) (core k : Nat), s.arg.pay = .word v → core = v.toNat % 2 ^ 15 → core < 18432 → k = s.slotKey (4 * core + v.toNat / 2 ^ 15 % 4) →
    ∃ t : State, exec .migreqWrite s = .next t ∧ t.slotAt k = { s.slotAt k with migReq := v.getLsbD 17 } ∧ ∀ j, j ≠ k → t.slotAt j = s.slotAt j) ∧
  (∀ s k, k = s.slotKey s.arg.a → (s.slotAt k).state ≠ .idle → (s.slotAt k).qmap = 0 →
    ∃ t : State, exec .stageSchedulerRebalance s = .next t ∧ t.slotAt k = { s.slotAt k with migReq := true }) ∧
  (∀ s k, k = s.slotKey s.arg.a → (s.slotAt k).qmap ≠ 0 → exec .stageSchedulerRebalance s = .next s) ∧
  (∀ s c w k more eng, Closing s c w k more eng →
    ∃ (t : State) (j : Job), exec .combineWindowClose s = .next t ∧ t.jobs (inputOf eng c) = s.jobs (inputOf eng c) ++ [j] ∧ j.record = w.record ∧
      j.part = s.partOf k ∧ j.slot = k / 2 ∧ (t.cluster c).windows = (s.cluster c).windows.eraseIdx s.arg.b ∧
      ∀ m ∈ k :: more, (t.slotAt m).joined = some (some (acceptWord j.pos (decide (more ≠ [])) false)))

/-- R171: the pick serves a stage whose queue is not empty and whose output is not full, a stage that has aged to 48 before any other, and takes
the first record of its queue that may resume on the core. -/
def Obligations.PicksAreEligible : Prop :=
  (∀ h q fits q' r m, h.stages.length ≤ 16 → stagePickFor h q fits = (q', some (r, m)) →
    ∃ i at_, i < h.stages.length ∧ (q.get i)[at_]? = some (r, m) ∧ fits r = true ∧ (∀ b p, b < at_ → (q.get i)[b]? = some p → fits p.1 = false) ∧
      (h.out i ≠ 0xFF → (q.get (h.out i)).length < h.bound (h.out i)) ∧ q'.get i = (q.get i).eraseIdx at_ ∧ q'.age i = 0 ∧
      (∀ k, k < h.stages.length → k ≠ i → q'.get k = q.get k) ∧
      (∀ k, k < h.stages.length → 48 ≤ q.age k → stageEligible h q k = true → (∃ p ∈ q.get k, fits p.1 = true) → 48 ≤ q.age i ∧ q.age k ≤ q.age i)) ∧
  (∀ s c core l k q r m, s.arg.a = c → c < 384 → (s.cluster c).resting = false → (s.cluster c).pickAt = 0 → core = 48 * c → k = bankKey (4 * core) (s.core core).liveBank →
    (s.coreBank (s.coreKey core)).launch = some l → (s.slotAt k).state = .idle → (s.core core).stopped = false → core ∉ (s.entry l).toWake →
    stagePickFor (s.header l) ((s.cluster c).queuesOf l) (fun r => s.mayResume r core) = (q, some (r, m)) → recSafept r = 0xFFFF →
    (s.core core).liveBank < 2 →
    ∃ t : State, exec .stagePick s = .next t ∧ (t.slotAt k).state = .starting ∧ (t.slotAt k).launch = some l ∧ (t.slotAt k).pcc = r.g0 ∧
      (t.slotAt k).reg 2 = r.g1 ∧ (t.slotAt k).stage = recStage r ∧ (t.slotAt k).picked = some r ∧ (t.slotAt k).wdMark = m ∧
      ((t.cluster c).queuesOf l).get (recStage r % 16) = q.get (recStage r % 16) ∧ (t.cluster c).pickAt = 1) ∧
  (∀ s, (s.cluster s.arg.a).resting = true → exec .stagePick s = .next s)

namespace Sys2Proof.Machine

/-- The next messages of a twinned pair, at the egress router. -/
abbrev PairMessages (s : State) (p t : Nat) (a b : TwinMsg) : Prop :=
  s.arg.a = p ∧ (s.core p).twin = some (t, true) ∧ (s.core t).twin = some (p, false) ∧ p ≠ t ∧ (s.core p).twinMsgs.head? = some a ∧ (s.core t).twinMsgs.head? = some b

/-- Both cores of a pair have stopped. -/
abbrev BothStopped (t : State) (p q : Nat) : Prop := (t.core p).stopped = true ∧ (t.core q).stopped = true

end Sys2Proof.Machine

/-- R179, R184, R390, R396, R479: a waiting instruction is tried again and completes when what it waits for has come; a killed strand ends
instead. A watchdog that has counted to its limit traps every strand of its partition that waits in an instruction whose row names the cause; messages
of a twinned pair that differ, or that wait 4,096 clk for the other, stop both cores, and equal ones of the matrix engine let its writes go. -/
def Obligations.WaitsWatchdogsAndTwins : Prop :=
  (∀ s k i, k = s.slotKey s.arg.a → s.arg.b ≠ 1 → s.arg.c = 0 → GoesOn s k i →
    ∃ t : State, exec .waitComplete s = .next t ∧ TriedAgain { s with groups := none, cur := .slot k } t k i) ∧
  (∀ s k u f, k = s.slotKey s.arg.a → s.arg.b ≠ 1 → s.arg.c = 0 → GoesOn s k (.waittk f) → u = { s with groups := none, cur := .slot k } →
    TicketServed u f → ∃ t : State, exec .waitComplete s = .next t ∧ (t.slotAt k).state = .ready ∧
      (t.slotAt k).pcc = (s.slotAt k).pcc.withCursor ((s.slotAt k).pcc.cursor + f.len) ∧ (t.part (s.partOf k)).wdCount = 0 ∧
      t.mem = (u.acquireAt u.myCoreKey (unitScope u.myCore ((u.operands 0x20A f).a.dv.toNat / 64))).mem ∧
      ∀ j, j ≠ k → t.slotAt j = s.slotAt j) ∧
  (∀ s k i, k = s.slotKey s.arg.a → GoesOn s k i → (∃ d, d < 8 ∧ (s.csr d 0x4CB).extractLsb' 0 2 = 2) →
    ∃ t : State, exec .replayAdmit s = .next t ∧ TriedAgain { s with cur := .slot k } t k i) ∧
  (∀ s k u f, k = s.slotKey s.arg.a → GoesOn s k (.waittk f) → (∃ d, d < 8 ∧ (s.csr d 0x4CB).extractLsb' 0 2 = 2) → u = { s with cur := .slot k } →
    TicketServed u f → ∃ t : State, exec .replayAdmit s = .next t ∧ (t.slotAt k).state = .ready ∧
      (t.slotAt k).pcc = (s.slotAt k).pcc.withCursor ((s.slotAt k).pcc.cursor + f.len) ∧ (t.part (s.partOf k)).wdCount = 0) ∧
  (∀ s, (∀ d, d < 8 → (s.csr d 0x4CB).extractLsb' 0 2 ≠ 2) → exec .replayAdmit s = .next s) ∧
  (∀ s k i, k = s.slotKey s.arg.a → s.arg.b ≠ 1 → (s.slotAt k).state = .waiting i → (s.slotAt k).killed = true → (s.slotAt k).halted = false →
    k % 2 = (s.core (k / 8)).liveBank → (s.core (k / 8)).stopped = false → (s.cluster (k / 8 / 48)).halted = false →
    ∃ t : State, exec .waitComplete s = .next t ∧ (t.slotAt k).state = .idle ∧ (t.slotAt k).launch = none) ∧
  (∀ s p, s.arg.a = p → (s.part p).wdLimit ≠ 0 → (s.part p).wdLimit ≤ (s.part p).wdCount →
    ∃ t : State, exec .watchdogExpire s = .next t ∧ (t.part p).wdCount = 0) ∧
  (∀ s p k i sl, s.arg.a = p → (s.part p).wdLimit ≠ 0 → (s.part p).wdLimit ≤ (s.part p).wdCount → s.slots = [(k, sl)] → sl.state = .waiting i →
    s.watched k i = true → sl.halted = false → k % 2 = (s.core (k / 8)).liveBank → s.partOf k = p →
    ∃ t : State, exec .watchdogExpire s = .next t ∧ t.slotAt k = (({ s with cur := .slot k }).takeTrap 0x12 0).slotAt k ∧
      (t.slotAt k).state ≠ .waiting i) ∧
  (∀ s p, s.arg.a = p → ((s.part p).wdLimit = 0 ∨ (s.part p).wdCount < (s.part p).wdLimit) → exec .watchdogExpire s = .next s) ∧
  (∀ s p q a b, PairMessages s p q a b → (a.crc ≠ b.crc ∨ a.kind ≠ b.kind) →
    ∃ t : State, exec .twinCompare s = .next t ∧ BothStopped t p q) ∧
  (∀ s p q a b, PairMessages s p q a b → a.crc = b.crc → a.kind = b.kind → 2 ≤ a.kind →
    ∃ t : State, exec .twinCompare s = .next t ∧ (t.core p).twinMsgs = (s.core p).twinMsgs.drop 1 ∧ (t.core q).twinMsgs = (s.core q).twinMsgs.drop 1 ∧
      (∀ j, (s.jobs (.matrix p)).head? = some j → (t.jobs (.matrix p)).head? = some { j with twin := 2 }) ∧ t.mem = s.mem ∧ t.spad = s.spad) ∧
  (∀ s p q a, s.arg.a = p → (s.core p).twin = some (q, true) → p ≠ q → (s.core p).twinMsgs.head? = some a → (s.core q).twinMsgs = [] →
    4096 ≤ (s.now - a.came).toNat → ∃ t : State, exec .twinTimeout s = .next t ∧ BothStopped t p q) ∧
  (∀ s p q, s.arg.a = p → (s.core p).twin = some (q, true) → (∀ a, (s.core p).twinMsgs.head? = some a → (s.now - a.came).toNat < 4096) →
    (∀ a, (s.core q).twinMsgs.head? = some a → (s.now - a.came).toNat < 4096) → exec .twinTimeout s = .next s)

namespace Sys2Proof.Machine

/-- The word that a firmware write hands to a unit. -/
abbrev Writes (s : State) (v : Word) : Prop := s.arg.pay = .word v

/-- The bits that a firmware write of CSR `n` keeps and a read gives back, for the CSRs without an operation or a status of their own. -/
def plainBits (n : Nat) : Option Word :=
  if 0x380 ≤ n ∧ n ≤ 0x47F then some (BitVec.ofNat 64 (2 ^ 44 - 1))
  else if 0x480 ≤ n ∧ n ≤ 0x4BF then some (BitVec.ofNat 64 (2 ^ 52 - 1))
  else if 0x4C0 ≤ n ∧ n ≤ 0x4C3 then some (BitVec.ofNat 64 (2 ^ 60 - 1))
  else if n = 0x340 then some (BitVec.ofNat 64 (2 ^ 64 - 1))
  else if n = 0x350 ∨ n = 0x4C8 ∨ n = 0x4C9 ∨ n = 0x4CA then some (BitVec.ofNat 64 (1 + (2 ^ 52 - 2 ^ 18)))
  else if n = 0x351 then some 0x3F
  else if n = 0x360 then some (BitVec.ofNat 64 (1 + (2 ^ 52 - 2 ^ 13)))
  else if n = 0x372 then some (BitVec.ofNat 64 (2 ^ 52 - 2 ^ 18))
  else if n = 0x37E then some 0xFFFF
  else if n = 0x4C5 then some 0xFFFFFF
  else if n = 0x4CD then some 0xFFF
  else none

/-- Whether an entry of the felling record comes behind the new entry `e`: of the same time, and of a greater source (R455). -/
def Felling.behind (e g : Felling) : Bool := g.time = e.time && decide (e.source < g.source)

/-- An entry of the felling record of a die, with its code, at the present time: the last 4,096 entries stay, those of one time in the order of
their sources (R455, R480). -/
def Enters (s t : State) (d code : Nat) : Prop := ∃ e : Felling, e.code = code ∧ e.time = s.now ∧
  (t.die d).felling = ((s.die d).felling.filter (fun g => !e.behind g) ++ [e] ++ (s.die d).felling.filter e.behind).drop
    ((s.die d).felling.length + 1 - 4096)

/-- The felling record of a die has room for more entries of the present time: what enters now stays. -/
abbrev FellingRoom (s : State) (d : Nat) : Prop := ((s.die d).felling.filter fun g => decide (g.time = s.now)).length < 4000

/-- An entry of the present time stands in the felling record of a die. -/
abbrev Felled (s t : State) (d code : Nat) : Prop := ∃ e ∈ (t.die d).felling, e.code = code ∧ e.time = s.now

/-- The slot and the item that DBGSEL of die `d` selects. -/
abbrev Selects (s : State) (d k item : Nat) : Prop :=
  k = s.slotKey (4 * ((s.csr d 0x4C5).toNat % 2 ^ 15) + (s.csr d 0x4C5).toNat / 2 ^ 15 % 4) ∧ item = (s.csr d 0x4C5).toNat / 2 ^ 17 % 2 ^ 7

/-- A slot of cluster `c` whose context is live. -/
abbrev LiveIn (s : State) (c k : Nat) : Prop := k / 8 / 48 = c ∧ k % 2 = (s.core (k / 8)).liveBank

end Sys2Proof.Machine

/-- R37, R179, R211, R222, R295, R403, R446 to R448, R471, R473, R475: what the firmware writes and reads back. A DBGBP stands in the cluster it
names when that is one of the die. That BRKHALT stands for the BRK of every cluster of the die, and that a halt names a cluster of the die, is the
model's reading (log 22). -/
def Obligations.FirmwareWritesRegisters : Prop :=
  (∀ s v m, Writes s v → plainBits s.arg.b = some m → ∃ t : State, exec .csrWrite s = .next t ∧ t.csrValue s.arg.a s.arg.b = v &&& m ∧
    t.mem = s.mem ∧ t.spad = s.spad ∧ t.slots = s.slots ∧ t.coreBanks = s.coreBanks) ∧
  (∀ s v i c, Writes s v → i < 4 → s.arg.b = 0x4C0 + i → c = v.toNat / 2 ^ 51 % 2 ^ 9 → c / 48 = s.arg.a % 8 →
    ∃ t : State, exec .csrWrite s = .next t ∧ (t.cluster c).bps.toList[i]? = some (v &&& BitVec.ofNat 64 (2 ^ 60 - 1))) ∧
  (∀ s v, Writes s v → s.arg.b = 0x4CB → v.extractLsb' 0 2 ≠ 3 →
    ∃ t : State, exec .csrWrite s = .next t ∧ (t.csr (s.arg.a % 8) 0x4CB).extractLsb' 0 2 = v.extractLsb' 0 2 ∧
      (t.csr (s.arg.a % 8) 0x4CB).getLsbD 3 = ((s.csr (s.arg.a % 8) 0x4CB).getLsbD 3 && !v.getLsbD 3)) ∧
  (∀ s v c, Writes s v → c = v.toNat % 2 ^ 9 → c / 48 = s.arg.a % 8 → v.getLsbD 9 = true → (∀ p ∈ s.slots, p.2.armed ≠ some false) →
    ∃ t : State, exec .dbgctlHalt s = .next t ∧ (t.cluster c).halted = true ∧ (t.csr (s.arg.a % 8) 0x4C4).getLsbD 11 = v.getLsbD 11 ∧
      t.mem = s.mem ∧ t.spad = s.spad ∧
      ∀ k, t.slotAt k = if LiveIn s c k ∧ (s.slotAt k).state ≠ .idle then { s.slotAt k with halted := true } else s.slotAt k) ∧
  (∀ s v c k, Writes s v → c = v.toNat % 2 ^ 9 → c / 48 = s.arg.a % 8 → v.getLsbD 9 = true → LiveIn s c k → (s.cluster c).liveBank = k % 2 →
    (s.slotAt k).armed = some false →
    ∃ t : State, exec .dbgctlHalt s = .next t ∧ (t.slotAt k).armed = some true ∧ (t.slotAt k).pcc = (s.slotAt k).pcc ∧
      ∀ m ∈ (t.cluster c).monitors, m.slotKey ≠ k) ∧
  (∀ s v c, Writes s v → c = v.toNat % 2 ^ 9 → c / 48 ≠ s.arg.a % 8 → v.getLsbD 9 = true →
    ∃ t : State, exec .dbgctlHalt s = .next t ∧ t.slots = s.slots ∧ t.clusters = s.clusters ∧
      t.csr (s.arg.a % 8) 0x4C4 = v &&& 0x9FF) ∧
  (∀ s v c, Writes s v → c = v.toNat % 2 ^ 9 → c / 48 = s.arg.a % 8 → v.getLsbD 9 = false → v.getLsbD 10 = true → (∀ p ∈ s.slots, p.2.killed = false) →
    (s.cluster c).idled = false →
    ∃ t : State, exec .dbgctlResume s = .next t ∧ (t.cluster c).halted = false ∧ t.mem = s.mem ∧ t.spad = s.spad ∧
      ∀ k, t.slotAt k = if LiveIn s c k then { s.slotAt k with halted := false } else s.slotAt k) ∧
  (∀ s v k item, Writes s v → Selects s (s.arg.a % 8) k item → k / 8 / 2304 = s.arg.a % 8 → (s.slotAt k).halted = true →
    ∃ t : State, exec .dbgdataWrite s = .next t ∧ (∀ j, j ≠ k → t.slotAt j = s.slotAt j) ∧
      (item < 0x40 → item % 32 ≠ 0 → t.csrValue s.arg.a 0x4C6 = v) ∧
      (0x40 < item → item < 0x60 → t.csrValue s.arg.a 0x4C6 = v &&& 1) ∧
      (item = 0x60 → t.csrValue s.arg.a 0x4C6 = v &&& BitVec.ofNat 64 (2 ^ 48 - 4)) ∧
      (item = 0x61 → t.csrValue s.arg.a 0x4C6 = (v &&& 0xFF) ||| 1) ∧
      (item % 32 = 0 → item < 0x60 → t.csrValue s.arg.a 0x4C6 = 0 ∧ t.slotAt k = s.slotAt k) ∧
      (0x61 < item → t.csrValue s.arg.a 0x4C6 = 0 ∧ t.slotAt k = s.slotAt k)) ∧
  (∀ s v k item, Writes s v → Selects s (s.arg.a % 8) k item → ((s.slotAt k).halted = false ∨ k / 8 / 2304 ≠ s.arg.a % 8) →
    exec .dbgdataWrite s = .next s ∧ s.csrValue s.arg.a 0x4C6 = 0) ∧
  (∀ s, ∃ t : State, exec .portdigClear s = .next t ∧ t.csrValue 0 (0x4D0 + s.arg.a % 18) = 0 ∧ ∀ p, p ≠ s.arg.a % 18 → t.port p = s.port p) ∧
  (∀ s n svn, s.arg.pay = .nonce n → (s.die 0).boot = .running svn →
    ∃ t : State, exec .attestRequest s = .next t ∧ t.attReport.length = 912 ∧ (t.attReport.drop 8).take 32 = leBytes 32 n.toNat ∧
      (t.attReport.drop 4).take 4 = leBytes 4 svn.toNat ∧
      (t.attReport.drop 528) = leBytes 384 (Config.sign (t.attReport.take 528)).toNat ∧
      (∀ i, i < 8 → (t.attReport.drop (48 + 32 * i)).take 32 = leBytes 32 (((s.die 0).measurements.toList[i]?).getD 0).toNat) ∧
      ∀ d, 0 < d → d < 8 → (t.attReport.drop (272 + 32 * d)).take 32 = leBytes 32 ((s.die d).measurements[0]).toNat)

namespace Sys2Proof.Machine

/-- A key ID that no base die, or every base die, holds. -/
abbrev NoKey (s : State) (k : BitVec 6) : Prop := ∀ d, d < 8 → (s.die d).keys.getLsbD k.toNat = false

/-- The maps that hold the memory and its keys are in their canonical form. -/
abbrev MapsRise (s : State) : Prop := s.mem.wf ∧ risingFrom 0 s.keyOf = true ∧ risingFrom 0 s.lineMeta = true

/-- No operation under a key is outstanding: no page clear, no operation of a requester, none in a skid ring (R487). -/
structure KeyUnused (s : State) (k : BitVec 6) : Prop where
  clears : ∀ e f n, e < 8 → (s.die e).clearing ≠ some (f, k, n)
  operations : ∀ r ∈ s.requesters, ∀ q ∈ r.2.open_, q.op.underKey (s.part (reqPart r.1)).pkeyId k = false
  rings : (∀ b ∈ s.coreBanks, b.2.skidOut = []) ∧ ∀ v ∈ s.saved, ∀ b ∈ v.banks, b.2.skidOut = []

/-- No core holds partial sums of a line of the page. -/
abbrev NoPartials (s : State) (frame : Nat) : Prop :=
  ∀ b ∈ s.coreBanks, ∀ l ∈ b.2.l1, l.1 / 4096 = frame → l.2.parts = []

end Sys2Proof.Machine

/-- R221, R222, R487: keys are drawn and destroyed on every base die, and a page is cleared line by line under its new key. -/
def Obligations.KeysAndPageClears : Prop :=
  (∀ s v d k, Writes s v → d = s.arg.a % 8 → k = v.setWidth 6 → v.extractLsb' 6 2 = 1 → (s.die d).pkeyBusy = false → NoKey s k →
    ∃ t : State, exec .pkeyDraw s = .next t ∧ t.keyHeld k = true ∧ t.drawsOf k = s.drawsOf k + 1 ∧ (t.die d).pkeyRefused = false ∧ t.mem = s.mem ∧
      ∀ j, j ≠ k → t.keyHeld j = s.keyHeld j) ∧
  (∀ s v d k, Writes s v → d = s.arg.a % 8 → k = v.setWidth 6 → v.extractLsb' 6 2 = 1 → (s.die d).pkeyBusy = false → ¬NoKey s k →
    ∃ t : State, exec .pkeyDraw s = .next t ∧ (t.die d).pkeyRefused = true ∧ t.keyDraws = s.keyDraws ∧ ∀ j, t.keyHeld j = s.keyHeld j) ∧
  (∀ s v d k, Writes s v → d = s.arg.a % 8 → k = v.setWidth 6 → v.extractLsb' 6 2 = 2 → (s.die d).pkeyBusy = false → NoKey s k →
    ∃ t : State, exec .pkeyDestroy s = .next t ∧ (t.die d).pkeyRefused = true ∧ ∀ j, t.keyHeld j = s.keyHeld j) ∧
  (∀ s v d k, Writes s v → d = s.arg.a % 8 → k = v.setWidth 6 → v.extractLsb' 6 2 = 2 → (s.die d).pkeyBusy = false → ¬NoKey s k →
    KeyUnused s k →
    ∃ t : State, exec .pkeyDestroy s = .next t ∧ NoKey t k ∧ (t.die d).pkeyBusy = false ∧ (t.die d).pkeyRefused = false ∧ Enters s t d 0x06 ∧
      ∀ j, j ≠ k → t.keyHeld j = s.keyHeld j) ∧
  (∀ s v d k f n, Writes s v → d = s.arg.a % 8 → k = v.setWidth 6 → v.extractLsb' 6 2 = 2 → (s.die d).pkeyBusy = false → ¬NoKey s k →
    (s.die d).clearing = some (f, k, n) →
    ∃ t : State, exec .pkeyDestroy s = .next t ∧ (t.die d).pkeyBusy = true ∧ ∀ j, t.keyHeld j = s.keyHeld j) ∧
  (∀ s v d k r q, Writes s v → d = s.arg.a % 8 → k = v.setWidth 6 → v.extractLsb' 6 2 = 2 → (s.die d).pkeyBusy = false → ¬NoKey s k →
    r ∈ s.requesters → q ∈ r.2.open_ → q.op.underKey (s.part (reqPart r.1)).pkeyId k = true →
    ∃ t : State, exec .pkeyDestroy s = .next t ∧ (t.die d).pkeyBusy = true ∧ ∀ j, t.keyHeld j = s.keyHeld j) ∧
  (∀ s v d frame k, Writes s v → d = s.arg.a % 8 → frame = v.toNat / 2 ^ 18 % 2 ^ 34 → k = v.extractLsb' 1 6 → v.getLsbD 0 = true →
    (s.die d).clearing = none → frame * 2 ^ 18 < 2 ^ 40 → backed (frame * 2 ^ 18) = true → MapsRise s → NoPartials s frame →
    (∀ e, e < 8 → (s.die e).pkeyBusy = false) →
    ∃ t u : State, exec .pgclrGo s = .next t ∧ (t.die d).clearing.isSome = true ∧ exec .pgclrDone t = .next u ∧ (u.die d).clearing = none ∧
      (∀ i, i < 4096 → (t.homeBytes k (64 * (frame * 4096 + i)) 64 = List.replicate 64 0 ∧ t.metaOf (frame * 4096 + i) = ⟨7, 0, 0⟩) ∨
        t.mem.bytes (64 * (frame * 4096 + i)) 64 = s.mem.bytes (64 * (frame * 4096 + i)) 64) ∧
      (∀ i, i < 4096 → u.homeBytes k (64 * (frame * 4096 + i)) 64 = List.replicate 64 0 ∧ u.metaOf (frame * 4096 + i) = ⟨7, 0, 0⟩ ∧
        ∀ g, g < 4 → 4 * (frame * 4096 + i) + g ∉ u.mem.tags) ∧
      ∀ a, a / 2 ^ 18 ≠ frame → u.mem.get a = s.mem.get a) ∧
  (∀ s v d, Writes s v → d = s.arg.a % 8 → v.getLsbD 0 = true → (s.die d).clearing = none → backed (v.toNat / 2 ^ 18 % 2 ^ 34 * 2 ^ 18) = false →
    ∃ t : State, exec .pgclrGo s = .next t ∧ (t.die d).clearing = none ∧ t.mem = s.mem) ∧
  (∀ s, (s.die (s.arg.a % 8)).clearing = none → exec .pgclrDone s = .next s)

namespace Sys2Proof.Machine

/-- The boot ROM accepts an image on die `d` of the package `s`: the host attach and the die links bring it whole, with its magic and a body of the length
that its header gives; its key, its signature and its version pass (R484, R485). -/
abbrev Accepts (s : State) (d : Nat) (image : List Byte) : Prop :=
  (∃ m, m < 4 ∧ s.lanes m ≠ 0) ∧ s.pathUp 0 d = true ∧ leNat (image.take 4) = 0x46574450 ∧ leNat ((image.drop 8).take 4) % 64 = 0 ∧
  832 + leNat ((image.drop 8).take 4) ≤ image.length ∧
  Config.sha256 ((image.drop 64).take 384) = Config.fuseKey d ∧
  Config.signatureOk ((image.drop 64).take 384) ((image.drop 448).take 384) (Config.sha256 (image.take 64 ++ (image.drop 832).take (leNat ((image.drop 8).take 4)))) = true ∧
  Config.fuseSvn d ≤ leNat ((image.drop 4).take 4)

/-- A die that has booted an image, or refused it. -/
def BootedWith (s : State) (x : Die) (d : Nat) (image : List Byte) : Prop :=
  (Accepts s d image → x.boot = .running (BitVec.ofNat 32 (leNat ((image.drop 4).take 4))) ∧
    x.measurements[0] = Config.sha256 (leBytes 32 0 ++ leBytes 32 (Config.sha256 image).toNat)) ∧
  (¬Accepts s d image → ∃ n, 1 ≤ n ∧ n ≤ 4 ∧ x.boot = .failed n) ∧ ∀ i, 0 < i → i < 8 → x.measurements.toList[i]? = some 0

/-- What cluster `c` holds has been prepared for another owner (R220): no strand, no data in its scratchpads, and its banks as after a reset. -/
structure Clean (t : State) (c : Nat) : Prop where
  slots : ∀ k, k / 8 / 48 = c → t.slotAt k = Slot.reset
  banks : ∀ k, k / 2 / 48 = c → t.coreBank k = CoreBank.reset
  spad : ∀ a, a / sliceSize / 48 = c → t.spad.get a = 0
  weights : ∀ q, q / 12 = c → (t.quad q).weights = Vector.replicate 2 {}
  units : (t.cluster c).tlb = [] ∧ (t.cluster c).cells = [] ∧ (t.cluster c).joins = [] ∧ (t.cluster c).queues = [] ∧ (t.cluster c).parked = []

end Sys2Proof.Machine

/-- R205, R220, R387, R388, R431, R483 to R485, R489: preparation, stopped cores, resets and the junction events. What a reset or a preparation leaves as
it is, that what is no image fails step 1, and the code of a junction alert are the model's choices (log 29, log 6, log 4). -/
def Obligations.ClustersCoresAndResets : Prop :=
  (∀ s c o, s.arg.a = c → c < 384 → s.arg.pay = .owner o → s.arg.b = 0 → (o = none ∨ ∀ d, d < 8 → ∃ v, (s.die d).boot = .running v) →
    ∃ t : State, exec .clusterPrepare s = .next t ∧ Clean t c ∧ (t.cluster c).ctx0 = o.map (· % 64) ∧ t.mem = s.mem ∧
      (∀ e, e ≠ c → t.cluster e = s.cluster e) ∧ ∀ k, k / 8 / 48 ≠ c → t.slotAt k = s.slotAt k) ∧
  (∀ s core, s.arg.a = core → core < 18432 → (s.core core).stopped = false → FellingRoom s (core / 2304) →
    ∃ t : State, exec .coreStop s = .next t ∧ (t.core core).stopped = true ∧ t.spad = s.spad ∧ Felled s t (core / 2304) 0x02 ∧
      (∀ i, i < 8 → (t.slotAt (8 * core + i)).state = .idle) ∧ (∀ b, b < 2 → (t.coreBank (2 * core + b)).mq = []) ∧
      (∀ k, k / 8 ≠ core → t.slotAt k = s.slotAt k) ∧ ∀ e, e ≠ core → t.core e = s.core e) ∧
  (∀ s v core, Writes s v → v.getLsbD 15 = true → core = v.toNat % 2 ^ 15 → (s.core core).stopped = true →
    ∃ t : State, exec .coresvcGo s = .next t ∧ (t.core core).stopped = false ∧ (∀ k, k / 8 = core → t.slotAt k = Slot.reset) ∧
      (∀ a, a / sliceSize = core → t.spad.get a = 0) ∧ (∀ k, k / 8 ≠ core → t.slotAt k = s.slotAt k) ∧ t.mem = s.mem ∧
      ∀ k, k / 2 = core → (t.coreBank k).l1 = [] ∧ (t.coreBank k).mq = [] ∧ (t.coreBank k).queues = Vector.replicate 4 [] ∧ (t.coreBank k).full = []) ∧
  (∀ s image, s.arg.pay = .image image →
    ∃ t : State, exec .coldReset s = .next t ∧ t.powered = true ∧ t.now = 0 ∧ t.mem = s.mem ∧ (∀ k, t.keyHeld k = false) ∧
      (∀ d, d < 8 → BootedWith s (t.die d) d image ∧ (t.die d).felling = [] ∧ (t.die d).csr = []) ∧ (∀ o, o < 1024 → (t.owner o).incar = 0) ∧
      (∀ c, Clean t c) ∧ ∀ p, t.part p = State.reset.part p) ∧
  (∀ s image d, s.arg.pay = .image image → d = s.arg.a % 8 → FellingRoom s d →
    ∃ t : State, exec .warmReset s = .next t ∧ t.now = s.now ∧ t.mem = s.mem ∧ (t.die d).keys = 0 ∧ (t.die d).csr = [] ∧ BootedWith s (t.die d) d image ∧
      Felled s t d 0x05 ∧ (∀ k, k < 64 → (s.die d).keys.getLsbD k = true → ∃ e ∈ (t.die d).felling, e.code = 0x06 ∧ e.time = s.now ∧ e.arg.toNat = k) ∧
      (∀ i, i < 64 → (t.owner (64 * d + i)).incar = (s.owner (64 * d + i)).incar + 1) ∧ (∀ c, c / 48 = d → Clean t c) ∧
      (∀ c, c / 48 = d → (t.cluster c).halted = false ∧ (t.cluster c).bps = Vector.replicate 4 0 ∧ (t.cluster c).ctx0 = none ∧ (t.cluster c).ctx1 = none) ∧
      (∀ p, p < 18 → portDie p = d → (t.port p).digest = 0) ∧
      (Accepts s d image → ∀ k, k / 8 / 48 / 48 ≠ d → t.slotAt k = s.slotAt k) ∧
      (¬Accepts s d image → ∀ c, c < 384 → (t.cluster c).ctx0 = none ∧ (t.cluster c).ctx1 = none) ∧ ∀ e, e < 8 → e ≠ d → (t.die e).csr = (s.die e).csr ∧ (t.die e).keys = (s.die e).keys) ∧
  (∀ s p, p = s.arg.a % 18 →
    ∃ t : State, exec .peerReset s = .next t ∧ (t.owner (512 + p)).incar = (s.owner (512 + p)).incar + 1 ∧ (t.owner (512 + p)).cache = [] ∧
      (∀ o, o < 1024 → o ≠ 512 + p → t.owner o = s.owner o) ∧ Enters s t (portDie p) 0x05) ∧
  (∀ s d, d = s.arg.a % 8 → ∃ (t : State) (code : Nat), exec .junctionAlert s = .next t ∧ Enters s t d code ∧ t.mem = s.mem ∧ t.slots = s.slots) ∧
  (∀ s, exec .junctionTrip s = .next { s with powered := false })

namespace Sys2Proof.Machine

/-- Whether a link is up, with the lanes at which a module has trained. -/
def State.linkLanes (s : State) (l : Link) : Nat := match l with
  | .module n => s.lanes (n % 4)
  | .port n => if (s.port (n % 18)).up then 1 else 0
  | .die a b => if neighbours (a % 8) (b % 8) && s.dieLinkUp (a % 8) (b % 8) then 1 else 0

/-- The physical address of the line of an offset in the window of partition `p`, where the host may access it. -/
structure InWindow (s : State) (p off pa : Nat) : Prop where
  enabled : (s.part p).hdmWin.getLsbD 0 = true ∧ off < (s.part p).hdmWin.toNat / 2 % 2 ^ 17 * 2 ^ 18
  line : pa = (s.part p).hdmWin.toNat / 2 ^ 18 % 2 ^ 34 * 2 ^ 18 + off / 64 * 64 ∧ backed pa = true
  key : s.keyHeld (s.part p).pkeyId = true
  attached : ∃ m, m < 4 ∧ s.lanes m ≠ 0

/-- No core holds partial sums of a line. -/
abbrev LineWhole (s : State) (line : Nat) : Prop := ∀ b ∈ s.coreBanks, ∀ l ∈ b.2.l1, l.1 = line → l.2.parts = []

end Sys2Proof.Machine

/-- R206, R242, R292, R444, R446, R447, R477: links, flits and the accesses of the host. What of a flit enters the digest, what a snoop leaves in the
line, that a lost link ends what is on its way by the rules of the transport, and which metadata a host write keeps are the model's readings (log 7,
log 14, log 31, log 41). -/
def Obligations.LinksAndTheHost : Prop :=
  (∀ s l n, s.arg.pay = .link l n → ∃ t : State, exec .linkLost s = .next t ∧ t.linkLanes l = 0 ∧ t.mem = s.mem ∧ t.slots = s.slots ∧ t.partitions = s.partitions) ∧
  (∀ s n m, s.arg.pay = .link (.module m) n → (n = 64 ∨ n = 32) → ∃ t : State, exec .linkTrain s = .next t ∧ t.linkLanes (.module m) = n ∧
    ∀ l, l % 4 ≠ m % 4 → t.linkLanes (.module l) = s.linkLanes (.module l)) ∧
  (∀ s n m, s.arg.pay = .link (.module m) n → n ≠ 64 → n ≠ 32 → exec .linkTrain s = .next s) ∧
  (∀ s n p, s.arg.pay = .link (.port p) n → n ≠ 0 → ∃ t : State, exec .linkTrain s = .next t ∧ t.linkLanes (.port p) = 1) ∧
  (∀ s n a b, s.arg.pay = .link (.die a b) n → n ≠ 0 → neighbours (a % 8) (b % 8) = true →
    ∃ t : State, exec .linkTrain s = .next t ∧ t.linkLanes (.die a b) = 1 ∧ t.pathUp (a % 8) (b % 8) = true) ∧
  (∀ s n a b, s.arg.pay = .link (.die a b) n → neighbours (a % 8) (b % 8) = true →
    ∃ t : State, exec .linkLost s = .next t ∧ t.pathUp (a % 8) (b % 8) = false) ∧
  (∀ s f bs p, s.arg.pay = .flit f → bs = leBytes 256 f.toNat → p = s.arg.a % 18 → (s.port p).up = true →
    leBytes 8 (crc64 (bs.take 248)).toNat = bs.drop 248 →
    ∃ t : State, exec .flitReceive s = .next t ∧
      (t.port p).digest = crc64 (leBytes 8 (s.port p).digest.toNat ++ (bs.drop 8).take 8 ++ leBytes 8 (crc64 ((bs.drop 16).take 232)).toNat) ∧
      t.mem = s.mem ∧ t.slots = s.slots) ∧
  (∀ s f bs, s.arg.pay = .flit f → bs = leBytes 256 f.toNat → leBytes 8 (crc64 (bs.take 248)).toNat ≠ bs.drop 248 → exec .flitReceive s = .next s) ∧
  (∀ s p pa w, p = s.arg.a % 64 → InWindow s p s.arg.b pa → s.arg.pay = .line (some w) → s.mem.wf → LineWhole s (pa / 64) →
    ∃ t : State, exec .hostMemAccess s = .next t ∧ t.homeBytes (s.part p).pkeyId pa 64 = lineBytes w 0 64 ∧ (∀ g, g < 4 → pa / 16 + g ∉ t.mem.tags) ∧
      (∀ a, a / 64 ≠ pa / 64 → t.mem.get a = s.mem.get a) ∧ t.lineMeta = s.lineMeta) ∧
  (∀ s p pa, p = s.arg.a % 64 → InWindow s p s.arg.b pa → s.arg.pay = .none → LineWhole s (pa / 64) →
    exec .hostMemAccess s = .next { s with hostHeld := addTo s.hostHeld (pa / 64) } ∧ s.hostRead p s.arg.b = some (s.homeBytes (s.part p).pkeyId pa 64)) ∧
  (∀ s p, p = s.arg.a % 64 → (¬∃ pa, InWindow s p s.arg.b pa) → exec .hostMemAccess s = .next s ∧ s.hostRead p s.arg.b = none) ∧
  (∀ s line w, line = 2 ^ 45 + s.arg.a % 2 ^ 45 → (∃ m, m < 4 ∧ s.lanes m ≠ 0) → s.arg.pay = .line (some w) → s.mem.wf → LineWhole s line →
    ∃ t : State, exec .cxlCacheSnoop s = .next t ∧ t.mem.bytes (64 * line) 64 = lineBytes w 0 64 ∧ (∀ a, a / 64 ≠ line → t.mem.get a = s.mem.get a)) ∧
  (∀ s line, line = 2 ^ 45 + s.arg.a % 2 ^ 45 → s.arg.pay = .none → LineWhole s line → exec .cxlCacheSnoop s = .next s)

/-- R216, R217, R218, R475: storage errors, refreshes and the visits of the sweeper. That refreshes fall due by the time stamp alone is the
model's reading (log 15). -/
def Obligations.ErrorsRefreshAndSweeper : Prop :=
  (∀ s core w, s.arg.pay = .place (.scratch core w) true →
    ∃ t : State, exec .uncorrectableError s = .next t ∧ ((t.core core).counters)[9] = ((s.core core).counters)[9] + 1 ∧ t.mem = s.mem ∧ t.spad = s.spad) ∧
  (∀ s line, (s.arg.pay = .place (.hbm line) false ∨ s.arg.pay = .place (.l2 line) false) →
    ∃ t : State, exec .uncorrectableError s = .next t ∧ line ∈ t.mem.poison ∧ t.mem.cells = s.mem.cells ∧ t.slots = s.slots ∧
      ∀ l, l ≠ line → (l ∈ t.mem.poison ↔ l ∈ s.mem.poison)) ∧
  (∀ s core w, s.arg.pay = .place (.scratch core w) false → w < sliceSize / 8 →
    ∃ t : State, exec .uncorrectableError s = .next t ∧ core * (sliceSize / 8) + w ∈ t.spad.poison ∧ t.spad.cells = s.spad.cells ∧ t.slots = s.slots) ∧
  (∀ s core line l, s.arg.pay = .place (.cleanL1 core line) false → look (s.coreBank (s.coreKey core)).l1 line = some l → l.dirty = 0 → l.parts = [] →
    risingFrom 0 (s.coreBank (s.coreKey core)).l1 = true →
    ∃ t : State, exec .uncorrectableError s = .next t ∧ look (t.coreBank (s.coreKey core)).l1 line = none ∧ t.mem = s.mem ∧ t.slots = s.slots) ∧
  (∀ s core line l, s.arg.pay = .place (.dirtyL1 core line) false → look (s.coreBank (s.coreKey core)).l1 line = some l → (l.dirty ≠ 0 ∨ l.parts ≠ []) →
    ∃ t : State, exec .uncorrectableError s = .next t ∧ look (t.coreBank (s.coreKey core)).l1 line = some { l with poison := true } ∧ t.mem = s.mem) ∧
  (∀ s core q e, s.arg.pay = .place (.queue core q) false → q < 4 → (s.queue (s.coreKey core) q)[s.arg.a]? = some e →
    ∃ t : State, exec .uncorrectableError s = .next t ∧ (t.queue (s.coreKey core) q)[s.arg.a]? = some { e with poison := true } ∧
      (t.queue (s.coreKey core) q).length = (s.queue (s.coreKey core) q).length) ∧
  (∀ s core i, s.arg.pay = .place (.tile core i) false → i < 4 →
    ∃ t : State, exec .uncorrectableError s = .next t ∧ (∀ w, w ∈ ((t.coreBank (s.coreKey core)).tiles.toList[i]?.getD {}).poison ↔
      w = s.arg.a % 1152 ∨ w ∈ ((s.coreBank (s.coreKey core)).tiles.toList[i]?.getD {}).poison) ∧ t.mem = s.mem ∧ t.spad = s.spad) ∧
  (∀ s o, s.arg.pay = .place (.ownerCache o) false → (o < 530 ∨ 768 ≤ o ∧ o < 784) →
    ∃ t : State, exec .uncorrectableError s = .next t ∧ (t.owner o).incar = (s.owner o).incar + 1 ∧ (t.owner o).cache = []) ∧
  (∀ (s : State) (d pc bank : Nat), d = s.arg.a % 8 → pc = s.arg.b % 128 → bank = s.arg.c % 65535 → 0 < s.owed d pc bank → s.owed d pc bank < 8 →
    ∃ t : State, exec .perBankRefresh s = .next t ∧ t.owed d pc bank = s.owed d pc bank - 1 ∧
      (∀ b, b < 65535 → b ≠ bank → t.owed d pc b = s.owed d pc b) ∧ t.mem = s.mem ∧ t.slots = s.slots) ∧
  (∀ (s : State) (d pc bank : Nat), d = s.arg.a % 8 → pc = s.arg.b % 128 → bank = s.arg.c % 65535 → 8 ≤ s.owed d pc bank →
    ∃ (t : State) (n : Nat), exec .forcedRefresh s = .next t ∧ n ≤ 287 ∧ (∀ b, t.owed d pc b = 0) ∧
      (look (t.die d).hbmStall (pc / 2)).getD 0 = (look (s.die d).hbmStall (pc / 2)).getD 0 + BitVec.ofNat 64 n ∧ t.mem = s.mem ∧ t.slots = s.slots) ∧
  (∀ (s : State) (d c u e pa : Nat), d = s.arg.a % 8 → c = s.arg.b % 48 → u = s.arg.c / 256 % 256 → e = s.arg.c % 256 →
    pa = (s.csr d 0x4C8).toNat / 2 ^ 18 % 2 ^ 34 * 2 ^ 18 + 8 * ((c * 256 + u) * 256 + e) → (s.csr d 0x4C8).getLsbD 0 = true → backed pa = true →
    s.mem.wf → LineWhole s (pa / 64) →
    ∃ t : State, exec .sweeperVisit s = .next t ∧
      leNat (t.mem.bytes pa 8) = (leNat (s.mem.bytes pa 8) +
        (s.counterOf (48 * d + c) u e - (look (s.die d).totals ((c * 256 + u) * 256 + e)).getD 0).toNat) % 2 ^ 64 ∧
      look (t.die d).totals ((c * 256 + u) * 256 + e) = some (s.counterOf (48 * d + c) u e) ∧
      ∀ a, (a < pa ∨ pa + 8 ≤ a) → t.mem.get a = s.mem.get a)

namespace Sys2Proof.Machine

/-- A write of SWAPCTL on die `d` starts a swap of cluster `c`, whose live bank is `b` and on which no core is stopped. -/
structure SwapAsk (s : State) (v : Word) (d c outp inp b : Nat) : Prop where
  go : Writes s v ∧ v.getLsbD 0 = true ∧ d = s.arg.a % 8 ∧ s.swapRuns d = false
  names : outp = v.toNat / 2 ^ 3 % 2 ^ 6 ∧ inp = v.toNat / 2 ^ 9 % 2 ^ 6 ∧ c = v.toNat / 2 ^ 15 % 2 ^ 9 ∧ c < 384
  bank : (s.cluster c).liveBank = b ∧ b < 2
  running : ∀ n, n / 48 = c → (s.core n).stopped = false

/-- The context in a bank may be swapped by the fast path (R404). -/
abbrev MaySwap (s : State) (c bank : Nat) : Prop :=
  ∀ n l, n / 48 = c → (s.coreBank (2 * n + bank)).launch = some l → (s.header l).twin = false ∧ (s.header l).scratch ≤ 49152

/-- SWAPSTAT after a swap that was not refused: neither REFUSED nor REASON, the entries of a ring; while the swap runs GO reads 1 and LAST stays,
and where nothing of the incoming context can issue LAST keeps the bound of R16. -/
structure SwapDone (s t : State) (d : Nat) : Prop where
  stat : (t.csr d 0x371).extractLsb' 11 3 = 0 ∧ (t.csr d 0x371).toNat / 2 ^ 14 ≤ 32
  go : (t.csrValue d 0x370).getLsbD 0 = t.swapRuns d
  last : if t.swapRuns d then (t.csr d 0x371).toNat % 2 ^ 11 = (s.csr d 0x371).toNat % 2 ^ 11 else (t.csr d 0x371).toNat % 2 ^ 11 ≤ 1120

/-- Nothing of a cluster is on its way when a swap begins: no monitored wait and no combining window, no operation at a remote interface, empty skid
rings, no earlier swap without an incoming context, and no core that stops during the swap. -/
structure Still (s : State) (c : Nat) : Prop where
  slots : ∀ p ∈ s.slots, p.2.armed ≠ some false ∧ p.2.joined ≠ some none
  interfaces : ∀ r ∈ s.requesters, r.2.table = [] ∧ r.2.queue = []
  rings : ∀ k, (s.coreBank k).skidIn = [] ∧ (s.coreBank k).skidOut = []
  running : (s.cluster c).idled = false ∧ s.arg.c = 0

/-- The banks of a cluster have exchanged their roles, and a debug halt has stayed with its context (R401, R411); `halted` is that of the incoming one. -/
structure Flipped (s t : State) (c b : Nat) (halted : Bool) : Prop where
  cluster : (t.cluster c).liveBank = 1 - b ∧ (t.cluster c).halted = halted ∧ (t.cluster c).shadowHalted = (s.cluster c).halted
  cores : ∀ n, n / 48 = c → (t.core n).liveBank = 1 - b
  others : ∀ e, e ≠ c → t.cluster e = s.cluster e

/-- A refused GO changes no state but SWAPCTL and SWAPSTAT (R403). -/
structure SwapRefused (s t : State) (d reason : Nat) : Prop where
  stat : (t.csr d 0x371).getLsbD 11 = true ∧ (t.csr d 0x371).toNat / 2 ^ 12 % 4 = reason
  same : t.slots = s.slots ∧ t.clusters = s.clusters ∧ t.cores = s.cores ∧ t.coreBanks = s.coreBanks ∧ t.mem = s.mem ∧ t.spad = s.spad ∧ t.saved = s.saved

/-- No strand of the cluster waits in a killed domain. -/
abbrev NoneKilled (s : State) : Prop := ∀ p ∈ s.slots, p.2.killed = false

/-- A slow swap writes the live context of a cluster that runs it alone, whose L1s are empty, to the save area, and loads none. -/
structure SavesAlone (s : State) (v : Word) (d c p b : Nat) : Prop where
  ask : SwapAsk s v d c p (v.toNat / 2 ^ 9 % 2 ^ 6) b
  kind : v.getLsbD 1 = true ∧ v.getLsbD 2 = true
  alone : (s.cluster c).ctx b = some p ∧ (s.cluster c).ctx (1 - b) = none
  lines : ∀ n, n / 48 = c → (s.coreBank (2 * n + b)).l1 = []
  quiet : NoneKilled s
  still : Still s c
  queues : ∀ k q, ∀ e ∈ s.queue k q, e.owner = none
  keys : ∀ p ∈ s.keyOf, 64 ≤ p.2.1 ∨ p.2.2 = s.drawsOf (BitVec.ofNat 6 p.2.1)
  maps : risingFrom 0 s.slots = true ∧ risingFrom 0 s.coreBanks = true ∧ risingFrom 0 s.quads = true ∧ s.spad.wf ∧ s.mem.wf

end Sys2Proof.Machine

/-- R401 to R406, R408, R409, R411: fast and entry swaps, the skid ring, and the refusals of all three. That a swap is one step, that a live bank without
a context matches any OUTP, what NOIN does beside a context in the shadow bank, and what LAST reads where nothing can issue are the model's choices
(log 4, log 16). -/
def Obligations.SwapsExchangeTheBanks : Prop :=
  (∀ s v d c outp inp b, SwapAsk s v d c outp inp b → v.getLsbD 1 = false → v.getLsbD 2 = false → (s.cluster c).ctx b = some outp →
    (s.cluster c).ctx (1 - b) = some inp → MaySwap s c 0 → MaySwap s c 1 → NoneKilled s → Still s c →
    ∃ t : State, exec .swapFast s = .next t ∧ Flipped s t c b (s.cluster c).shadowHalted ∧ SwapDone s t d ∧ Enters s t d 0x04 ∧ (t.cluster c).ctx0 = (s.cluster c).ctx0 ∧
      (t.cluster c).ctx1 = (s.cluster c).ctx1 ∧ t.slots = s.slots ∧ t.coreBanks = s.coreBanks ∧ t.mem = s.mem ∧ t.spad = s.spad) ∧
  (∀ s v d c outp inp b, SwapAsk s v d c outp inp b → v.getLsbD 1 = false → v.getLsbD 2 = true → (s.cluster c).ctx b = some outp →
    (s.cluster c).ctx (1 - b) = none → MaySwap s c b → NoneKilled s → Still s c → (∀ n, n / 48 = c → (s.coreBank (2 * n + b)).l1 = []) →
    ∃ t : State, exec .swapFast s = .next t ∧ Flipped s t c b false ∧ SwapDone s t d ∧ Enters s t d 0x04 ∧ (t.cluster c).ctx (1 - b) = none ∧
      (t.cluster c).ctx b = some outp ∧ (∀ k, (k / 8 / 48 ≠ c ∨ k % 2 = b) → t.slotAt k = s.slotAt k) ∧ t.mem = s.mem) ∧
  (∀ s v d c outp inp b p, SwapAsk s v d c outp inp b → v.getLsbD 1 = false → v.getLsbD 2 = true → (s.cluster c).ctx b = some outp →
    (s.cluster c).ctx (1 - b) = some p → MaySwap s c b → Still s c →
    ∃ t : State, exec .swapFast s = .next t ∧ (t.cluster c).liveBank = b ∧ (t.cluster c).idled = true ∧ SwapDone s t d ∧ Enters s t d 0x04 ∧
      (∀ k, t.slotAt k = if k / 8 / 48 = c ∧ k % 2 = b ∧ (s.slotAt k).state ≠ .idle then { s.slotAt k with halted := true } else s.slotAt k) ∧
      t.coreBanks = s.coreBanks ∧ t.mem = s.mem ∧ t.spad = s.spad) ∧
  (∀ s v d c outp inp b, SwapAsk s v d c outp inp b → v.getLsbD 1 = false → v.getLsbD 2 = false → (s.cluster c).ctx b = some outp → outp ≠ inp →
    (s.cluster c).ctx (1 - b) = none → MaySwap s c b → NoneKilled s → Still s c → (∀ n, n / 48 = c → (s.coreBank (2 * n + b)).l1 = []) →
    ∃ t : State, exec .swapEntry s = .next t ∧ Flipped s t c b false ∧ SwapDone s t d ∧ Enters s t d 0x04 ∧ (t.cluster c).ctx (1 - b) = some inp ∧
      (t.cluster c).ctx b = some outp ∧ (∀ k, k / 8 / 48 = c → k % 2 = 1 - b → t.slotAt k = Slot.reset) ∧
      (∀ k, (k / 8 / 48 ≠ c ∨ k % 2 = b) → t.slotAt k = s.slotAt k) ∧ t.mem = s.mem ∧
      ∀ n, n / 48 = c → (t.coreBank (2 * n + (1 - b))).launch = none ∧
        ((t.coreBank (2 * n + b)).launch.isSome = true → (t.coreBank (2 * n + b)).spadBase ≠ (t.coreBank (2 * n + (1 - b))).spadBase ∧
          (t.coreBank (2 * n + b)).spad = (s.coreBank (2 * n + b)).spad)) ∧
  (∀ s v d c outp inp b n i id, SwapAsk s v d c outp inp b → v.getLsbD 1 = false → v.getLsbD 2 = false → (s.cluster c).ctx b = some outp →
    (s.cluster c).ctx (1 - b) = some inp → outp ≠ inp → outp < 64 → inp < 64 → MaySwap s c 0 → MaySwap s c 1 → NoneKilled s → s.arg.c = 0 → n / 48 = c → i < 4 →
    id = reqId false (4 * n + i) outp → (s.requester id).queue.length ≤ 16 →
    (∀ j, j < 4 → j ≠ i → (s.requester (reqId false (4 * n + j) outp)).queue = []) → (s.requester id).queue ≠ [] →
    (∀ m, m / 48 = c → (s.coreBank (2 * m + (1 - b))).skidIn = [] ∧ (s.coreBank (2 * m + (1 - b))).skidOut = []) →
    ∃ t : State, exec .swapFast s = .next t ∧ (t.requester id).queue = [] ∧ (t.requester id).away = true ∧ (t.requester id).table = (s.requester id).table ∧
      (t.coreBank (2 * n + b)).skidOut = (s.requester id).queue.map (fun q => { slot := i, op := q })) ∧
  (∀ s v d c outp inp b n i id, SwapAsk s v d c outp inp b → v.getLsbD 1 = false → v.getLsbD 2 = false → (s.cluster c).ctx b = some outp →
    (s.cluster c).ctx (1 - b) = some inp → outp ≠ inp → outp < 64 → inp < 64 → MaySwap s c 0 → MaySwap s c 1 → NoneKilled s → s.arg.c = 0 → n / 48 = c → i < 4 →
    id = reqId false (4 * n + i) inp → (s.requester id).away = true → (s.coreBank (2 * n + (1 - b))).skidOut ≠ [] →
    (∀ e ∈ (s.coreBank (2 * n + (1 - b))).skidOut, e.slot = i ∧ e.bad = false) → (∀ e ∈ (s.coreBank (2 * n + (1 - b))).skidIn, e.bad = false) →
    ∃ t : State, exec .swapFast s = .next t ∧ (t.requester id).away = false ∧
      (t.requester id).queue = (s.coreBank (2 * n + (1 - b))).skidOut.map SkidOut.op ++ (s.requester id).queue ∧
      (t.coreBank (2 * n + (1 - b))).skidOut = [] ∧ (t.coreBank (2 * n + (1 - b))).skidIn = [] ∧
      ∀ e, (s.coreBank (2 * n + (1 - b))).skidIn = [e] → (t.slotAt (2 * (4 * n + e.slot) + (1 - b))).ingress = some e.got) ∧
  (∀ s v d c outp inp b n, SwapAsk s v d c outp inp b → v.getLsbD 1 = false → v.getLsbD 2 = false → (s.cluster c).ctx b = some outp →
    (s.cluster c).ctx (1 - b) = some inp → MaySwap s c 0 → MaySwap s c 1 → NoneKilled s → s.arg.c = 0 → n / 48 = c →
    ((∃ e ∈ (s.coreBank (2 * n + (1 - b))).skidIn, e.bad = true) ∨ ∃ e ∈ (s.coreBank (2 * n + (1 - b))).skidOut, e.bad = true) →
    ∃ t : State, exec .swapFast s = .next t ∧ (t.core n).stopped = true ∧ (t.coreBank (2 * n + (1 - b))).skidOut = []) ∧
  (∀ s v d c b i, Writes s v → v.getLsbD 0 = true → d = s.arg.a % 8 → c = v.toNat / 2 ^ 15 % 2 ^ 9 → c < 384 → (s.cluster c).liveBank = b → b < 2 →
    s.swapRuns d = false → (i = .swapFast ∨ i = .swapEntry ∨ i = .swapSlow) → (∃ n, n / 48 = c ∧ (s.core n).stopped = true) →
    (i = .swapSlow ↔ v.getLsbD 1 = true) →
    (i = .swapEntry ↔ v.getLsbD 1 = false ∧ v.getLsbD 2 = false ∧ (s.cluster c).ctx (1 - b) = none) →
    ∃ t : State, exec i s = .next t ∧ SwapRefused s t d 3) ∧
  (∀ s v d c outp inp b p, SwapAsk s v d c outp inp b → v.getLsbD 1 = false → v.getLsbD 2 = false → (s.cluster c).ctx (1 - b) = some p →
    ((∃ q, (s.cluster c).ctx b = some q ∧ q ≠ outp) ∨ MaySwap s c b ∧ p ≠ inp) → ∃ t : State, exec .swapFast s = .next t ∧ SwapRefused s t d 2) ∧
  (∀ s v d c outp inp b, SwapAsk s v d c outp inp b → v.getLsbD 1 = false → v.getLsbD 2 = false → (s.cluster c).ctx b = some outp →
    (s.cluster c).ctx (1 - b) = some inp → ¬(MaySwap s c 0 ∧ MaySwap s c 1) → ∃ t : State, exec .swapFast s = .next t ∧ SwapRefused s t d 1) ∧
  (∀ s v d, Writes s v → v.getLsbD 0 = true → d = s.arg.a % 8 → s.swapRuns d = true →
    exec .swapFast s = .next s ∧ exec .swapEntry s = .next s ∧ exec .swapSlow s = .next s)

/-- R410: the slow path writes the live context to the save area, its SRAM to the lines that R403 gives each core, and leaves the cores empty, and a later
slow path in the same cluster restores what it saved. What the area holds behind the SRAM, and when it no longer gives the context back, are the model's
choices (log 4, log 16). -/
def Obligations.SlowSwapsRestoreTheContext : Prop :=
  (∀ s v d c p b frame, SavesAlone s v d c p b → frame = (s.csr d 0x372).toNat / 2 ^ 18 % 2 ^ 34 →
    ∃ t : State, exec .swapSlow s = .next t ∧ (t.cluster c).ctx b = none ∧ (t.cluster c).liveBank = b ∧
      (∀ k, k / 8 / 48 = c → k % 2 = b → t.slotAt k = Slot.reset) ∧ (∀ a, a / sliceSize / 48 = c → t.spad.get a = 0) ∧
      (∀ k, k / 8 / 48 ≠ c → t.slotAt k = s.slotAt k) ∧ Enters s t d 0x04 ∧
      (∀ n a, n < 48 → a < sliceSize → t.mem.get ((frame + n) * 2 ^ 18 + a) = s.spad.get ((48 * c + n) * sliceSize + a)) ∧
      ∀ a, (a / 2 ^ 18 < frame ∨ frame + 48 ≤ a / 2 ^ 18) → t.mem.get a = s.mem.get a) ∧
  (∀ s v d c p b t, SavesAlone s v d c p b → exec .swapSlow s = .next t → ∀ w : Word, w.getLsbD 0 = true → w.getLsbD 1 = true → w.getLsbD 2 = false →
    w.toNat / 2 ^ 9 % 2 ^ 6 = p → w.toNat / 2 ^ 15 % 2 ^ 9 = c →
    ∃ u : State, exec .swapSlow { t with arg := { t.arg with pay := .word w } } = .next u ∧ (u.cluster c).ctx b = some p ∧
      (∀ k, (k / 8 / 48 ≠ c ∨ k % 2 = b) → u.slotAt k = s.slotAt k) ∧
      (∀ k, k / 2 / 48 = c → k % 2 = b → u.coreBank k = s.coreBank k) ∧
      (∀ q, q / 12 = c → (u.quad q).weights.toList[b]? = (s.quad q).weights.toList[b]?) ∧
      (∀ a, a / sliceSize / 48 = c → u.spad.get a = s.spad.get a) ∧
      ∀ g, 16 * g / sliceSize / 48 = c → (g ∈ u.spad.tags ↔ g ∈ s.spad.tags))
end

