-- ==== Sys2Proof/Laws/Memory.lean ====
section
/-!
SUPPORT. The laws of byte stores: reading after writing, and that every operation keeps the canonical form.
-/
namespace Sys2Proof.Machine

theorem Mem.wf_iff (m : Mem) : m.wf = true ↔
    risingFrom 0 m.cells = true ∧ (∀ c ∈ m.cells, c.2 ≠ 0) ∧ risingNat 0 m.tags = true ∧ risingNat 0 m.poison = true := by
  simp [Mem.wf, and_assoc]

theorem mem_of_look {α : Type} {m : SMap α} {k : Nat} {v : α} (h : look m k = some v) : (k, v) ∈ m := by
  induction m with
  | nil => cases h
  | cons p r ih =>
    obtain ⟨j, w⟩ := p
    simp only [look] at h
    split at h
    · next e => subst e; cases h; simp
    · split at h
      · cases h
      · exact List.mem_cons_of_mem _ (ih h)

theorem mem_put {α : Type} {m : SMap α} {k : Nat} {v : α} {c : Nat × α} (h : c ∈ put m k v) : c = (k, v) ∨ c ∈ m := by
  induction m with
  | nil => simpa [put] using h
  | cons p r ih =>
    obtain ⟨j, w⟩ := p
    simp only [put] at h
    split at h
    · rcases List.mem_cons.1 h with h | h
      · exact .inl h
      · exact .inr (List.mem_cons_of_mem _ h)
    · split at h
      · rcases List.mem_cons.1 h with h | h
        · exact .inl h
        · exact .inr h
      · rcases List.mem_cons.1 h with h | h
        · exact .inr (h ▸ List.mem_cons_self)
        · exact (ih h).imp id (List.mem_cons_of_mem _)

theorem mem_del {α : Type} {m : SMap α} {k : Nat} {c : Nat × α} (h : c ∈ del m k) : c ∈ m := by
  induction m with
  | nil => cases h
  | cons p r ih =>
    obtain ⟨j, w⟩ := p
    simp only [del] at h
    split at h
    · exact List.mem_cons_of_mem _ h
    · split at h
      · exact h
      · rcases List.mem_cons.1 h with h | h
        · exact h ▸ List.mem_cons_self
        · exact List.mem_cons_of_mem _ (ih h)

/-! ## The canonical form is kept -/

theorem Mem.wf_set {m : Mem} {a : Nat} {v : Byte} (h : m.wf = true) : (m.set a v).wf = true := by
  rw [Mem.wf_iff] at h ⊢
  obtain ⟨h1, h2, h3, h4⟩ := h
  refine ⟨?_, ?_, h3, h4⟩
  · simp only [Mem.set]
    split
    · exact risingFrom_del h1
    · exact risingFrom_put h1 (by omega)
  · intro c hc
    simp only [Mem.set] at hc
    split at hc
    · exact h2 c (mem_del hc)
    · next hv =>
      rcases mem_put hc with e | e
      · subst e; exact hv
      · exact h2 c e

theorem Mem.wf_store {m : Mem} {a : Nat} {bs : List Byte} (h : m.wf = true) : (m.store a bs).wf = true := by
  induction bs generalizing m a with
  | nil => exact h
  | cons b r ih => exact ih (Mem.wf_set h)

theorem Mem.wf_setTag {m : Mem} {g : Nat} {t : Bool} (h : m.wf = true) : (m.setTag g t).wf = true := by
  rw [Mem.wf_iff] at h ⊢
  exact ⟨h.1, h.2.1, risingNat_setIn h.2.2.1, h.2.2.2⟩

theorem Mem.wf_clearTags {m : Mem} {a n : Nat} (h : m.wf = true) : (m.clearTags a n).wf = true := by
  simp only [Mem.clearTags]
  split
  · exact h
  · rw [Mem.wf_iff] at h ⊢
    exact ⟨h.1, h.2.1, risingNat_filter _ h.2.2.1, h.2.2.2⟩

theorem Mem.wf_setPoison {m : Mem} {u : Nat} {p : Bool} (h : m.wf = true) : (m.setPoison u p).wf = true := by
  rw [Mem.wf_iff] at h ⊢
  exact ⟨h.1, h.2.1, h.2.2.1, risingNat_setIn h.2.2.2⟩

theorem Mem.wf_empty : Mem.wf {} = true := rfl

/-! ## Reading after writing -/

/-- A byte after a byte was written. -/
theorem Mem.get_set {m : Mem} (a b : Nat) (v : Byte) (h : m.wf = true) :
    (m.set a v).get b = if b = a then v else m.get b := by
  rw [Mem.wf_iff] at h
  simp only [Mem.set, Mem.get]
  split
  · next e =>
    rw [look_del b h.1]
    split
    · simp [e]
    · rfl
  · rw [look_put]
    split <;> simp

/-- A byte after a run of bytes was written. -/
theorem Mem.get_store {m : Mem} (a b : Nat) (bs : List Byte) (h : m.wf = true) :
    (m.store a bs).get b = if a ≤ b then (bs[b - a]?).getD (m.get b) else m.get b := by
  induction bs generalizing m a with
  | nil => simp [Mem.store]
  | cons x r ih =>
    simp only [Mem.store]
    rw [ih (a + 1) (Mem.wf_set h), Mem.get_set a b x h]
    by_cases c : b = a
    · subst c
      have h1 : ¬ b + 1 ≤ b := by omega
      simp [h1]
    · by_cases d : a + 1 ≤ b
      · have h1 : a ≤ b := by omega
        obtain ⟨n, hn⟩ : ∃ n, b - a = n + 1 := ⟨b - a - 1, by omega⟩
        have h2 : b - (a + 1) = n := by omega
        simp [d, h1, hn, h2, c]
      · have h1 : ¬ a ≤ b := by omega
        simp [d, h1, c]

@[simp] theorem Mem.get_setTag (m : Mem) (g a : Nat) (t : Bool) : (m.setTag g t).get a = m.get a := rfl
@[simp] theorem Mem.get_clearTags (m : Mem) (b n a : Nat) : (m.clearTags b n).get a = m.get a := by
  simp only [Mem.clearTags]; split <;> rfl
@[simp] theorem Mem.get_setPoison (m : Mem) (u a : Nat) (p : Bool) : (m.setPoison u p).get a = m.get a := rfl

/-- A tag after a tag was written. -/
theorem Mem.tag_setTag (m : Mem) (g k : Nat) (t : Bool) : (m.setTag g t).tag k = if k = g then t else m.tag k := by
  simp only [Mem.tag, Mem.setTag, List.contains_eq_mem]
  have h := mem_setIn m.tags g k t
  by_cases e : k = g
  · subst e; simp_all
  · simp_all

@[simp] theorem Mem.tag_set (m : Mem) (a g : Nat) (v : Byte) : (m.set a v).tag g = m.tag g := rfl

@[simp] theorem Mem.tag_store (m : Mem) (a g : Nat) (bs : List Byte) : (m.store a bs).tag g = m.tag g := by
  induction bs generalizing m a with
  | nil => rfl
  | cons x r ih => simp [Mem.store, ih]

end Sys2Proof.Machine
end

