-- ==== Sys2Proof/Laws/State.lean ====
section
/-!
SUPPORT. What each update of the state changes: one lemma for each field and each update, and reading a unit after it was written.
-/
namespace Sys2Proof.Machine

/-! ## setSlotAt -/

@[simp] theorem setSlotAt_now (s : State) (k : Nat) (v : Slot) : (s.setSlotAt k v).now = s.now := rfl
@[simp] theorem setSlotAt_powered (s : State) (k : Nat) (v : Slot) : (s.setSlotAt k v).powered = s.powered := rfl
@[simp] theorem setSlotAt_requesters (s : State) (k : Nat) (v : Slot) : (s.setSlotAt k v).requesters = s.requesters := rfl
@[simp] theorem setSlotAt_coreBanks (s : State) (k : Nat) (v : Slot) : (s.setSlotAt k v).coreBanks = s.coreBanks := rfl
@[simp] theorem setSlotAt_cores (s : State) (k : Nat) (v : Slot) : (s.setSlotAt k v).cores = s.cores := rfl
@[simp] theorem setSlotAt_quads (s : State) (k : Nat) (v : Slot) : (s.setSlotAt k v).quads = s.quads := rfl
@[simp] theorem setSlotAt_clusters (s : State) (k : Nat) (v : Slot) : (s.setSlotAt k v).clusters = s.clusters := rfl
@[simp] theorem setSlotAt_dies (s : State) (k : Nat) (v : Slot) : (s.setSlotAt k v).dies = s.dies := rfl
@[simp] theorem setSlotAt_partitions (s : State) (k : Nat) (v : Slot) : (s.setSlotAt k v).partitions = s.partitions := rfl
@[simp] theorem setSlotAt_fabId (s : State) (k : Nat) (v : Slot) : (s.setSlotAt k v).fabId = s.fabId := rfl
@[simp] theorem setSlotAt_ports (s : State) (k : Nat) (v : Slot) : (s.setSlotAt k v).ports = s.ports := rfl
@[simp] theorem setSlotAt_modules (s : State) (k : Nat) (v : Slot) : (s.setSlotAt k v).modules = s.modules := rfl
@[simp] theorem setSlotAt_dieLinks (s : State) (k : Nat) (v : Slot) : (s.setSlotAt k v).dieLinks = s.dieLinks := rfl
@[simp] theorem setSlotAt_mem (s : State) (k : Nat) (v : Slot) : (s.setSlotAt k v).mem = s.mem := rfl
@[simp] theorem setSlotAt_lineMeta (s : State) (k : Nat) (v : Slot) : (s.setSlotAt k v).lineMeta = s.lineMeta := rfl
@[simp] theorem setSlotAt_keyOf (s : State) (k : Nat) (v : Slot) : (s.setSlotAt k v).keyOf = s.keyOf := rfl
@[simp] theorem setSlotAt_keyDraws (s : State) (k : Nat) (v : Slot) : (s.setSlotAt k v).keyDraws = s.keyDraws := rfl
@[simp] theorem setSlotAt_spad (s : State) (k : Nat) (v : Slot) : (s.setSlotAt k v).spad = s.spad := rfl
@[simp] theorem setSlotAt_saved (s : State) (k : Nat) (v : Slot) : (s.setSlotAt k v).saved = s.saved := rfl
@[simp] theorem setSlotAt_oldCode (s : State) (k : Nat) (v : Slot) : (s.setSlotAt k v).oldCode = s.oldCode := rfl
@[simp] theorem setSlotAt_net (s : State) (k : Nat) (v : Slot) : (s.setSlotAt k v).net = s.net := rfl
@[simp] theorem setSlotAt_meets (s : State) (k : Nat) (v : Slot) : (s.setSlotAt k v).meets = s.meets := rfl
@[simp] theorem setSlotAt_hostHeld (s : State) (k : Nat) (v : Slot) : (s.setSlotAt k v).hostHeld = s.hostHeld := rfl
@[simp] theorem setSlotAt_attNonce (s : State) (k : Nat) (v : Slot) : (s.setSlotAt k v).attNonce = s.attNonce := rfl
@[simp] theorem setSlotAt_attReport (s : State) (k : Nat) (v : Slot) : (s.setSlotAt k v).attReport = s.attReport := rfl
@[simp] theorem setSlotAt_order (s : State) (k : Nat) (v : Slot) : (s.setSlotAt k v).order = s.order := rfl
@[simp] theorem setSlotAt_cur (s : State) (k : Nat) (v : Slot) : (s.setSlotAt k v).cur = s.cur := rfl
@[simp] theorem setSlotAt_arg (s : State) (k : Nat) (v : Slot) : (s.setSlotAt k v).arg = s.arg := rfl
@[simp] theorem setSlotAt_groups (s : State) (k : Nat) (v : Slot) : (s.setSlotAt k v).groups = s.groups := rfl
@[simp] theorem setSlotAt_agenda (s : State) (k : Nat) (v : Slot) : (s.setSlotAt k v).agenda = s.agenda := rfl
@[simp] theorem setSlotAt_free (s : State) (k : Nat) (v : Slot) : (s.setSlotAt k v).free = s.free := rfl

/-! ## setRequester -/

@[simp] theorem setRequester_now (s : State) (k : Nat) (v : Requester) : (s.setRequester k v).now = s.now := rfl
@[simp] theorem setRequester_powered (s : State) (k : Nat) (v : Requester) : (s.setRequester k v).powered = s.powered := rfl
@[simp] theorem setRequester_slots (s : State) (k : Nat) (v : Requester) : (s.setRequester k v).slots = s.slots := rfl
@[simp] theorem setRequester_coreBanks (s : State) (k : Nat) (v : Requester) : (s.setRequester k v).coreBanks = s.coreBanks := rfl
@[simp] theorem setRequester_cores (s : State) (k : Nat) (v : Requester) : (s.setRequester k v).cores = s.cores := rfl
@[simp] theorem setRequester_quads (s : State) (k : Nat) (v : Requester) : (s.setRequester k v).quads = s.quads := rfl
@[simp] theorem setRequester_clusters (s : State) (k : Nat) (v : Requester) : (s.setRequester k v).clusters = s.clusters := rfl
@[simp] theorem setRequester_dies (s : State) (k : Nat) (v : Requester) : (s.setRequester k v).dies = s.dies := rfl
@[simp] theorem setRequester_partitions (s : State) (k : Nat) (v : Requester) : (s.setRequester k v).partitions = s.partitions := rfl
@[simp] theorem setRequester_fabId (s : State) (k : Nat) (v : Requester) : (s.setRequester k v).fabId = s.fabId := rfl
@[simp] theorem setRequester_ports (s : State) (k : Nat) (v : Requester) : (s.setRequester k v).ports = s.ports := rfl
@[simp] theorem setRequester_modules (s : State) (k : Nat) (v : Requester) : (s.setRequester k v).modules = s.modules := rfl
@[simp] theorem setRequester_dieLinks (s : State) (k : Nat) (v : Requester) : (s.setRequester k v).dieLinks = s.dieLinks := rfl
@[simp] theorem setRequester_mem (s : State) (k : Nat) (v : Requester) : (s.setRequester k v).mem = s.mem := rfl
@[simp] theorem setRequester_lineMeta (s : State) (k : Nat) (v : Requester) : (s.setRequester k v).lineMeta = s.lineMeta := rfl
@[simp] theorem setRequester_keyOf (s : State) (k : Nat) (v : Requester) : (s.setRequester k v).keyOf = s.keyOf := rfl
@[simp] theorem setRequester_keyDraws (s : State) (k : Nat) (v : Requester) : (s.setRequester k v).keyDraws = s.keyDraws := rfl
@[simp] theorem setRequester_spad (s : State) (k : Nat) (v : Requester) : (s.setRequester k v).spad = s.spad := rfl
@[simp] theorem setRequester_saved (s : State) (k : Nat) (v : Requester) : (s.setRequester k v).saved = s.saved := rfl
@[simp] theorem setRequester_oldCode (s : State) (k : Nat) (v : Requester) : (s.setRequester k v).oldCode = s.oldCode := rfl
@[simp] theorem setRequester_net (s : State) (k : Nat) (v : Requester) : (s.setRequester k v).net = s.net := rfl
@[simp] theorem setRequester_meets (s : State) (k : Nat) (v : Requester) : (s.setRequester k v).meets = s.meets := rfl
@[simp] theorem setRequester_hostHeld (s : State) (k : Nat) (v : Requester) : (s.setRequester k v).hostHeld = s.hostHeld := rfl
@[simp] theorem setRequester_attNonce (s : State) (k : Nat) (v : Requester) : (s.setRequester k v).attNonce = s.attNonce := rfl
@[simp] theorem setRequester_attReport (s : State) (k : Nat) (v : Requester) : (s.setRequester k v).attReport = s.attReport := rfl
@[simp] theorem setRequester_order (s : State) (k : Nat) (v : Requester) : (s.setRequester k v).order = s.order := rfl
@[simp] theorem setRequester_cur (s : State) (k : Nat) (v : Requester) : (s.setRequester k v).cur = s.cur := rfl
@[simp] theorem setRequester_arg (s : State) (k : Nat) (v : Requester) : (s.setRequester k v).arg = s.arg := rfl
@[simp] theorem setRequester_groups (s : State) (k : Nat) (v : Requester) : (s.setRequester k v).groups = s.groups := rfl
@[simp] theorem setRequester_agenda (s : State) (k : Nat) (v : Requester) : (s.setRequester k v).agenda = s.agenda := rfl
@[simp] theorem setRequester_free (s : State) (k : Nat) (v : Requester) : (s.setRequester k v).free = s.free := rfl

/-! ## setCoreBank -/

@[simp] theorem setCoreBank_now (s : State) (k : Nat) (v : CoreBank) : (s.setCoreBank k v).now = s.now := rfl
@[simp] theorem setCoreBank_powered (s : State) (k : Nat) (v : CoreBank) : (s.setCoreBank k v).powered = s.powered := rfl
@[simp] theorem setCoreBank_slots (s : State) (k : Nat) (v : CoreBank) : (s.setCoreBank k v).slots = s.slots := rfl
@[simp] theorem setCoreBank_requesters (s : State) (k : Nat) (v : CoreBank) : (s.setCoreBank k v).requesters = s.requesters := rfl
@[simp] theorem setCoreBank_cores (s : State) (k : Nat) (v : CoreBank) : (s.setCoreBank k v).cores = s.cores := rfl
@[simp] theorem setCoreBank_quads (s : State) (k : Nat) (v : CoreBank) : (s.setCoreBank k v).quads = s.quads := rfl
@[simp] theorem setCoreBank_clusters (s : State) (k : Nat) (v : CoreBank) : (s.setCoreBank k v).clusters = s.clusters := rfl
@[simp] theorem setCoreBank_dies (s : State) (k : Nat) (v : CoreBank) : (s.setCoreBank k v).dies = s.dies := rfl
@[simp] theorem setCoreBank_partitions (s : State) (k : Nat) (v : CoreBank) : (s.setCoreBank k v).partitions = s.partitions := rfl
@[simp] theorem setCoreBank_fabId (s : State) (k : Nat) (v : CoreBank) : (s.setCoreBank k v).fabId = s.fabId := rfl
@[simp] theorem setCoreBank_ports (s : State) (k : Nat) (v : CoreBank) : (s.setCoreBank k v).ports = s.ports := rfl
@[simp] theorem setCoreBank_modules (s : State) (k : Nat) (v : CoreBank) : (s.setCoreBank k v).modules = s.modules := rfl
@[simp] theorem setCoreBank_dieLinks (s : State) (k : Nat) (v : CoreBank) : (s.setCoreBank k v).dieLinks = s.dieLinks := rfl
@[simp] theorem setCoreBank_mem (s : State) (k : Nat) (v : CoreBank) : (s.setCoreBank k v).mem = s.mem := rfl
@[simp] theorem setCoreBank_lineMeta (s : State) (k : Nat) (v : CoreBank) : (s.setCoreBank k v).lineMeta = s.lineMeta := rfl
@[simp] theorem setCoreBank_keyOf (s : State) (k : Nat) (v : CoreBank) : (s.setCoreBank k v).keyOf = s.keyOf := rfl
@[simp] theorem setCoreBank_keyDraws (s : State) (k : Nat) (v : CoreBank) : (s.setCoreBank k v).keyDraws = s.keyDraws := rfl
@[simp] theorem setCoreBank_spad (s : State) (k : Nat) (v : CoreBank) : (s.setCoreBank k v).spad = s.spad := rfl
@[simp] theorem setCoreBank_saved (s : State) (k : Nat) (v : CoreBank) : (s.setCoreBank k v).saved = s.saved := rfl
@[simp] theorem setCoreBank_oldCode (s : State) (k : Nat) (v : CoreBank) : (s.setCoreBank k v).oldCode = s.oldCode := rfl
@[simp] theorem setCoreBank_net (s : State) (k : Nat) (v : CoreBank) : (s.setCoreBank k v).net = s.net := rfl
@[simp] theorem setCoreBank_meets (s : State) (k : Nat) (v : CoreBank) : (s.setCoreBank k v).meets = s.meets := rfl
@[simp] theorem setCoreBank_hostHeld (s : State) (k : Nat) (v : CoreBank) : (s.setCoreBank k v).hostHeld = s.hostHeld := rfl
@[simp] theorem setCoreBank_attNonce (s : State) (k : Nat) (v : CoreBank) : (s.setCoreBank k v).attNonce = s.attNonce := rfl
@[simp] theorem setCoreBank_attReport (s : State) (k : Nat) (v : CoreBank) : (s.setCoreBank k v).attReport = s.attReport := rfl
@[simp] theorem setCoreBank_order (s : State) (k : Nat) (v : CoreBank) : (s.setCoreBank k v).order = s.order := rfl
@[simp] theorem setCoreBank_cur (s : State) (k : Nat) (v : CoreBank) : (s.setCoreBank k v).cur = s.cur := rfl
@[simp] theorem setCoreBank_arg (s : State) (k : Nat) (v : CoreBank) : (s.setCoreBank k v).arg = s.arg := rfl
@[simp] theorem setCoreBank_groups (s : State) (k : Nat) (v : CoreBank) : (s.setCoreBank k v).groups = s.groups := rfl
@[simp] theorem setCoreBank_agenda (s : State) (k : Nat) (v : CoreBank) : (s.setCoreBank k v).agenda = s.agenda := rfl
@[simp] theorem setCoreBank_free (s : State) (k : Nat) (v : CoreBank) : (s.setCoreBank k v).free = s.free := rfl

/-! ## setCore -/

@[simp] theorem setCore_now (s : State) (k : Nat) (v : Core) : (s.setCore k v).now = s.now := rfl
@[simp] theorem setCore_powered (s : State) (k : Nat) (v : Core) : (s.setCore k v).powered = s.powered := rfl
@[simp] theorem setCore_slots (s : State) (k : Nat) (v : Core) : (s.setCore k v).slots = s.slots := rfl
@[simp] theorem setCore_requesters (s : State) (k : Nat) (v : Core) : (s.setCore k v).requesters = s.requesters := rfl
@[simp] theorem setCore_coreBanks (s : State) (k : Nat) (v : Core) : (s.setCore k v).coreBanks = s.coreBanks := rfl
@[simp] theorem setCore_quads (s : State) (k : Nat) (v : Core) : (s.setCore k v).quads = s.quads := rfl
@[simp] theorem setCore_clusters (s : State) (k : Nat) (v : Core) : (s.setCore k v).clusters = s.clusters := rfl
@[simp] theorem setCore_dies (s : State) (k : Nat) (v : Core) : (s.setCore k v).dies = s.dies := rfl
@[simp] theorem setCore_partitions (s : State) (k : Nat) (v : Core) : (s.setCore k v).partitions = s.partitions := rfl
@[simp] theorem setCore_fabId (s : State) (k : Nat) (v : Core) : (s.setCore k v).fabId = s.fabId := rfl
@[simp] theorem setCore_ports (s : State) (k : Nat) (v : Core) : (s.setCore k v).ports = s.ports := rfl
@[simp] theorem setCore_modules (s : State) (k : Nat) (v : Core) : (s.setCore k v).modules = s.modules := rfl
@[simp] theorem setCore_dieLinks (s : State) (k : Nat) (v : Core) : (s.setCore k v).dieLinks = s.dieLinks := rfl
@[simp] theorem setCore_mem (s : State) (k : Nat) (v : Core) : (s.setCore k v).mem = s.mem := rfl
@[simp] theorem setCore_lineMeta (s : State) (k : Nat) (v : Core) : (s.setCore k v).lineMeta = s.lineMeta := rfl
@[simp] theorem setCore_keyOf (s : State) (k : Nat) (v : Core) : (s.setCore k v).keyOf = s.keyOf := rfl
@[simp] theorem setCore_keyDraws (s : State) (k : Nat) (v : Core) : (s.setCore k v).keyDraws = s.keyDraws := rfl
@[simp] theorem setCore_spad (s : State) (k : Nat) (v : Core) : (s.setCore k v).spad = s.spad := rfl
@[simp] theorem setCore_saved (s : State) (k : Nat) (v : Core) : (s.setCore k v).saved = s.saved := rfl
@[simp] theorem setCore_oldCode (s : State) (k : Nat) (v : Core) : (s.setCore k v).oldCode = s.oldCode := rfl
@[simp] theorem setCore_net (s : State) (k : Nat) (v : Core) : (s.setCore k v).net = s.net := rfl
@[simp] theorem setCore_meets (s : State) (k : Nat) (v : Core) : (s.setCore k v).meets = s.meets := rfl
@[simp] theorem setCore_hostHeld (s : State) (k : Nat) (v : Core) : (s.setCore k v).hostHeld = s.hostHeld := rfl
@[simp] theorem setCore_attNonce (s : State) (k : Nat) (v : Core) : (s.setCore k v).attNonce = s.attNonce := rfl
@[simp] theorem setCore_attReport (s : State) (k : Nat) (v : Core) : (s.setCore k v).attReport = s.attReport := rfl
@[simp] theorem setCore_order (s : State) (k : Nat) (v : Core) : (s.setCore k v).order = s.order := rfl
@[simp] theorem setCore_cur (s : State) (k : Nat) (v : Core) : (s.setCore k v).cur = s.cur := rfl
@[simp] theorem setCore_arg (s : State) (k : Nat) (v : Core) : (s.setCore k v).arg = s.arg := rfl
@[simp] theorem setCore_groups (s : State) (k : Nat) (v : Core) : (s.setCore k v).groups = s.groups := rfl
@[simp] theorem setCore_agenda (s : State) (k : Nat) (v : Core) : (s.setCore k v).agenda = s.agenda := rfl
@[simp] theorem setCore_free (s : State) (k : Nat) (v : Core) : (s.setCore k v).free = s.free := rfl

/-! ## modQuad -/

@[simp] theorem modQuad_now (s : State) (k : Nat) (f : Quad → Quad) : (s.modQuad k f).now = s.now := rfl
@[simp] theorem modQuad_powered (s : State) (k : Nat) (f : Quad → Quad) : (s.modQuad k f).powered = s.powered := rfl
@[simp] theorem modQuad_slots (s : State) (k : Nat) (f : Quad → Quad) : (s.modQuad k f).slots = s.slots := rfl
@[simp] theorem modQuad_requesters (s : State) (k : Nat) (f : Quad → Quad) : (s.modQuad k f).requesters = s.requesters := rfl
@[simp] theorem modQuad_coreBanks (s : State) (k : Nat) (f : Quad → Quad) : (s.modQuad k f).coreBanks = s.coreBanks := rfl
@[simp] theorem modQuad_cores (s : State) (k : Nat) (f : Quad → Quad) : (s.modQuad k f).cores = s.cores := rfl
@[simp] theorem modQuad_clusters (s : State) (k : Nat) (f : Quad → Quad) : (s.modQuad k f).clusters = s.clusters := rfl
@[simp] theorem modQuad_dies (s : State) (k : Nat) (f : Quad → Quad) : (s.modQuad k f).dies = s.dies := rfl
@[simp] theorem modQuad_partitions (s : State) (k : Nat) (f : Quad → Quad) : (s.modQuad k f).partitions = s.partitions := rfl
@[simp] theorem modQuad_fabId (s : State) (k : Nat) (f : Quad → Quad) : (s.modQuad k f).fabId = s.fabId := rfl
@[simp] theorem modQuad_ports (s : State) (k : Nat) (f : Quad → Quad) : (s.modQuad k f).ports = s.ports := rfl
@[simp] theorem modQuad_modules (s : State) (k : Nat) (f : Quad → Quad) : (s.modQuad k f).modules = s.modules := rfl
@[simp] theorem modQuad_dieLinks (s : State) (k : Nat) (f : Quad → Quad) : (s.modQuad k f).dieLinks = s.dieLinks := rfl
@[simp] theorem modQuad_mem (s : State) (k : Nat) (f : Quad → Quad) : (s.modQuad k f).mem = s.mem := rfl
@[simp] theorem modQuad_lineMeta (s : State) (k : Nat) (f : Quad → Quad) : (s.modQuad k f).lineMeta = s.lineMeta := rfl
@[simp] theorem modQuad_keyOf (s : State) (k : Nat) (f : Quad → Quad) : (s.modQuad k f).keyOf = s.keyOf := rfl
@[simp] theorem modQuad_keyDraws (s : State) (k : Nat) (f : Quad → Quad) : (s.modQuad k f).keyDraws = s.keyDraws := rfl
@[simp] theorem modQuad_spad (s : State) (k : Nat) (f : Quad → Quad) : (s.modQuad k f).spad = s.spad := rfl
@[simp] theorem modQuad_saved (s : State) (k : Nat) (f : Quad → Quad) : (s.modQuad k f).saved = s.saved := rfl
@[simp] theorem modQuad_oldCode (s : State) (k : Nat) (f : Quad → Quad) : (s.modQuad k f).oldCode = s.oldCode := rfl
@[simp] theorem modQuad_net (s : State) (k : Nat) (f : Quad → Quad) : (s.modQuad k f).net = s.net := rfl
@[simp] theorem modQuad_meets (s : State) (k : Nat) (f : Quad → Quad) : (s.modQuad k f).meets = s.meets := rfl
@[simp] theorem modQuad_hostHeld (s : State) (k : Nat) (f : Quad → Quad) : (s.modQuad k f).hostHeld = s.hostHeld := rfl
@[simp] theorem modQuad_attNonce (s : State) (k : Nat) (f : Quad → Quad) : (s.modQuad k f).attNonce = s.attNonce := rfl
@[simp] theorem modQuad_attReport (s : State) (k : Nat) (f : Quad → Quad) : (s.modQuad k f).attReport = s.attReport := rfl
@[simp] theorem modQuad_order (s : State) (k : Nat) (f : Quad → Quad) : (s.modQuad k f).order = s.order := rfl
@[simp] theorem modQuad_cur (s : State) (k : Nat) (f : Quad → Quad) : (s.modQuad k f).cur = s.cur := rfl
@[simp] theorem modQuad_arg (s : State) (k : Nat) (f : Quad → Quad) : (s.modQuad k f).arg = s.arg := rfl
@[simp] theorem modQuad_groups (s : State) (k : Nat) (f : Quad → Quad) : (s.modQuad k f).groups = s.groups := rfl
@[simp] theorem modQuad_agenda (s : State) (k : Nat) (f : Quad → Quad) : (s.modQuad k f).agenda = s.agenda := rfl
@[simp] theorem modQuad_free (s : State) (k : Nat) (f : Quad → Quad) : (s.modQuad k f).free = s.free := rfl

/-! ## setCluster -/

@[simp] theorem setCluster_now (s : State) (k : Nat) (v : Cluster) : (s.setCluster k v).now = s.now := rfl
@[simp] theorem setCluster_powered (s : State) (k : Nat) (v : Cluster) : (s.setCluster k v).powered = s.powered := rfl
@[simp] theorem setCluster_slots (s : State) (k : Nat) (v : Cluster) : (s.setCluster k v).slots = s.slots := rfl
@[simp] theorem setCluster_requesters (s : State) (k : Nat) (v : Cluster) : (s.setCluster k v).requesters = s.requesters := rfl
@[simp] theorem setCluster_coreBanks (s : State) (k : Nat) (v : Cluster) : (s.setCluster k v).coreBanks = s.coreBanks := rfl
@[simp] theorem setCluster_cores (s : State) (k : Nat) (v : Cluster) : (s.setCluster k v).cores = s.cores := rfl
@[simp] theorem setCluster_quads (s : State) (k : Nat) (v : Cluster) : (s.setCluster k v).quads = s.quads := rfl
@[simp] theorem setCluster_dies (s : State) (k : Nat) (v : Cluster) : (s.setCluster k v).dies = s.dies := rfl
@[simp] theorem setCluster_partitions (s : State) (k : Nat) (v : Cluster) : (s.setCluster k v).partitions = s.partitions := rfl
@[simp] theorem setCluster_fabId (s : State) (k : Nat) (v : Cluster) : (s.setCluster k v).fabId = s.fabId := rfl
@[simp] theorem setCluster_ports (s : State) (k : Nat) (v : Cluster) : (s.setCluster k v).ports = s.ports := rfl
@[simp] theorem setCluster_modules (s : State) (k : Nat) (v : Cluster) : (s.setCluster k v).modules = s.modules := rfl
@[simp] theorem setCluster_dieLinks (s : State) (k : Nat) (v : Cluster) : (s.setCluster k v).dieLinks = s.dieLinks := rfl
@[simp] theorem setCluster_mem (s : State) (k : Nat) (v : Cluster) : (s.setCluster k v).mem = s.mem := rfl
@[simp] theorem setCluster_lineMeta (s : State) (k : Nat) (v : Cluster) : (s.setCluster k v).lineMeta = s.lineMeta := rfl
@[simp] theorem setCluster_keyOf (s : State) (k : Nat) (v : Cluster) : (s.setCluster k v).keyOf = s.keyOf := rfl
@[simp] theorem setCluster_keyDraws (s : State) (k : Nat) (v : Cluster) : (s.setCluster k v).keyDraws = s.keyDraws := rfl
@[simp] theorem setCluster_spad (s : State) (k : Nat) (v : Cluster) : (s.setCluster k v).spad = s.spad := rfl
@[simp] theorem setCluster_saved (s : State) (k : Nat) (v : Cluster) : (s.setCluster k v).saved = s.saved := rfl
@[simp] theorem setCluster_oldCode (s : State) (k : Nat) (v : Cluster) : (s.setCluster k v).oldCode = s.oldCode := rfl
@[simp] theorem setCluster_net (s : State) (k : Nat) (v : Cluster) : (s.setCluster k v).net = s.net := rfl
@[simp] theorem setCluster_meets (s : State) (k : Nat) (v : Cluster) : (s.setCluster k v).meets = s.meets := rfl
@[simp] theorem setCluster_hostHeld (s : State) (k : Nat) (v : Cluster) : (s.setCluster k v).hostHeld = s.hostHeld := rfl
@[simp] theorem setCluster_attNonce (s : State) (k : Nat) (v : Cluster) : (s.setCluster k v).attNonce = s.attNonce := rfl
@[simp] theorem setCluster_attReport (s : State) (k : Nat) (v : Cluster) : (s.setCluster k v).attReport = s.attReport := rfl
@[simp] theorem setCluster_order (s : State) (k : Nat) (v : Cluster) : (s.setCluster k v).order = s.order := rfl
@[simp] theorem setCluster_cur (s : State) (k : Nat) (v : Cluster) : (s.setCluster k v).cur = s.cur := rfl
@[simp] theorem setCluster_arg (s : State) (k : Nat) (v : Cluster) : (s.setCluster k v).arg = s.arg := rfl
@[simp] theorem setCluster_groups (s : State) (k : Nat) (v : Cluster) : (s.setCluster k v).groups = s.groups := rfl
@[simp] theorem setCluster_agenda (s : State) (k : Nat) (v : Cluster) : (s.setCluster k v).agenda = s.agenda := rfl
@[simp] theorem setCluster_free (s : State) (k : Nat) (v : Cluster) : (s.setCluster k v).free = s.free := rfl

/-! ## setDie -/

@[simp] theorem setDie_now (s : State) (k : Nat) (v : Die) : (s.setDie k v).now = s.now := rfl
@[simp] theorem setDie_powered (s : State) (k : Nat) (v : Die) : (s.setDie k v).powered = s.powered := rfl
@[simp] theorem setDie_slots (s : State) (k : Nat) (v : Die) : (s.setDie k v).slots = s.slots := rfl
@[simp] theorem setDie_requesters (s : State) (k : Nat) (v : Die) : (s.setDie k v).requesters = s.requesters := rfl
@[simp] theorem setDie_coreBanks (s : State) (k : Nat) (v : Die) : (s.setDie k v).coreBanks = s.coreBanks := rfl
@[simp] theorem setDie_cores (s : State) (k : Nat) (v : Die) : (s.setDie k v).cores = s.cores := rfl
@[simp] theorem setDie_quads (s : State) (k : Nat) (v : Die) : (s.setDie k v).quads = s.quads := rfl
@[simp] theorem setDie_clusters (s : State) (k : Nat) (v : Die) : (s.setDie k v).clusters = s.clusters := rfl
@[simp] theorem setDie_partitions (s : State) (k : Nat) (v : Die) : (s.setDie k v).partitions = s.partitions := rfl
@[simp] theorem setDie_fabId (s : State) (k : Nat) (v : Die) : (s.setDie k v).fabId = s.fabId := rfl
@[simp] theorem setDie_ports (s : State) (k : Nat) (v : Die) : (s.setDie k v).ports = s.ports := rfl
@[simp] theorem setDie_modules (s : State) (k : Nat) (v : Die) : (s.setDie k v).modules = s.modules := rfl
@[simp] theorem setDie_dieLinks (s : State) (k : Nat) (v : Die) : (s.setDie k v).dieLinks = s.dieLinks := rfl
@[simp] theorem setDie_mem (s : State) (k : Nat) (v : Die) : (s.setDie k v).mem = s.mem := rfl
@[simp] theorem setDie_lineMeta (s : State) (k : Nat) (v : Die) : (s.setDie k v).lineMeta = s.lineMeta := rfl
@[simp] theorem setDie_keyOf (s : State) (k : Nat) (v : Die) : (s.setDie k v).keyOf = s.keyOf := rfl
@[simp] theorem setDie_keyDraws (s : State) (k : Nat) (v : Die) : (s.setDie k v).keyDraws = s.keyDraws := rfl
@[simp] theorem setDie_spad (s : State) (k : Nat) (v : Die) : (s.setDie k v).spad = s.spad := rfl
@[simp] theorem setDie_saved (s : State) (k : Nat) (v : Die) : (s.setDie k v).saved = s.saved := rfl
@[simp] theorem setDie_oldCode (s : State) (k : Nat) (v : Die) : (s.setDie k v).oldCode = s.oldCode := rfl
@[simp] theorem setDie_net (s : State) (k : Nat) (v : Die) : (s.setDie k v).net = s.net := rfl
@[simp] theorem setDie_meets (s : State) (k : Nat) (v : Die) : (s.setDie k v).meets = s.meets := rfl
@[simp] theorem setDie_hostHeld (s : State) (k : Nat) (v : Die) : (s.setDie k v).hostHeld = s.hostHeld := rfl
@[simp] theorem setDie_attNonce (s : State) (k : Nat) (v : Die) : (s.setDie k v).attNonce = s.attNonce := rfl
@[simp] theorem setDie_attReport (s : State) (k : Nat) (v : Die) : (s.setDie k v).attReport = s.attReport := rfl
@[simp] theorem setDie_order (s : State) (k : Nat) (v : Die) : (s.setDie k v).order = s.order := rfl
@[simp] theorem setDie_cur (s : State) (k : Nat) (v : Die) : (s.setDie k v).cur = s.cur := rfl
@[simp] theorem setDie_arg (s : State) (k : Nat) (v : Die) : (s.setDie k v).arg = s.arg := rfl
@[simp] theorem setDie_groups (s : State) (k : Nat) (v : Die) : (s.setDie k v).groups = s.groups := rfl
@[simp] theorem setDie_agenda (s : State) (k : Nat) (v : Die) : (s.setDie k v).agenda = s.agenda := rfl
@[simp] theorem setDie_free (s : State) (k : Nat) (v : Die) : (s.setDie k v).free = s.free := rfl

/-! ## setPart -/

@[simp] theorem setPart_now (s : State) (k : Nat) (v : Partition) : (s.setPart k v).now = s.now := rfl
@[simp] theorem setPart_powered (s : State) (k : Nat) (v : Partition) : (s.setPart k v).powered = s.powered := rfl
@[simp] theorem setPart_slots (s : State) (k : Nat) (v : Partition) : (s.setPart k v).slots = s.slots := rfl
@[simp] theorem setPart_requesters (s : State) (k : Nat) (v : Partition) : (s.setPart k v).requesters = s.requesters := rfl
@[simp] theorem setPart_coreBanks (s : State) (k : Nat) (v : Partition) : (s.setPart k v).coreBanks = s.coreBanks := rfl
@[simp] theorem setPart_cores (s : State) (k : Nat) (v : Partition) : (s.setPart k v).cores = s.cores := rfl
@[simp] theorem setPart_quads (s : State) (k : Nat) (v : Partition) : (s.setPart k v).quads = s.quads := rfl
@[simp] theorem setPart_clusters (s : State) (k : Nat) (v : Partition) : (s.setPart k v).clusters = s.clusters := rfl
@[simp] theorem setPart_dies (s : State) (k : Nat) (v : Partition) : (s.setPart k v).dies = s.dies := rfl
@[simp] theorem setPart_fabId (s : State) (k : Nat) (v : Partition) : (s.setPart k v).fabId = s.fabId := rfl
@[simp] theorem setPart_ports (s : State) (k : Nat) (v : Partition) : (s.setPart k v).ports = s.ports := rfl
@[simp] theorem setPart_modules (s : State) (k : Nat) (v : Partition) : (s.setPart k v).modules = s.modules := rfl
@[simp] theorem setPart_dieLinks (s : State) (k : Nat) (v : Partition) : (s.setPart k v).dieLinks = s.dieLinks := rfl
@[simp] theorem setPart_mem (s : State) (k : Nat) (v : Partition) : (s.setPart k v).mem = s.mem := rfl
@[simp] theorem setPart_lineMeta (s : State) (k : Nat) (v : Partition) : (s.setPart k v).lineMeta = s.lineMeta := rfl
@[simp] theorem setPart_keyOf (s : State) (k : Nat) (v : Partition) : (s.setPart k v).keyOf = s.keyOf := rfl
@[simp] theorem setPart_keyDraws (s : State) (k : Nat) (v : Partition) : (s.setPart k v).keyDraws = s.keyDraws := rfl
@[simp] theorem setPart_spad (s : State) (k : Nat) (v : Partition) : (s.setPart k v).spad = s.spad := rfl
@[simp] theorem setPart_saved (s : State) (k : Nat) (v : Partition) : (s.setPart k v).saved = s.saved := rfl
@[simp] theorem setPart_oldCode (s : State) (k : Nat) (v : Partition) : (s.setPart k v).oldCode = s.oldCode := rfl
@[simp] theorem setPart_net (s : State) (k : Nat) (v : Partition) : (s.setPart k v).net = s.net := rfl
@[simp] theorem setPart_meets (s : State) (k : Nat) (v : Partition) : (s.setPart k v).meets = s.meets := rfl
@[simp] theorem setPart_hostHeld (s : State) (k : Nat) (v : Partition) : (s.setPart k v).hostHeld = s.hostHeld := rfl
@[simp] theorem setPart_attNonce (s : State) (k : Nat) (v : Partition) : (s.setPart k v).attNonce = s.attNonce := rfl
@[simp] theorem setPart_attReport (s : State) (k : Nat) (v : Partition) : (s.setPart k v).attReport = s.attReport := rfl
@[simp] theorem setPart_order (s : State) (k : Nat) (v : Partition) : (s.setPart k v).order = s.order := rfl
@[simp] theorem setPart_cur (s : State) (k : Nat) (v : Partition) : (s.setPart k v).cur = s.cur := rfl
@[simp] theorem setPart_arg (s : State) (k : Nat) (v : Partition) : (s.setPart k v).arg = s.arg := rfl
@[simp] theorem setPart_groups (s : State) (k : Nat) (v : Partition) : (s.setPart k v).groups = s.groups := rfl
@[simp] theorem setPart_agenda (s : State) (k : Nat) (v : Partition) : (s.setPart k v).agenda = s.agenda := rfl
@[simp] theorem setPart_free (s : State) (k : Nat) (v : Partition) : (s.setPart k v).free = s.free := rfl

/-! ## modPort -/

@[simp] theorem modPort_now (s : State) (k : Nat) (f : Port → Port) : (s.modPort k f).now = s.now := rfl
@[simp] theorem modPort_powered (s : State) (k : Nat) (f : Port → Port) : (s.modPort k f).powered = s.powered := rfl
@[simp] theorem modPort_slots (s : State) (k : Nat) (f : Port → Port) : (s.modPort k f).slots = s.slots := rfl
@[simp] theorem modPort_requesters (s : State) (k : Nat) (f : Port → Port) : (s.modPort k f).requesters = s.requesters := rfl
@[simp] theorem modPort_coreBanks (s : State) (k : Nat) (f : Port → Port) : (s.modPort k f).coreBanks = s.coreBanks := rfl
@[simp] theorem modPort_cores (s : State) (k : Nat) (f : Port → Port) : (s.modPort k f).cores = s.cores := rfl
@[simp] theorem modPort_quads (s : State) (k : Nat) (f : Port → Port) : (s.modPort k f).quads = s.quads := rfl
@[simp] theorem modPort_clusters (s : State) (k : Nat) (f : Port → Port) : (s.modPort k f).clusters = s.clusters := rfl
@[simp] theorem modPort_dies (s : State) (k : Nat) (f : Port → Port) : (s.modPort k f).dies = s.dies := rfl
@[simp] theorem modPort_partitions (s : State) (k : Nat) (f : Port → Port) : (s.modPort k f).partitions = s.partitions := rfl
@[simp] theorem modPort_fabId (s : State) (k : Nat) (f : Port → Port) : (s.modPort k f).fabId = s.fabId := rfl
@[simp] theorem modPort_modules (s : State) (k : Nat) (f : Port → Port) : (s.modPort k f).modules = s.modules := rfl
@[simp] theorem modPort_dieLinks (s : State) (k : Nat) (f : Port → Port) : (s.modPort k f).dieLinks = s.dieLinks := rfl
@[simp] theorem modPort_mem (s : State) (k : Nat) (f : Port → Port) : (s.modPort k f).mem = s.mem := rfl
@[simp] theorem modPort_lineMeta (s : State) (k : Nat) (f : Port → Port) : (s.modPort k f).lineMeta = s.lineMeta := rfl
@[simp] theorem modPort_keyOf (s : State) (k : Nat) (f : Port → Port) : (s.modPort k f).keyOf = s.keyOf := rfl
@[simp] theorem modPort_keyDraws (s : State) (k : Nat) (f : Port → Port) : (s.modPort k f).keyDraws = s.keyDraws := rfl
@[simp] theorem modPort_spad (s : State) (k : Nat) (f : Port → Port) : (s.modPort k f).spad = s.spad := rfl
@[simp] theorem modPort_saved (s : State) (k : Nat) (f : Port → Port) : (s.modPort k f).saved = s.saved := rfl
@[simp] theorem modPort_oldCode (s : State) (k : Nat) (f : Port → Port) : (s.modPort k f).oldCode = s.oldCode := rfl
@[simp] theorem modPort_net (s : State) (k : Nat) (f : Port → Port) : (s.modPort k f).net = s.net := rfl
@[simp] theorem modPort_meets (s : State) (k : Nat) (f : Port → Port) : (s.modPort k f).meets = s.meets := rfl
@[simp] theorem modPort_hostHeld (s : State) (k : Nat) (f : Port → Port) : (s.modPort k f).hostHeld = s.hostHeld := rfl
@[simp] theorem modPort_attNonce (s : State) (k : Nat) (f : Port → Port) : (s.modPort k f).attNonce = s.attNonce := rfl
@[simp] theorem modPort_attReport (s : State) (k : Nat) (f : Port → Port) : (s.modPort k f).attReport = s.attReport := rfl
@[simp] theorem modPort_order (s : State) (k : Nat) (f : Port → Port) : (s.modPort k f).order = s.order := rfl
@[simp] theorem modPort_cur (s : State) (k : Nat) (f : Port → Port) : (s.modPort k f).cur = s.cur := rfl
@[simp] theorem modPort_arg (s : State) (k : Nat) (f : Port → Port) : (s.modPort k f).arg = s.arg := rfl
@[simp] theorem modPort_groups (s : State) (k : Nat) (f : Port → Port) : (s.modPort k f).groups = s.groups := rfl
@[simp] theorem modPort_agenda (s : State) (k : Nat) (f : Port → Port) : (s.modPort k f).agenda = s.agenda := rfl
@[simp] theorem modPort_free (s : State) (k : Nat) (f : Port → Port) : (s.modPort k f).free = s.free := rfl

/-! ## Reading a unit after a write -/

/-- What stands under `j` after `k` was written. -/
theorem slotAt_setSlotAt (s : State) (k j : Nat) (v : Slot) : (s.setSlotAt k v).slotAt j = if j = k then v else s.slotAt j := by
  simp only [State.slotAt, State.setSlotAt, look_put]; split <;> rfl
@[simp] theorem slotAt_setSlotAt_same (s : State) (k : Nat) (v : Slot) : (s.setSlotAt k v).slotAt k = v := by simp [slotAt_setSlotAt]
/-- What stands under `j` after `k` was written. -/
theorem requester_setRequester (s : State) (k j : Nat) (v : Requester) : (s.setRequester k v).requester j = if j = k then v else s.requester j := by
  simp only [State.requester, State.setRequester, look_put]; split <;> rfl
@[simp] theorem requester_setRequester_same (s : State) (k : Nat) (v : Requester) : (s.setRequester k v).requester k = v := by simp [requester_setRequester]
/-- What stands under `j` after `k` was written. -/
theorem coreBank_setCoreBank (s : State) (k j : Nat) (v : CoreBank) : (s.setCoreBank k v).coreBank j = if j = k then v else s.coreBank j := by
  simp only [State.coreBank, State.setCoreBank, look_put]; split <;> rfl
@[simp] theorem coreBank_setCoreBank_same (s : State) (k : Nat) (v : CoreBank) : (s.setCoreBank k v).coreBank k = v := by simp [coreBank_setCoreBank]
/-- What stands under `j` after `k` was written. -/
theorem core_setCore (s : State) (k j : Nat) (v : Core) : (s.setCore k v).core j = if j = k then v else s.core j := by
  simp only [State.core, State.setCore, look_put]; split <;> rfl
@[simp] theorem core_setCore_same (s : State) (k : Nat) (v : Core) : (s.setCore k v).core k = v := by simp [core_setCore]
/-- What stands under `j` after `k` was written. -/
theorem cluster_setCluster (s : State) (k j : Nat) (v : Cluster) : (s.setCluster k v).cluster j = if j = k then v else s.cluster j := by
  simp only [State.cluster, State.setCluster, look_put]; split <;> rfl
@[simp] theorem cluster_setCluster_same (s : State) (k : Nat) (v : Cluster) : (s.setCluster k v).cluster k = v := by simp [cluster_setCluster]
/-- What stands under `j` after `k` was written. -/
theorem die_setDie (s : State) (k j : Nat) (v : Die) : (s.setDie k v).die j = if j = k then v else s.die j := by
  simp only [State.die, State.setDie, look_put]; split <;> rfl
@[simp] theorem die_setDie_same (s : State) (k : Nat) (v : Die) : (s.setDie k v).die k = v := by simp [die_setDie]
/-- What stands under `j` after `k` was written. -/
theorem part_setPart (s : State) (k j : Nat) (v : Partition) : (s.setPart k v).part j = if j = k then v else s.part j := by
  simp only [State.part, State.setPart, look_put]; split <;> rfl
@[simp] theorem part_setPart_same (s : State) (k : Nat) (v : Partition) : (s.setPart k v).part k = v := by simp [part_setPart]
/-- What stands under `j` after `k` was changed. -/
theorem quad_modQuad (s : State) (k j : Nat) (f : Quad → Quad) : (s.modQuad k f).quad j = if j = k then f (s.quad k) else s.quad j := by
  simp only [State.quad, State.modQuad, look_put]; split <;> rfl
/-- What stands under `j` after `k` was changed. -/
theorem port_modPort (s : State) (k j : Nat) (f : Port → Port) : (s.modPort k f).port j = if j = k then f (s.port k) else s.port j := by
  simp only [State.port, State.modPort, look_put]; split <;> rfl

@[simp] theorem slotAt_setRequester (s : State) (k j : Nat) (v : Requester) : (s.setRequester k v).slotAt j = s.slotAt j := rfl
@[simp] theorem slotAt_setCoreBank (s : State) (k j : Nat) (v : CoreBank) : (s.setCoreBank k v).slotAt j = s.slotAt j := rfl
@[simp] theorem slotAt_setCore (s : State) (k j : Nat) (v : Core) : (s.setCore k v).slotAt j = s.slotAt j := rfl
@[simp] theorem slotAt_setCluster (s : State) (k j : Nat) (v : Cluster) : (s.setCluster k v).slotAt j = s.slotAt j := rfl
@[simp] theorem slotAt_setDie (s : State) (k j : Nat) (v : Die) : (s.setDie k v).slotAt j = s.slotAt j := rfl
@[simp] theorem slotAt_setPart (s : State) (k j : Nat) (v : Partition) : (s.setPart k v).slotAt j = s.slotAt j := rfl
@[simp] theorem requester_setSlotAt (s : State) (k j : Nat) (v : Slot) : (s.setSlotAt k v).requester j = s.requester j := rfl
@[simp] theorem requester_setCoreBank (s : State) (k j : Nat) (v : CoreBank) : (s.setCoreBank k v).requester j = s.requester j := rfl
@[simp] theorem requester_setCore (s : State) (k j : Nat) (v : Core) : (s.setCore k v).requester j = s.requester j := rfl
@[simp] theorem requester_setCluster (s : State) (k j : Nat) (v : Cluster) : (s.setCluster k v).requester j = s.requester j := rfl
@[simp] theorem requester_setDie (s : State) (k j : Nat) (v : Die) : (s.setDie k v).requester j = s.requester j := rfl
@[simp] theorem requester_setPart (s : State) (k j : Nat) (v : Partition) : (s.setPart k v).requester j = s.requester j := rfl
@[simp] theorem coreBank_setSlotAt (s : State) (k j : Nat) (v : Slot) : (s.setSlotAt k v).coreBank j = s.coreBank j := rfl
@[simp] theorem coreBank_setRequester (s : State) (k j : Nat) (v : Requester) : (s.setRequester k v).coreBank j = s.coreBank j := rfl
@[simp] theorem coreBank_setCore (s : State) (k j : Nat) (v : Core) : (s.setCore k v).coreBank j = s.coreBank j := rfl
@[simp] theorem coreBank_setCluster (s : State) (k j : Nat) (v : Cluster) : (s.setCluster k v).coreBank j = s.coreBank j := rfl
@[simp] theorem coreBank_setDie (s : State) (k j : Nat) (v : Die) : (s.setDie k v).coreBank j = s.coreBank j := rfl
@[simp] theorem coreBank_setPart (s : State) (k j : Nat) (v : Partition) : (s.setPart k v).coreBank j = s.coreBank j := rfl
@[simp] theorem core_setSlotAt (s : State) (k j : Nat) (v : Slot) : (s.setSlotAt k v).core j = s.core j := rfl
@[simp] theorem core_setRequester (s : State) (k j : Nat) (v : Requester) : (s.setRequester k v).core j = s.core j := rfl
@[simp] theorem core_setCoreBank (s : State) (k j : Nat) (v : CoreBank) : (s.setCoreBank k v).core j = s.core j := rfl
@[simp] theorem core_setCluster (s : State) (k j : Nat) (v : Cluster) : (s.setCluster k v).core j = s.core j := rfl
@[simp] theorem core_setDie (s : State) (k j : Nat) (v : Die) : (s.setDie k v).core j = s.core j := rfl
@[simp] theorem core_setPart (s : State) (k j : Nat) (v : Partition) : (s.setPart k v).core j = s.core j := rfl
@[simp] theorem cluster_setSlotAt (s : State) (k j : Nat) (v : Slot) : (s.setSlotAt k v).cluster j = s.cluster j := rfl
@[simp] theorem cluster_setRequester (s : State) (k j : Nat) (v : Requester) : (s.setRequester k v).cluster j = s.cluster j := rfl
@[simp] theorem cluster_setCoreBank (s : State) (k j : Nat) (v : CoreBank) : (s.setCoreBank k v).cluster j = s.cluster j := rfl
@[simp] theorem cluster_setCore (s : State) (k j : Nat) (v : Core) : (s.setCore k v).cluster j = s.cluster j := rfl
@[simp] theorem cluster_setDie (s : State) (k j : Nat) (v : Die) : (s.setDie k v).cluster j = s.cluster j := rfl
@[simp] theorem cluster_setPart (s : State) (k j : Nat) (v : Partition) : (s.setPart k v).cluster j = s.cluster j := rfl
@[simp] theorem die_setSlotAt (s : State) (k j : Nat) (v : Slot) : (s.setSlotAt k v).die j = s.die j := rfl
@[simp] theorem die_setRequester (s : State) (k j : Nat) (v : Requester) : (s.setRequester k v).die j = s.die j := rfl
@[simp] theorem die_setCoreBank (s : State) (k j : Nat) (v : CoreBank) : (s.setCoreBank k v).die j = s.die j := rfl
@[simp] theorem die_setCore (s : State) (k j : Nat) (v : Core) : (s.setCore k v).die j = s.die j := rfl
@[simp] theorem die_setCluster (s : State) (k j : Nat) (v : Cluster) : (s.setCluster k v).die j = s.die j := rfl
@[simp] theorem die_setPart (s : State) (k j : Nat) (v : Partition) : (s.setPart k v).die j = s.die j := rfl
@[simp] theorem part_setSlotAt (s : State) (k j : Nat) (v : Slot) : (s.setSlotAt k v).part j = s.part j := rfl
@[simp] theorem part_setRequester (s : State) (k j : Nat) (v : Requester) : (s.setRequester k v).part j = s.part j := rfl
@[simp] theorem part_setCoreBank (s : State) (k j : Nat) (v : CoreBank) : (s.setCoreBank k v).part j = s.part j := rfl
@[simp] theorem part_setCore (s : State) (k j : Nat) (v : Core) : (s.setCore k v).part j = s.part j := rfl
@[simp] theorem part_setCluster (s : State) (k j : Nat) (v : Cluster) : (s.setCluster k v).part j = s.part j := rfl
@[simp] theorem part_setDie (s : State) (k j : Nat) (v : Die) : (s.setDie k v).part j = s.part j := rfl
@[simp] theorem slotAt_modQuad (s : State) (k j : Nat) (f : Quad → Quad) : (s.modQuad k f).slotAt j = s.slotAt j := rfl
@[simp] theorem slotAt_modPort (s : State) (k j : Nat) (f : Port → Port) : (s.modPort k f).slotAt j = s.slotAt j := rfl
@[simp] theorem requester_modQuad (s : State) (k j : Nat) (f : Quad → Quad) : (s.modQuad k f).requester j = s.requester j := rfl
@[simp] theorem requester_modPort (s : State) (k j : Nat) (f : Port → Port) : (s.modPort k f).requester j = s.requester j := rfl
@[simp] theorem coreBank_modQuad (s : State) (k j : Nat) (f : Quad → Quad) : (s.modQuad k f).coreBank j = s.coreBank j := rfl
@[simp] theorem coreBank_modPort (s : State) (k j : Nat) (f : Port → Port) : (s.modPort k f).coreBank j = s.coreBank j := rfl
@[simp] theorem core_modQuad (s : State) (k j : Nat) (f : Quad → Quad) : (s.modQuad k f).core j = s.core j := rfl
@[simp] theorem core_modPort (s : State) (k j : Nat) (f : Port → Port) : (s.modPort k f).core j = s.core j := rfl
@[simp] theorem cluster_modQuad (s : State) (k j : Nat) (f : Quad → Quad) : (s.modQuad k f).cluster j = s.cluster j := rfl
@[simp] theorem cluster_modPort (s : State) (k j : Nat) (f : Port → Port) : (s.modPort k f).cluster j = s.cluster j := rfl
@[simp] theorem die_modQuad (s : State) (k j : Nat) (f : Quad → Quad) : (s.modQuad k f).die j = s.die j := rfl
@[simp] theorem die_modPort (s : State) (k j : Nat) (f : Port → Port) : (s.modPort k f).die j = s.die j := rfl
@[simp] theorem part_modQuad (s : State) (k j : Nat) (f : Quad → Quad) : (s.modQuad k f).part j = s.part j := rfl
@[simp] theorem part_modPort (s : State) (k j : Nat) (f : Port → Port) : (s.modPort k f).part j = s.part j := rfl
@[simp] theorem quad_setSlotAt (s : State) (k j : Nat) (v : Slot) : (s.setSlotAt k v).quad j = s.quad j := rfl
@[simp] theorem quad_setRequester (s : State) (k j : Nat) (v : Requester) : (s.setRequester k v).quad j = s.quad j := rfl
@[simp] theorem quad_setCoreBank (s : State) (k j : Nat) (v : CoreBank) : (s.setCoreBank k v).quad j = s.quad j := rfl
@[simp] theorem quad_setCore (s : State) (k j : Nat) (v : Core) : (s.setCore k v).quad j = s.quad j := rfl
@[simp] theorem quad_setCluster (s : State) (k j : Nat) (v : Cluster) : (s.setCluster k v).quad j = s.quad j := rfl
@[simp] theorem quad_setDie (s : State) (k j : Nat) (v : Die) : (s.setDie k v).quad j = s.quad j := rfl
@[simp] theorem quad_setPart (s : State) (k j : Nat) (v : Partition) : (s.setPart k v).quad j = s.quad j := rfl
@[simp] theorem port_setSlotAt (s : State) (k j : Nat) (v : Slot) : (s.setSlotAt k v).port j = s.port j := rfl
@[simp] theorem port_setRequester (s : State) (k j : Nat) (v : Requester) : (s.setRequester k v).port j = s.port j := rfl
@[simp] theorem port_setCoreBank (s : State) (k j : Nat) (v : CoreBank) : (s.setCoreBank k v).port j = s.port j := rfl
@[simp] theorem port_setCore (s : State) (k j : Nat) (v : Core) : (s.setCore k v).port j = s.port j := rfl
@[simp] theorem port_setCluster (s : State) (k j : Nat) (v : Cluster) : (s.setCluster k v).port j = s.port j := rfl
@[simp] theorem port_setDie (s : State) (k j : Nat) (v : Die) : (s.setDie k v).port j = s.port j := rfl
@[simp] theorem port_setPart (s : State) (k j : Nat) (v : Partition) : (s.setPart k v).port j = s.port j := rfl

/-! ## The slot whose step it is -/

@[simp] theorem setSlotAt_setSlotAt_same (s : State) (k : Nat) (v w : Slot) :
    (s.setSlotAt k v).setSlotAt k w = s.setSlotAt k w := by simp [State.setSlotAt, put_put_same]
@[simp] theorem me_setSlotAt (s : State) (k : Nat) (v : Slot) : (s.setSlotAt k v).me = s.me := rfl
@[simp] theorem me_setCoreBank (s : State) (k : Nat) (v : CoreBank) : (s.setCoreBank k v).me = s.me := rfl
@[simp] theorem me_modSl (s : State) (f : Slot → Slot) : (s.modSl f).me = s.me := rfl
@[simp] theorem sl_modSl (s : State) (f : Slot → Slot) : (s.modSl f).sl = f s.sl := by
  simp [State.sl, State.modSl, State.setSl]
@[simp] theorem sl_setSl (s : State) (v : Slot) : (s.setSl v).sl = v := by simp [State.sl, State.setSl]
@[simp] theorem sl_setCoreBank (s : State) (k : Nat) (v : CoreBank) : (s.setCoreBank k v).sl = s.sl := rfl
/-- The other slots keep their state. -/
theorem slotAt_modSl (s : State) (f : Slot → Slot) (k : Nat) : (s.modSl f).slotAt k = if k = s.me then f s.sl else s.slotAt k := by
  simp [State.modSl, State.setSl, slotAt_setSlotAt]
@[simp] theorem modSl_modSl (s : State) (f g : Slot → Slot) : (s.modSl f).modSl g = s.modSl fun x => g (f x) := by
  show (s.setSlotAt s.me (f s.sl)).setSlotAt s.me (g ((s.setSlotAt s.me (f s.sl)).slotAt s.me)) = s.setSlotAt s.me (g (f s.sl))
  simp

@[simp] theorem modSl_now (s : State) (f : Slot → Slot) : (s.modSl f).now = s.now := rfl
@[simp] theorem modSl_powered (s : State) (f : Slot → Slot) : (s.modSl f).powered = s.powered := rfl
@[simp] theorem modSl_requesters (s : State) (f : Slot → Slot) : (s.modSl f).requesters = s.requesters := rfl
@[simp] theorem modSl_coreBanks (s : State) (f : Slot → Slot) : (s.modSl f).coreBanks = s.coreBanks := rfl
@[simp] theorem modSl_cores (s : State) (f : Slot → Slot) : (s.modSl f).cores = s.cores := rfl
@[simp] theorem modSl_quads (s : State) (f : Slot → Slot) : (s.modSl f).quads = s.quads := rfl
@[simp] theorem modSl_clusters (s : State) (f : Slot → Slot) : (s.modSl f).clusters = s.clusters := rfl
@[simp] theorem modSl_dies (s : State) (f : Slot → Slot) : (s.modSl f).dies = s.dies := rfl
@[simp] theorem modSl_partitions (s : State) (f : Slot → Slot) : (s.modSl f).partitions = s.partitions := rfl
@[simp] theorem modSl_fabId (s : State) (f : Slot → Slot) : (s.modSl f).fabId = s.fabId := rfl
@[simp] theorem modSl_ports (s : State) (f : Slot → Slot) : (s.modSl f).ports = s.ports := rfl
@[simp] theorem modSl_modules (s : State) (f : Slot → Slot) : (s.modSl f).modules = s.modules := rfl
@[simp] theorem modSl_dieLinks (s : State) (f : Slot → Slot) : (s.modSl f).dieLinks = s.dieLinks := rfl
@[simp] theorem modSl_mem (s : State) (f : Slot → Slot) : (s.modSl f).mem = s.mem := rfl
@[simp] theorem modSl_lineMeta (s : State) (f : Slot → Slot) : (s.modSl f).lineMeta = s.lineMeta := rfl
@[simp] theorem modSl_keyOf (s : State) (f : Slot → Slot) : (s.modSl f).keyOf = s.keyOf := rfl
@[simp] theorem modSl_keyDraws (s : State) (f : Slot → Slot) : (s.modSl f).keyDraws = s.keyDraws := rfl
@[simp] theorem modSl_spad (s : State) (f : Slot → Slot) : (s.modSl f).spad = s.spad := rfl
@[simp] theorem modSl_saved (s : State) (f : Slot → Slot) : (s.modSl f).saved = s.saved := rfl
@[simp] theorem modSl_oldCode (s : State) (f : Slot → Slot) : (s.modSl f).oldCode = s.oldCode := rfl
@[simp] theorem modSl_net (s : State) (f : Slot → Slot) : (s.modSl f).net = s.net := rfl
@[simp] theorem modSl_meets (s : State) (f : Slot → Slot) : (s.modSl f).meets = s.meets := rfl
@[simp] theorem modSl_hostHeld (s : State) (f : Slot → Slot) : (s.modSl f).hostHeld = s.hostHeld := rfl
@[simp] theorem modSl_attNonce (s : State) (f : Slot → Slot) : (s.modSl f).attNonce = s.attNonce := rfl
@[simp] theorem modSl_attReport (s : State) (f : Slot → Slot) : (s.modSl f).attReport = s.attReport := rfl
@[simp] theorem modSl_order (s : State) (f : Slot → Slot) : (s.modSl f).order = s.order := rfl
@[simp] theorem modSl_cur (s : State) (f : Slot → Slot) : (s.modSl f).cur = s.cur := rfl
@[simp] theorem modSl_arg (s : State) (f : Slot → Slot) : (s.modSl f).arg = s.arg := rfl
@[simp] theorem modSl_groups (s : State) (f : Slot → Slot) : (s.modSl f).groups = s.groups := rfl
@[simp] theorem modSl_agenda (s : State) (f : Slot → Slot) : (s.modSl f).agenda = s.agenda := rfl
@[simp] theorem modSl_free (s : State) (f : Slot → Slot) : (s.modSl f).free = s.free := rfl

end Sys2Proof.Machine
end

