-- ==== Sys2Proof/Laws/Run.lean ====
section
/-!
SUPPORT. What the frame of an M, L or S form does, once for each way in which its body ends.
-/
namespace Sys2Proof.Machine

/-- An instruction that performs does what its body says. -/
theorem runM_runs {i : Instr} {op : Nat} {f : MForm} {len : Nat} {ill typ : State → Bool} {body : Opnds → State → Res} {s : State}
    (hi : ill s = false) (ht : typ s = false) (h : Runs op f s) :
    runM i op f len ill typ body s = .next (match body (s.operands op f) s with
      | .done t => s.completed op f len t
      | .jump t => s.transferred op f t
      | .trap t cause addr => t.takeTrap cause addr
      | .wait t => (if s.sl.issued then t else t.issueQueues s.myCoreKey (s.sl.pops op f) (s.sl.push op f)).await i
      | .halt t => t
      | .next t => (s.consumed op f t).hint f.yield) := by
  obtain ⟨hr, hg, hq, hs, hp, hl⟩ := h
  have e1 : (!s.sl.issued && !s.queuesReady (s.sl.pops op f) (s.sl.push op f)) = false := by
    rcases hq with h | h <;> simp [h]
  have e2 : (drainsStores op f && s.sl.pend && !s.sl.hm) = false := by
    cases hd : drainsStores op f
    · rfl
    · rcases (hs hd).1 with h | h <;> simp [h]
  have e3 : (drainsStores op f && !s.sl.drained) = false := by
    cases hd : drainsStores op f
    · rfl
    · simp [(hs hd).2]
  have e4 : (isRelease op f && s.repliesOut) = false := by
    cases hd : isRelease op f
    · rfl
    · simp [(hp hd).1]
  have e5 : (!s.sl.issued && s.popsPoison (s.sl.pops op f)) = false := by
    rcases hq with h | h <;> simp [h]
  have e6 : (if isRelease op f then s.waiterTrap op f else none) = none := by
    cases hd : isRelease op f
    · rfl
    · simp [(hp hd).2]
  have e7 : (if s.flushes op f then s.preFlush (allLines op f) else none) = none := by
    cases hd : s.flushes op f
    · rfl
    · simp [hl hd]
  simp only [runM, hi, ht, hr, hg, e1, e2, e3, e4, e5, e6, e7, Bool.false_eq_true, if_false, Bool.not_true]
  cases body (s.operands op f) s <;> rfl

theorem runM_done {i : Instr} {op : Nat} {f : MForm} {len : Nat} {ill typ : State → Bool} {body : Opnds → State → Res} {s t : State}
    (hi : ill s = false) (ht : typ s = false) (h : Runs op f s) (hb : body (s.operands op f) s = .done t) :
    runM i op f len ill typ body s = .next (s.completed op f len t) := by rw [runM_runs hi ht h, hb]

theorem runM_jump {i : Instr} {op : Nat} {f : MForm} {len : Nat} {ill typ : State → Bool} {body : Opnds → State → Res} {s t : State}
    (hi : ill s = false) (ht : typ s = false) (h : Runs op f s) (hb : body (s.operands op f) s = .jump t) :
    runM i op f len ill typ body s = .next (s.transferred op f t) := by rw [runM_runs hi ht h, hb]

theorem runM_trap {i : Instr} {op : Nat} {f : MForm} {len : Nat} {ill typ : State → Bool} {body : Opnds → State → Res} {s t : State}
    {cause addr : Nat} (hi : ill s = false) (ht : typ s = false) (h : Runs op f s)
    (hb : body (s.operands op f) s = .trap t cause addr) :
    runM i op f len ill typ body s = .next (t.takeTrap cause addr) := by rw [runM_runs hi ht h, hb]

theorem runM_next {i : Instr} {op : Nat} {f : MForm} {len : Nat} {ill typ : State → Bool} {body : Opnds → State → Res} {s t : State}
    (hi : ill s = false) (ht : typ s = false) (h : Runs op f s) (hb : body (s.operands op f) s = .next t) :
    runM i op f len ill typ body s = .next ((s.consumed op f t).hint f.yield) := by rw [runM_runs hi ht h, hb]

/-- Decode checks come before the register checks, the guard and every wait (R42). -/
theorem runM_ill {i : Instr} {op : Nat} {f : MForm} {len : Nat} {ill typ : State → Bool} {body : Opnds → State → Res} {s : State}
    (h : ill s = true) : runM i op f len ill typ body s = .next (s.takeTrap cIllegal 0) := by simp [runM, h]

theorem runM_typ {i : Instr} {op : Nat} {f : MForm} {len : Nat} {ill typ : State → Bool} {body : Opnds → State → Res} {s : State}
    (hi : ill s = false) (h : typ s = true) : runM i op f len ill typ body s = .next (s.takeTrap cType 0) := by simp [runM, hi, h]

theorem runM_reg {i : Instr} {op : Nat} {f : MForm} {len : Nat} {ill typ : State → Bool} {body : Opnds → State → Res} {s : State}
    (hi : ill s = false) (ht : typ s = false) (h : s.regBad op f = true) :
    runM i op f len ill typ body s = .next (s.takeTrap cRegister 0) := by simp [runM, hi, ht, h]

/-- An instruction whose guard is false only moves the PC (R28). -/
theorem runM_guard {i : Instr} {op : Nat} {f : MForm} {len : Nat} {ill typ : State → Bool} {body : Opnds → State → Res} {s : State}
    (hi : ill s = false) (ht : typ s = false) (hr : s.regBad op f = false) (h : s.guard f = false) :
    runM i op f len ill typ body s = .next (s.advance len false) := by simp [runM, hi, ht, hr, h]

end Sys2Proof.Machine
end

