-- ==== Sys2Proof/Tests/Slice0.lean ====
section
/-!
SUPPORT. The tests: words written out from the encodings of the specification, ill-formed terms, the worked examples of the specification,
and for every statement a state and operands that meet its hypotheses.
-/
set_option maxRecDepth 100000


/-! ## The states and forms of the tests -/

namespace Sys2Proof.Tests
open Sys2Proof Sys2Proof.Machine

/-- a = g5, b = g6, d = g7. -/
def tF : MForm := ⟨0, 6, 5, 7, 0, 0, false, false, false, 0, none⟩

/-- a = g2, which holds a capability for the own scratchpad. -/
def tL : MForm := { tF with a := 2 }

/-- A capability for `len` bytes of the own scratchpad from `off`. -/
def tCap (perm : BitVec 7) (off len : Nat) : Cap :=
  mkCap true perm 0 (BitVec.ofNat 20 len) (BitVec.ofNat 48 (0xFF0000000000 + off)) (BitVec.ofNat 48 (0xFF0000000000 + off))

def tHeader : Header := ⟨placedCap, 0, 32, false, 0, 0x100, 0x80, [⟨0x200, 4, 0xFF⟩, ⟨0x240, 3, 0⟩], [⟨0x300, 0x340, 0x380, 0⟩]⟩

/-- The placed machine, with a handler, a scratchpad of 32 KiB that holds the bytes 1 to 8, and operands in the registers. -/
def tS : State :=
  let s := (State.reset.placed []).modPart 0 fun p => { p with entries := put p.entries 0 { placedEntryOf with hdr := some tHeader } }
  let s := s.modCoreBank 0 fun k => { k with launch := some (0, 0), spad := 0x8000 }
  let s := { s with spad := s.spad.store 0 [1, 2, 3, 4, 5, 6, 7, 8] }
  s.modSl fun sl => { (((sl.setReg 2 (tCap 0x7F 0 0x8000)).setReg 5 (.ofWord 12)).setReg 6 (.ofWord 5)) with
    trapRec := tCap 0x7F 0x1000 64, domains := sl.domains }

/-- tS with a register changed. -/
def tR (r : BitVec 5) (v : Cap) : State := tS.modSl fun sl => sl.setReg r v

def tNext (o : Host.Outcome State Fault Refusal) : State := match o with
  | .next t => t
  | _ => State.reset

/-- An accepted command of slot 0 with the record `r`. -/
def tJob (r : Record) : Job := ⟨r, none, 0, 0, (0, 0), some 6, 3, false, 0, Vector.replicate 64 0, 0, [], 0, 0, none, 0, 0, false, none⟩


/-! ## Witnesses: states and operands that meet the hypotheses of each statement -/

/-- Every opcode of classes 0x0 to 0x5 performs in tS. -/
theorem witness_register_instructions : ∀ op ∈ [0x000, 0x001, 0x002, 0x003, 0x004, 0x005, 0x006, 0x007, 0x008, 0x009, 0x00A, 0x00B, 0x00C, 0x00D, 0x00E,
    0x00F, 0x010, 0x011, 0x040, 0x041, 0x042, 0x043, 0x044, 0x045, 0x046, 0x047, 0x048, 0x049, 0x04A, 0x04B, 0x080, 0x081, 0x082, 0x083, 0x084, 0x085,
    0x086, 0x087, 0x088, 0x089, 0x08A, 0x08B, 0x0C0, 0x0C1, 0x0C2, 0x0C3, 0x0C4, 0x0C5, 0x0C6, 0x0C7, 0x100, 0x101, 0x102, 0x103, 0x104, 0x105, 0x106,
    0x140, 0x141, 0x142, 0x143, 0x144, 0x145, 0x146, 0x147, 0x148, 0x149, 0x14A, 0x14B, 0x14C, 0x14D, 0x14E, 0x14F], Runs op tF tS := by decide

/-- ProductsAndBitFields: the widest field. -/
theorem witness_bit_field : let f := { tF with imm := 0xFC0 }
    f.imm.toNat % 64 + (f.imm.toNat / 64 % 64 + 1) = 64 ∧ Runs 0x04B f tS := by decide

/-- IntegerLogicShiftsAndCompares: the last condition of FCMP. -/
theorem witness_fcmp : let f := { tF with ext := 7 }
    f.ext.toNat < 8 ∧ Runs 0x0C1 f tS := by decide

theorem witness_cand : (tS.operands 0x088 tL).a.tag = true ∧ Runs 0x088 tL tS ∧ (tS.operands 0x088 tF).a.tag = false ∧ Runs 0x088 tF tS := by decide

/-- CapabilityInstructions: bounds that fill the capability, from an exact length. -/
theorem witness_bounds : let f := { tL with lit := some 0x8000 }
    Runs 0x084 f tS ∧ Runs 0x085 f tS ∧ Encodes (tS.operands 0x084 f).b.dv.toNat 0x8000 0 ∧ 0x8000 * 2 ^ 0 = (tS.operands 0x085 f).b.dv.toNat ∧
    (tS.operands 0x084 f).a.tag = true ∧ (tS.operands 0x084 f).a.base ≤ (tS.operands 0x084 f).a.cursor ∧
    (tS.operands 0x084 f).a.cursor + 0x8000 * 2 ^ 0 ≤ (tS.operands 0x084 f).a.top := by
  refine ⟨by decide, by decide, ⟨by decide, by decide, by decide, fun j hj => absurd hj (Nat.not_lt_zero j)⟩, ?_⟩
  decide

/-- One byte more than the capability holds. -/
theorem witness_bounds_trap : let f := { tL with lit := some 0x8001 }
    Runs 0x084 f tS ∧ Runs 0x085 f tS ∧ (tS.operands 0x084 f).a.tag = true ∧ ∀ m e, Encodes (tS.operands 0x084 f).b.dv.toNat m e →
      (tS.operands 0x084 f).a.cursor < (tS.operands 0x084 f).a.base ∨ (tS.operands 0x084 f).a.top < (tS.operands 0x084 f).a.cursor + m * 2 ^ e := by
  refine ⟨by decide, by decide, by decide, fun m e h => Or.inr ?_⟩
  have hL : (tS.operands 0x084 { tL with lit := some 0x8001 }).b.dv.toNat = 0x8001 := by decide
  have ht : (tS.operands 0x084 { tL with lit := some 0x8001 }).a.top = 0xFF0000008000 := by decide
  have hc : (tS.operands 0x084 { tL with lit := some 0x8001 }).a.cursor = 0xFF0000000000 := by decide
  obtain ⟨h1, h2, -, h4⟩ := h
  rw [hL] at h2 h4
  rw [ht, hc]
  cases e with
  | zero => subst h2; decide
  | succ k => exact absurd (h4 0 (Nat.succ_pos k)) (by decide)

theorem witness_bounds_untagged : (tS.operands 0x084 tF).a.tag = false ∧ (tS.operands 0x085 tF).a.tag = false := by decide

/-- ControlTransfers: an aligned and an unaligned JMP, a LOOP that goes on and one that ends, and a link that transfers. -/
theorem witness_transfers :
    ((tS.operands 0x101 tF).a.dv + tF.imm.signExtend 64 * 4).setWidth 2 = (0 : BitVec 2) ∧
    (((tR 5 (.ofWord 14)).operands 0x101 tF).a.dv + tF.imm.signExtend 64 * 4).setWidth 2 ≠ (0 : BitVec 2) ∧ Runs 0x101 tF (tR 5 (.ofWord 14)) ∧
    (tS.operands 0x105 tF).d.dv ≠ 1 ∧ ((tR 7 (.ofWord 1)).operands 0x105 tF).d.dv = 1 ∧ Runs 0x105 tF (tR 7 (.ofWord 1)) ∧
    MayTransfer ((tR 5 placedCap).operands 0x103 tF).a ∧ Runs 0x103 tF (tR 5 placedCap) ∧ MayTransfer ((tR 1 placedCap).reg 1) ∧
    Runs 0x104 tF (tR 1 placedCap) := by
  repeat' apply And.intro
  all_goals decide

/-- Each refusal of cap_transfer. -/
theorem witness_bad_transfers :
    (tS.operands 0x103 tF).a.tag = false ∧ (tS.reg 1).tag = false ∧
    (let c := ((tR 5 (tCap 0x7B 0 64)).operands 0x103 tF).a; c.tag = true ∧ c.val.getLsbD 123 = false) ∧
    (let c := ((tR 5 (tCap 0x7F 2 64)).operands 0x103 tF).a; c.tag = true ∧ c.val.getLsbD 123 = true ∧ c.val.setWidth 2 ≠ (0 : BitVec 2)) ∧
    (let c := (tR 1 (tCap 0x7B 0 64)).reg 1; c.tag = true ∧ c.val.getLsbD 123 = false) ∧
    (let c := (tR 1 (tCap 0x7F 2 64)).reg 1; c.tag = true ∧ c.val.getLsbD 123 = true ∧ c.val.setWidth 2 ≠ (0 : BitVec 2)) := by decide

/-- FloatingPoint: a signalling NaN under SR, and both forms of FCVT. -/
theorem witness_fp : (∀ op ∈ [0x140, 0x141, 0x142, 0x144], Runs op tF (tR 5 (.ofWord 0x7F800001)) ∧
      isSignal32 (low32 ((tR 5 (.ofWord 0x7F800001)).operands op tF).a) = true) ∧
    Runs 0x14C { tF with imm := 1 } tS ∧ Runs 0x14C { tF with imm := 0 } tS := by decide

/-- RoundingToNearestIsNearest: 1 and 2^-24 lie halfway. -/
theorem witness_rounding :
    let s := (tR 5 (.ofWord 0x3F800000)).modSl fun sl => sl.setReg 6 (.ofWord 0x33800000)
    (∀ op ∈ [0x140, 0x141, 0x142, 0x143], Runs op tF s) ∧ s.roundMode tF.ext = 0 ∧ (value32 (low32 (s.operands 0x140 tF).a)).isSome = true ∧
    (value32 (low32 (s.operands 0x140 tF).b)).isSome = true ∧ (value32 (low32 (s.operands 0x143 tF).d)).isSome = true := by decide

/-- LoadsFromTheOwnScratchpad, StoresArePosted, AccessesThroughBadCapabilitiesTrap: the last bytes of the scratchpad, for each width. -/
theorem witness_loads : ∀ e ∈ [0, 1, 2, 3, 4, 8, 9, 10], let f := { tL with ext := e }
    let s := tR 2 (tCap 0x7F (0x8000 - widthOf e) (widthOf e))
    IsWidth e ∧ Runs 0x180 f s ∧ Runs 0x184 f s ∧ Reaches s (s.operands 0x180 f).a ((s.operands 0x180 f).a.cursor + f.off) (widthOf e) 64 ∧
    (((s.operands 0x180 f).a.cursor : Int) + f.off).toNat % widthOf e = 0 := by decide

/-- Registers whose groups are aligned. -/
def tG : MForm := { tL with ext := 3, d := 8, b := 8 }

theorem witness_wide_loads : Reaches tS (tS.operands 0x182 tG).a ((tS.operands 0x182 tG).a.cursor + tG.off) 16 64 ∧
    Reaches tS (tS.operands 0x185 tG).a ((tS.operands 0x185 tG).a.cursor + tG.off) 64 64 ∧
    (((tS.operands 0x185 tG).a.cursor : Int) + tG.off).toNat % 64 = 0 := by
  repeat' apply And.intro
  all_goals decide
theorem witness_short_loads : Reaches tS (tS.operands 0x180 (MFormMemS 3 7 2 0 31 8)).a ((tS.operands 0x180 (MFormMemS 3 7 2 0 31 8)).a.cursor + 8 * 31) 8 64 ∧
    Reaches tS (tS.operands 0x180 (MFormMemS 2 7 2 0 31 4)).a ((tS.operands 0x180 (MFormMemS 2 7 2 0 31 4)).a.cursor + 4 * 31) 4 64 ∧
    Runs 0x180 (MFormMemS 3 7 2 0 31 8) tS ∧ Runs 0x180 (MFormMemS 2 7 2 0 31 4) tS := by
  repeat' apply And.intro
  all_goals decide
theorem witness_memory_runs : ∀ op ∈ [0x180, 0x181, 0x182, 0x183, 0x184, 0x185, 0x186, 0x1C3], Runs op tG tS := by decide

theorem witness_stores : ∀ p ∈ [(0x181, 8, 32), (0x183, 16, 40), (0x183, 16, 32), (0x186, 64, 32), (0x1C3, 4, 96)],
    MayPost tS (tS.operands p.1 tG).a ((tS.operands p.1 tG).a.cursor + tG.imm.toInt) p.2.1 (BitVec.ofNat 7 p.2.2) true := by decide
theorem witness_releases : moOrdF { tG with typ := 2 } = 2 ∧ Runs 0x181 { tG with typ := 2 } tS ∧ moOrdF tG = 0 ∧ IsWidth tG.ext := by
  repeat' apply And.intro
  all_goals decide

/-- An untagged capability, one without the permission, and one that ends a byte too soon, for each access of the statement. -/
def tAccesses : List (Nat × Nat × Nat) :=
  [(0x180, 8, 64), (0x181, 8, 32), (0x182, 16, 64), (0x185, 64, 64), (0x186, 64, 32), (0x187, 8, 65), (0x189, 8, 33), (0x1C0, 4, 96)]
theorem witness_untagged_access : ∀ p ∈ tAccesses, Runs p.1 tG (tR 2 (.ofWord 0)) ∧ ((tR 2 (.ofWord 0)).operands p.1 tG).a.tag = false := by decide
theorem witness_forbidden_access : ∀ p ∈ tAccesses, let c := ((tR 2 (tCap 4 0 64)).operands p.1 tG).a
    Runs p.1 tG (tR 2 (tCap 4 0 64)) ∧ c.tag = true ∧ c.perm &&& BitVec.ofNat 7 p.2.2 ≠ BitVec.ofNat 7 p.2.2 := by decide
theorem witness_access_beyond : ∀ p ∈ tAccesses, let s := tR 2 (tCap 0x7F 0 (p.2.1 - 1)); let c := (s.operands p.1 tG).a
    Runs p.1 tG s ∧ c.tag = true ∧ c.perm &&& BitVec.ofNat 7 p.2.2 = BitVec.ofNat 7 p.2.2 ∧ (c.top : Int) < (c.cursor + tG.off) + p.2.1 := by decide

/-- FullAndEmptyWords: an empty word and a full one. -/
def tFull : State := tS.setFull 0 0 0 true
theorem witness_fe : ∀ s ∈ [tS, tFull], ReachesWord s (s.operands 0x187 tL).a ((s.operands 0x187 tL).a.cursor + tL.off) 65 ∧
    ReachesWord s (s.operands 0x189 tL).a ((s.operands 0x189 tL).a.cursor + tL.imm.toInt) 33 ∧
    (∀ op ∈ [0x187, 0x188, 0x189, 0x18A, 0x18B, 0x18C], Runs op tL s) ∧ s.sl.pops 0x187 tL = [] ∧ s.sl.push 0x187 tL = none ∧ s.sl.pops 0x189 tL = [] := by
  intro s h
  simp only [List.mem_cons, List.not_mem_nil, or_false] at h
  rcases h with rfl | rfl
  all_goals repeat' apply And.intro
  all_goals decide
theorem witness_fe_bits : tS.ownFull (((tS.operands 0x187 tL).a.cursor : Int) + tL.off).toNat = false ∧
    tFull.ownFull (((tFull.operands 0x187 tL).a.cursor : Int) + tL.off).toNat = true := by decide

/-- LinesFencesAndDraining. -/
theorem witness_lines : (∀ op ∈ [0x18D, 0x18E, 0x18F, 0x1C5], Runs op tL tS) ∧ Allowed (tS.operands 0x18E tL).a ((tS.operands 0x18E tL).a.cursor + tL.off) 1 64 ∧
    InOwnScratchpad tS (((tS.operands 0x18E tL).a.cursor : Int) + tL.off).toNat 1 ∧ (∀ e ∈ [(0 : BitVec 5), 1, 2], Runs 0x1C4 { tL with ext := e } tS) :=
  ⟨by decide, by decide, by decide, by decide⟩

/-- Atomics: the last word of the scratchpad, for both widths. -/
def tLastWord (w : BitVec 8) : State := tR 2 (tCap 0x7F (0x8000 - atomicWidth { tL with typ := w }) (atomicWidth { tL with typ := w }))
theorem witness_atomics : ∀ w ∈ [(0 : BitVec 8), 32], ∀ op ∈ [0x1C0, 0x1C1, 0x1C2], Runs op { tL with typ := w } (tLastWord w) ∧
    moOrdF { tL with typ := w } < 2 ∧ (tLastWord w).spad.wf = true := by decide
theorem witness_atomic_word : ∀ w ∈ [(0 : BitVec 8), 32], let f := { tL with typ := w }
    ReachesAtomic (tLastWord w) f ((tLastWord w).operands 0x1C0 f).a (atomicWidth f) := by decide

/-- WaitingOnAnAddress: the word of the scratchpad, and what it is compared with. -/
def tWaita : State := tR 6 (.ofWord 0x0807060504030201)
theorem witness_waita : ∀ s ∈ [tS, tWaita, tS.modCluster 0 fun c => { c with monitors := List.replicate 32 ⟨8, 1, true⟩ }], Runs 0x1C6 tL s ∧
    Reaches s (s.operands 0x1C6 tL).a ((s.operands 0x1C6 tL).a.cursor + tL.imm.toInt) 8 64 ∧ s.sl.armed = none ∧ s.sl.pops 0x1C6 tL = [] := by
  intro s h
  simp only [List.mem_cons, List.not_mem_nil, or_false] at h
  rcases h with rfl | rfl | rfl
  all_goals repeat' apply And.intro
  all_goals decide
theorem witness_waita_words :
    leNat (tS.ownBytes (((tS.operands 0x1C6 tL).a.cursor : Int) + tL.imm.toInt).toNat 8) ≠ (tS.operands 0x1C6 tL).b.dv.toNat ∧
    leNat (tWaita.ownBytes (((tWaita.operands 0x1C6 tL).a.cursor : Int) + tL.imm.toInt).toNat 8) = (tWaita.operands 0x1C6 tL).b.dv.toNat ∧
    (tWaita.cluster tWaita.myCluster).monitors.length < 32 := by decide
def tArmed : State := tS.modSl fun sl => { sl with state := .waiting (.waita tL), armed := some true }
theorem witness_waita_wake : tArmed.slotKey tArmed.arg.a = 0 ∧ (tArmed.slotAt 0).state = .waiting (.waita tL) ∧ (tArmed.slotAt 0).armed = some true ∧
    (tArmed.slotAt 0).halted = false := by decide

/-- BufferedStoresAreTranslated: stores into the scratchpad, into memory, and through a page that is not present. -/
def tStore (va : Nat) : State := { tS.modSl fun sl => { sl with sbuf := [⟨va, [9, 9], .plain, false, false, none⟩] } with arg := { a := 0, b := 0 } }
theorem witness_translates : ∀ va ∈ [0xFF0000000010, 0x2000, 0x400000000], Translates (tStore va) 0 ⟨va, [9, 9], .plain, false, false, none⟩ [] ∧
    (tStore va).spad.wf = true ∧ (tStore va).mem.wf = true ∧ ((tStore va).core (0x10 / 0x18000)).twin = none := by decide
theorem witness_store_scratchpad : ((tStore 0xFF0000000010).resolve ((tStore 0xFF0000000010).viaOf 0) 0xFF0000000010 2 .store).1 =
    .ok [⟨.spad 0x10, 2⟩] := by rfl
theorem witness_store_memory : ∃ pg u, (tStore 0x2000).resolve ((tStore 0x2000).viaOf 0) 0x2000 2 .store = (.ok [⟨.mem 0x2000 pg, 2⟩], u) ∧
    u.mem = (tStore 0x2000).mem ∧ pg.mode ≠ .so ∧ u.cached 0 pg = false ∧ u.keyFits 0x80 pg.key = true ∧ crosses 0 0x2000 = false ∧
    ∀ c ∈ u.coreBanks, look c.2.l1 0x80 = none := by
  refine ⟨_, _, rfl, by rfl, by decide, by decide, by decide, by decide, by decide⟩
/-- A store across two lines of the scratchpad, of which the lower performs first. -/
def tStore2 : State := { tStore 0xFF000000003F with arg := { a := 0, b := 0, c := 1 } }
theorem witness_store_parts : tStore2.arg.c % 3 = 1 ∧ Translates tStore2 0 ⟨0xFF000000003F, [9, 9], .plain, false, false, none⟩ [] ∧ tStore2.spad.wf = true ∧
    (tStore2.core (0x3F / 0x18000)).twin = none := by decide
theorem witness_store_pieces : tStore2.resolve (tStore2.viaOf 0) 0xFF000000003F 2 .store = (.ok [⟨.spad 0x3F, 1⟩, ⟨.spad 0x40, 1⟩], tStore2) := by rfl
theorem witness_store_records : let s := (tStore 0x400000000).modSl fun sl => { sl with stfRecs := List.replicate 8 0 }
    8 ≤ (s.slotAt 0).stfRecs.length ∧ ((tStore 0x400000000).slotAt 0).stfRecs.length < 8 ∧ Translates s 0 ⟨0x400000000, [9, 9], .plain, false, false, none⟩ [] := by decide
theorem witness_store_fault : ∃ x u, (tStore 0x400000000).resolve ((tStore 0x400000000).viaOf 0) 0x400000000 2 .store = (.error x, u) :=
  ⟨_, _, rfl⟩

/-- LinesFencesAndDraining: a line of global memory in an L1. -/
def tLine : State := (tR 2 (mkCap true 0x7F 0 0x8000 0x2000 0x2000)).modCoreBank 0 fun k => { k with l1Bytes := 0x4000, l1 := [(0x80, ⟨.rc, 5, 1, 1, 0, false, 0, []⟩)] }
theorem witness_held_line : ∃ pg u, tLine.resolve tLine.via 0x2000 1 .load = (.ok [⟨.mem 0x2000 pg, 1⟩], u) ∧ u.sl.sbuf = [] ∧
    (u.core u.myCore).twin = none ∧ u.cached u.myCoreKey pg = true ∧ (look (u.coreBank u.myCoreKey).l1 0x80).isSome = true := by
  refine ⟨_, _, rfl, by decide, by decide, by decide, by decide⟩

/-- Loads of a line of global memory at VA and PA 0x2000: the L1 of `l1` bytes holds `ls`, the line has the metadata `m`. -/
def tGm (l1 : Nat) (ls : SMap L1Line) (m : SMap LineMeta) : State :=
  { (tR 2 (mkCap true 0x7F 0 0x8000 0x2000 0x2000)).modCoreBank 0 fun k => { k with l1Bytes := l1, l1 := ls } with lineMeta := m }
/-- The metadata of an agent of another die, whose scope is its cluster. -/
def tFarMeta : SMap LineMeta := [(0x80, ⟨1, 3, 5⟩)]
/-- A load of 8 bytes with MO field `t`. -/
def tLd (t : Nat) : MForm := { tL with ext := 3, typ := BitVec.ofNat 8 t }
def tHit : SMap L1Line := [(0x80, ⟨.rc, 5, BitVec.allOnes 64, 1, 0, false, 0, []⟩)]
theorem witness_line_hit : ∃ pg u l, let x := (tGm 0x4000 tHit []).operands 0x180 (tLd 0); Runs 0x180 (tLd 0) (tGm 0x4000 tHit []) ∧ moOrdF (tLd 0) ≠ 1 ∧
    ReachesLine (tGm 0x4000 tHit []) u x.a (x.a.cursor + (tLd 0).off) 8 64 .load 0x2000 pg ∧ u.cached u.myCoreKey pg = true ∧
    look (u.coreBank u.myCoreKey).l1 (0x2000 / 64) = some l ∧ l.parts = [] ∧ l.valid = BitVec.allOnes 64 ∧ l.poison = false := by
  refine ⟨_, _, _, by decide, by decide, ⟨⟨by decide, by decide⟩, rfl, ⟨by decide, by decide, by decide⟩, fun h => absurd h (by decide)⟩, by decide, rfl, rfl, rfl, rfl⟩
theorem witness_line_home : ∀ m ∈ [[], tFarMeta], ∀ l1 ∈ [0, 0x4000], ∀ t ∈ [0, 1], let s := tGm l1 [] m; let x := s.operands 0x180 (tLd t)
    Runs 0x180 (tLd t) s ∧ ((x.a.cursor : Int) + (tLd t).off).toNat % 8 = 0 ∧ ∃ pg u, ReachesLine s u x.a (x.a.cursor + (tLd t).off) 8 64 .load 0x2000 pg ∧
      u.cached u.myCoreKey pg = decide (l1 ≠ 0) ∧ OwnHome u 0x2000 ∧ AtHome u (0x2000 / 64) pg.key ∧
      (l1 ≠ 0 → 64 * (u.coreBank u.myCoreKey).l1.length < (u.coreBank u.myCoreKey).l1Bytes) ∧ (PassesScope u (0x2000 / 64) (moScopeF (tLd t)) ↔ m = []) := by
  intro m hm l1 hl t ht
  simp only [List.mem_cons, List.not_mem_nil, or_false] at hm hl ht
  rcases hm with rfl | rfl <;> rcases hl with rfl | rfl <;> rcases ht with rfl | rfl
  all_goals refine ⟨by decide, by decide, _, _, ⟨⟨by decide, by decide⟩, rfl, ⟨by decide, by decide, by decide⟩, fun h => absurd h (by decide)⟩, by decide,
    ⟨by decide, by decide⟩, ⟨by decide, by decide, by decide⟩, by decide, ?_⟩
  all_goals unfold PassesScope; decide
theorem witness_scopes : let s := tGm 0 [] [(0x80, ⟨2, 0, 5⟩)]; PassesScope s 0x80 2 ∧ ¬PassesScope s 0x80 1 := by unfold PassesScope; decide
/-- Atomics on the line, relaxed, acquiring and releasing. -/
theorem witness_atomic_home : ∀ m ∈ [[], tFarMeta], ∀ t ∈ [0, 1, 2, 3], ∀ op ∈ [0x1C0, 0x1C1, 0x1C2], let s := tGm 0x4000 [] m; let f : MForm := { tL with typ := BitVec.ofNat 8 t }
    let x := s.operands op f; Runs op f s ∧ ((x.a.cursor : Int) + f.imm.toInt).toNat % 4 = 0 ∧ ∃ pg u, ReachesLine s u x.a (x.a.cursor + f.imm.toInt) 4 96 .amo 0x2000 pg ∧
      OwnHome u 0x2000 ∧ AtHome u (0x2000 / 64) pg.key ∧ NoReplay u u.myDie ∧ u.redOut u.me = false ∧ (∀ c ∈ u.clusters, ∀ q ∈ c.2.monitors, q.line ≠ 0x2000 / 64) ∧
      (u.coreBank u.myCoreKey).l1 = [] ∧ u.mem.wf = true ∧ (PassesScope u (0x2000 / 64) (moScopeF f) ↔ m = []) := by
  intro m hm t ht op ho
  simp only [List.mem_cons, List.not_mem_nil, or_false] at hm ht ho
  rcases hm with rfl | rfl <;> rcases ht with rfl | rfl | rfl | rfl <;> rcases ho with rfl | rfl | rfl
  all_goals refine ⟨by decide, by decide, _, _, ⟨⟨by decide, by decide⟩, rfl, ⟨by decide, by decide, by decide⟩, fun h => absurd h (by decide)⟩,
    ⟨by decide, by decide⟩, ⟨by decide, by decide, by decide⟩, by decide, by decide, by decide, by decide, by decide, ?_⟩
  all_goals unfold PassesScope; decide
/-- A load of a line whose home is another die: to be sent, answered, lost. -/
def tXread (x : Option (Nat × Word)) (up : Bool) : State :=
  { tR 2 (mkCap true 0x7F 0 0x8000 0x2040 0x2040) with mem := tS.mem.store 0 (leBytes 8 (0x3D7 + 2 ^ 37)), now := 4000, dieLinks := [(linkKey 0 1, up)] }.modSl fun sl =>
    { sl with xread := x, issued := x.isSome }
theorem witness_far_load : ∀ p ∈ [(none, true), (some (1, 3000), true), (some (16, 1952), false)], let s := tXread p.1 p.2; let x := s.operands 0x180 (tLd 0)
    Runs 0x180 (tLd 0) s ∧ s.sl.pops 0x180 (tLd 0) = [] ∧ s.sl.push 0x180 (tLd 0) = none ∧ ∃ pg u, ReachesLine s u x.a (x.a.cursor + (tLd 0).off) 8 64 .load (2 ^ 37 + 0x2040) pg ∧
      u.cached u.myCoreKey pg = false ∧ homeDie (2 ^ 37 + 0x2040) ≠ u.myDie ∧ AtHome u ((2 ^ 37 + 0x2040) / 64) pg.key ∧ u.sl.xread = p.1 ∧
      u.homeUp u.myDie (2 ^ 37 + 0x2040) = p.2 ∧ u.isLive u.me = true ∧ u.sl.ingress = none ∧ 2048 ≤ (u.now - 1952).toNat := by
  intro p hp
  simp only [List.mem_cons, List.not_mem_nil, or_false] at hp
  rcases hp with rfl | rfl | rfl
  all_goals refine ⟨by decide, by decide, by decide, _, _, ⟨⟨by decide, by decide⟩, rfl, ⟨by decide, by decide, by decide⟩, fun h => absurd h (by decide)⟩, by decide, by decide,
    ⟨by decide, by decide, by decide⟩, by decide, by decide, by decide, by decide, by decide⟩


/-- TakingATrap: a trap that can be taken, and each reason for which one cannot. -/
theorem witness_trap : CanTakeTraps tS ∧ tS.spad.wf = true ∧ tS.sl.stfRecs.length ≤ 8 := by
  repeat' apply And.intro
  all_goals decide
def tNoTrap : List State :=
  [tS.modSl fun sl => { sl with hm := true }, State.reset.placed [], tS.modSl fun sl => { sl with trapRec := Cap.zero },
   tS.modSl fun sl => { sl with trapRec := tCap 0x70 0x1000 64 }, tS.modSl fun sl => { sl with trapRec := (tCap 0x7F 0x1010 64) },
   tS.modSl fun sl => { sl with trapRec := tCap 0x7F 0x1000 63 }]
theorem witness_no_trap : ∀ s ∈ tNoTrap, s.sl.issued = false ∧ (∀ i, i < 4 → s.sl.domains[i]? = some 0) ∧
    (s.sl.hm = true ∨ s.myHeader.handler = 0 ∨ s.sl.trapRec.tag = false ∨ s.sl.trapRec.perm &&& 120 ≠ 120 ∨
      s.sl.trapRec.cursor / 64 * 64 < s.sl.trapRec.base ∨ s.sl.trapRec.top < s.sl.trapRec.cursor / 64 * 64 + 64) := by decide

/-- SoftwareTrapsAndReturns: forms that perform, a false guard, and a record to return to. -/
theorem witness_software_traps : (∀ op ∈ [0x340, 0x383], Runs op tF tS) ∧ tS.sl.pops 0x340 tF = [] ∧ (tS.csr tS.myDie 0x4C4).getLsbD 11 = false ∧
    ((tS.setCsr 0 0x4C4 0x800).csr (tS.setCsr 0 0x4C4 0x800).myDie 0x4C4).getLsbD 11 = true ∧
    tS.regBad 0x340 { tF with pred := 1 } = false ∧ tS.guard { tF with pred := 1 } = false ∧
    vecIll 0x14C { tF with typ := 0x3F } tS = false := by
  repeat' apply And.intro
  all_goals decide
def tHandler : State := (tR 2 (tCap 0x7F 0x40 64)).modSl fun sl => { sl with hm := true }
theorem witness_eret : Runs 0x341 tL tHandler ∧ tHandler.sl.hm = true ∧
    Allowed (tHandler.operands 0x341 tL).a (tHandler.operands 0x341 tL).a.cursor 32 80 ∧ (tHandler.operands 0x341 tL).a.cursor % 64 = 0 ∧
    InOwnScratchpad tHandler (tHandler.operands 0x341 tL).a.cursor 32 ∧ tHandler.spadPoisoned (tHandler.ownByte (tHandler.operands 0x341 tL).a.cursor) 32 = false ∧
    tHandler.sl.pops 0x341 tL = [] ∧ recordBits tHandler (tHandler.ownByte (tHandler.operands 0x341 tL).a.cursor) 0 2 = 0 ∧
    tS.guard tL = true ∧ tS.sl.hm = false := by
  repeat' apply And.intro
  all_goals decide

/-- StrandCsrs. -/
theorem witness_csrs : (∀ op ∈ [0x342, 0x343, 0x344], Runs op tF tS) ∧ (tS.operands 0x343 tF).a.dv.toNat % 8 < 6 := ⟨by decide, by decide⟩
theorem witness_csr_numbers : Runs 0x343 { tF with imm := 1 } tS ∧ Runs 0x342 { tF with imm := 0x42 } tS := ⟨by decide, by decide⟩

/-- StoreFaultsAndRetainedStores: a pending fault in and outside handler mode, and a retained store that passes. -/
def tPend (hm : Bool) : State := { tS.modSl fun sl => { sl with pend := true, hm := hm } with arg := { a := 0 } }
theorem witness_store_fault_trap : (tPend false).slotKey 0 = 0 ∧ ((tPend false).slotAt 0).pend = true ∧ ((tPend false).slotAt 0).hm = false ∧
    ((tPend false).slotAt 0).halted = false ∧ ((tPend false).core 0).stopped = false ∧ ((tPend false).slotAt 0).state = .ready ∧
    ((tPend true).slotAt ((tPend true).slotKey (tPend true).arg.a)).hm = true := by
  repeat' apply And.intro
  all_goals decide
def tHeld : State := tS.modSl fun sl => { sl with sbuf := [⟨0xFF0000000010, [9, 9], .plain, true, true, none⟩], stfRecs := [0xFF0000000010], ovf := true }
theorem witness_retained : Runs 0x345 tF tHeld ∧ Runs 0x346 tF tHeld ∧ tHeld.sl.retained ≠ 0 ∧ tHeld.sl.acked = false ∧ Runs 0x345 tF tS ∧
    Runs 0x346 tF tS ∧ tS.sl.retained = 0 ∧ tS.sl.acked = false ∧ (tHeld.core (0x10 / 0x18000)).twin = none ∧ tHeld.spad.wf = true := by
  repeat' apply And.intro
  all_goals decide
theorem witness_retained_place : tHeld.resolve tHeld.via 0xFF0000000010 2 .store = (.ok [⟨.spad 0x10, 2⟩], tHeld) := by rfl

/-- GeneratorsAreSeededAndRead, DomainKillsTlbAndDebugInstructions. -/
theorem witness_system : (∀ op ∈ [0x348, 0x349, 0x34A, 0x380, 0x381, 0x382, 0x384], Runs op { tF with imm := 63 } tS) ∧
    (tS.csr tS.myDie 0x4CA).getLsbD 0 = false := by
  repeat' apply And.intro
  all_goals decide
def tCruise : State := tS.setCsr 0 0x4CA 1
theorem witness_cruise : Runs 0x382 tF tCruise ∧ Runs 0x384 tF tCruise ∧ (tCruise.csr tCruise.myDie 0x4CA).getLsbD 0 = true ∧
    (tCruise.now - (tCruise.core tCruise.myCore).cruiseAt).toNat ≤ 0xFFFE := by
  repeat' apply And.intro
  all_goals decide
def tDomain : State := tS.modSl fun sl => { sl with domains := sl.domains.set 0 (mkHandle 1 0 3) }
theorem witness_killdom : Runs 0x347 tF tDomain ∧ tF.ext.toNat < 4 ∧ tDomain.sl.domains[0]? = some (mkHandle 1 0 3) ∧ hKind (mkHandle 1 0 3) ≠ 0 ∧
    tDomain.sl.issued = false ∧ tDomain.sl.launch = some tDomain.myLaunch ∧ hKind (domOf tS tF.ext) = 0 := by
  repeat' apply And.intro
  all_goals decide
theorem witness_killdom_alone (j : Nat) (h : j ≠ tDomain.me) : (tDomain.slotAt j).state = .idle := by
  have e : tDomain.me = 0 := by decide
  have f : (look tDomain.slots j) = none := by
    have g : tDomain.slots = [(0, tDomain.slotAt 0)] := by rfl
    rw [e] at h
    rw [g]
    simp [look, h.symm]
  simp only [State.slotAt, f]
  decide

/-- AStepRunsTheDecodedInstruction: the placed word, an encoding that is none, a poisoned word, an event and a command. -/
def tStep (w : Nat) (p : Bool) : State := let s := State.reset.withFetchWord 64 w
  if p then { s with mem := s.mem.setPoison 4 true } else s
theorem witness_step : ∀ x ∈ [(0x0007000000000D01, false), (0x3, false), (0x0007000000000D01, true)], ∃ t u v w, (tStep x.1 x.2).nextTurn = (⟨0, .issue 0 none⟩, t) ∧
    t.powered = true ∧ (t.clock 0).mayIssue 0 = true ∧ ((t.clock 0).startSlots 0).chooseSlot 0 = some (0, v) ∧ u = v.turnTo 0 0 none ∧
    u.boundary = none ∧ u.pcBp = none ∧ ∃ ws, u.fetch = (.ok (ws, x.2), w) := by
  intro x h
  simp only [List.mem_cons, List.not_mem_nil, or_false] at h
  rcases h with rfl | rfl | rfl
  all_goals exact ⟨_, _, _, _, rfl, by decide, by decide, rfl, rfl, by rfl, by rfl, _, rfl⟩
theorem witness_step_words : (decode (wordBytes [0x0D01, 0x70000])) = .ok (.trap { tF with b := 0, a := 0, d := 0, imm := 7 }) 8 ∧
    decode (wordBytes [3]) = .reject .lengthCode 4 := by decide
def tEvent : State := { tS with agenda := [⟨0, .event .junctionTrip {}⟩] }
theorem witness_event : ∃ t, tEvent.nextTurn = (⟨0, .event .junctionTrip {}⟩, t) ∧ t.powered = true ∧ Instr.junctionTrip.isEvent = true :=
  ⟨_, rfl, by decide, by decide⟩
/-- The placed word, once its page is in the TLB. -/
def tFetched : State := let s := State.reset.withFetchWord 64 0x0007000000000D01
  ({ s with cur := .slot 0 }.translate { s with cur := .slot 0 }.via 0x100 .fetch).2
theorem witness_fetch : ∃ pg, PlainCode tFetched tFetched.sl.pcc.cursor 0x100 2 pg := by
  refine ⟨⟨0, .rc, true, true⟩, fun j hj => ?_⟩
  have h : j = 0 ∨ j = 1 := by omega
  rcases h with rfl | rfl
  all_goals exact ⟨by decide, by rfl, by decide, by rfl, by decide, by decide, by decide⟩
theorem witness_fetch_allowed : Allowed tFetched.sl.pcc tFetched.sl.pcc.cursor (4 * 2) 4 := by decide

/-! ## Vectors: g5, g6 and g7 name streams in the own scratchpad -/

/-- A shape record of one row of `n` elements of type `t`. -/
def tShape (t n : Nat) : BitVec 256 := BitVec.ofNat 256 (t + 2 ^ 16 + n * 2 ^ 32 + elemBytes t * 2 ^ 96)
/-- As `tShape`, of `h` rows without a gap. -/
def tRows (t n h : Nat) : BitVec 256 := BitVec.ofNat 256 (t + 2 * 2 ^ 16 + n * 2 ^ 32 + h * 2 ^ 48 + elemBytes t * 2 ^ 96 + n * elemBytes t * 2 ^ 128)
/-- Shape records s1, s2 and s3 for the three streams. -/
def tV (a b d : BitVec 256) : State := tS.modSl fun sl => { ((((sl.setReg 5 (tCap 0x7F 0 0x4000)).setReg 6 (tCap 0x7F 0x100 0x4000)).setReg 7
    (tCap 0x7F 0x200 0x4000)).setReg 8 (tCap 0x7F 0x300 0x4000)) with
    shapes := ((sl.shapes.set 1 a).set 2 b).set 3 d }
/-- The form that names them; the type of the elements. -/
def tVF (t : Nat) : MForm := { tF with typ := BitVec.ofNat 8 t, imm := 0x3120 }

/-- A slot that no entry of the map names is as after reset. -/
theorem tSlot_absent {s : State} {k : Nat} (h : ∀ p ∈ s.slots, p.1 ≠ k) : s.slotAt k = Slot.reset := by
  have g : ∀ m : SMap Slot, (∀ p ∈ m, p.1 ≠ k) → look m k = none := by
    intro m
    induction m with
    | nil => intro _; rfl
    | cons q r ih =>
      intro h
      simp only [look, if_neg (h q (List.mem_cons_self ..))]
      split
      · rfl
      · exact ih fun p m => h p (List.mem_cons_of_mem _ m)
  simp [State.slotAt, g _ h]

/-- What VectorReady asks for besides `Runs` and the checks of the shapes. -/
abbrev tFresh (s : State) : Prop :=
  (s.spad.wf = true ∧ s.sl.sbuf = [] ∧ s.sl.vecDone = 0 ∧ s.sl.vecFlags = 0 ∧ s.sl.vecAcc = [] ∧ s.groups = none) ∧
  ((s.coreBank s.myCoreKey).spad ≤ 0x18000 ∧ (s.coreBank s.myCoreKey).launch ≠ none ∧ (s.core s.myCore).stopped = false ∧ (s.core s.myCore).twin = none) ∧
  ∀ p ∈ s.slots, p.1 = s.me
theorem tV_ready {s : State} {op : Nat} {f : MForm} (h : Runs op f s ∧ vecIll op f s = false ∧ vecTyp op f s = false) (g : tFresh s) :
    VectorReady s op f := by
  refine ⟨h.1, h.2, g.1, g.2.1, fun k n _ => ?_⟩
  rw [tSlot_absent fun p m e => n (e.symm.trans (g.2.2 p m))]
  rfl

abbrev tVfp : State := tV (tShape 0x10 4) (tShape 0x10 4) (tShape 0x10 4)
abbrev tVint : State := tV (tShape 3 4) (tShape 3 4) (tShape 3 4)

/-- VectorElements: the floating instructions over FP32 streams, the integer ones over streams of 32-bit integers. -/
theorem witness_vector_fp : ∀ op ∈ [0x240, 0x241, 0x242, 0x243, 0x244, 0x245, 0x246, 0x247, 0x248, 0x249, 0x24A, 0x280, 0x281, 0x282, 0x283, 0x284, 0x285,
    0x286, 0x287, 0x288, 0x289, 0x28A, 0x28F, 0x290, 0x291], VectorReady tVfp op (tVF 0x10) := by
  have h : ∀ op ∈ [0x240, 0x241, 0x242, 0x243, 0x244, 0x245, 0x246, 0x247, 0x248, 0x249, 0x24A, 0x280, 0x281, 0x282, 0x283, 0x284, 0x285,
    0x286, 0x287, 0x288, 0x289, 0x28A, 0x28F, 0x290, 0x291], Runs op (tVF 0x10) tVfp ∧ vecIll op (tVF 0x10) tVfp = false ∧
    vecTyp op (tVF 0x10) tVfp = false := by decide
  exact fun op m => tV_ready (h op m) (by decide)
theorem witness_vector_int : ∀ op ∈ [0x24E, 0x24F, 0x250, 0x251, 0x252, 0x28C], VectorReady tVint op (tVF 3) := by
  have h : ∀ op ∈ [0x24E, 0x24F, 0x250, 0x251, 0x252, 0x28C], Runs op (tVF 3) tVint ∧ vecIll op (tVF 3) tVint = false ∧
    vecTyp op (tVF 3) tVint = false := by decide
  exact fun op m => tV_ready (h op m) (by decide)
/-- VCLAMP with its bounds in g8 and g9, VSEL with its mask at g8, VCMP with a destination of bytes. -/
theorem witness_vector_forms : VectorReady tVfp 0x24B { tVF 0x10 with b := 8 } ∧ VectorReady tVfp 0x24C { tVF 0x10 with ext := 8 } ∧
    VectorReady (tV (tShape 0x10 4) (tShape 0x10 4) (tShape 2 4)) 0x24D (tVF 0x10) :=
  ⟨tV_ready (by decide) (by decide), tV_ready (by decide) (by decide), tV_ready (by decide) (by decide)⟩
/-- VectorReductionsTablesAndShapes: one row to reduce, one index. -/
theorem witness_vector_tables : VectorReady (tV (tShape 0x10 4) (tShape 0x10 4) (tShape 0x10 1)) 0x28B (tVF 0x10) ∧
    VectorReady (tV (tRows 0x10 4 2) (tShape 4 2) (tRows 0x10 4 2)) 0x28D (tVF 0x10) ∧ VectorReady (tV (tRows 0x10 4 2) (tShape 4 2) (tRows 0x10 4 2)) 0x28E (tVF 0x10) :=
  ⟨tV_ready (by decide) (by decide), tV_ready (by decide) (by decide), tV_ready (by decide) (by decide)⟩
/-- The streams stand apart in the own scratchpad, or the destination is a source. -/
theorem tElementary {s : State} {op : Nat} {f : MForm} {two old : Bool} (r : VectorReady s op f)
    (a : StreamHere s (s.operands op f).a (vecA s f) 64 ∧ ApartOrSame (s.operands op f).a (vecA s f) (s.operands op f).d (vecD s f))
    (b : (two && !vecSB f) = true → StreamHere s (s.operands op f).b (vecB s f) 64 ∧ ApartOrSame (s.operands op f).b (vecB s f) (s.operands op f).d (vecD s f))
    (d : TargetHere s (s.operands op f).d (vecD s f) (if old then 96 else 32)) : Elementary s op f two old (s.operands op f) :=
  ⟨r, rfl, a, b, d⟩
theorem witness_streams : Elementary tVfp 0x240 (tVF 0x10) true false (tVfp.operands 0x240 (tVF 0x10)) ∧
    Elementary tVfp 0x243 (tVF 0x10) true true (tVfp.operands 0x243 (tVF 0x10)) ∧ isBlock (vecD tVfp (tVF 0x10)).typ = false := by
  refine ⟨tElementary (tV_ready (by decide) (by decide)) ⟨?_, ?_⟩ (fun _ => ⟨?_, ?_⟩) ?_,
    tElementary (tV_ready (by decide) (by decide)) ⟨?_, ?_⟩ (fun _ => ⟨?_, ?_⟩) ?_, by decide⟩
  all_goals repeat' (first | decide | constructor)
/-- A destination that is the first source, and a scalar b under SR, whose generators step. -/
theorem witness_streams_same : let f := { tVF 0x10 with a := 7, imm := 0x3130, ext := 13 }
    Elementary tVfp 0x240 { f with imm := 0x3321 } true false (tVfp.operands 0x240 { f with imm := 0x3321 }) ∧ tVfp.roundMode f.ext = 5 := by
  refine ⟨tElementary (tV_ready (by decide) (by decide)) ⟨?_, ?_⟩ (fun h => absurd h (by decide)) ?_, by decide⟩
  all_goals repeat' (first | decide | constructor)
/-- A shape record of one row of `n` elements in blocks of type `t`, whose scale bytes stand 128 bytes on. -/
def tBlk (t n : Nat) : BitVec 256 := BitVec.ofNat 256 (t + 2 ^ 16 + n * 2 ^ 32 + 128 * 2 ^ 224)
abbrev tVblk (t : Nat) : State := tV (tBlk t 64) (tBlk t 64) (tBlk t 64)
def tBlocks : List Nat := [0x20, 0x21, 0x22, 0x23, 0x24, 0x25, 0x26]
theorem witness_blocks : ∀ t ∈ tBlocks, Elementary (tVblk t) 0x240 (tVF t) true false ((tVblk t).operands 0x240 (tVF t)) ∧
    isBlock (vecD (tVblk t) (tVF t)).typ = true := by
  intro t h
  simp only [tBlocks, List.mem_cons, List.not_mem_nil, or_false] at h
  rcases h with rfl | rfl | rfl | rfl | rfl | rfl | rfl
  all_goals refine ⟨tElementary (tV_ready (by decide) (by decide)) ⟨?_, ?_⟩ (fun _ => ⟨?_, ?_⟩) ?_, by decide⟩
  all_goals repeat' (first | decide | constructor)
/-- VQUANT into each block type, alone and with its residual at b. -/
abbrev tVquant (t : Nat) : State := tV (tShape 0x10 64) (tShape 0x10 64) (tBlk t 64)
theorem witness_vquant : ∀ t ∈ tBlocks, ∀ x ∈ [0, 2], let f := { tVF t with imm := 0x3120 + x }
    Elementary (tVquant t) 0x28A f false false ((tVquant t).operands 0x28A f) ∧ vecX f = decide (x = 2) := by
  intro t h x k
  simp only [tBlocks, List.mem_cons, List.not_mem_nil, or_false] at h k
  rcases h with rfl | rfl | rfl | rfl | rfl | rfl | rfl
  all_goals rcases k with rfl | rfl
  all_goals refine ⟨tElementary (tV_ready (by decide) (by decide)) ⟨?_, ?_⟩ (fun h => absurd h (by decide)) ?_, by decide⟩
  all_goals repeat' (first | decide | constructor)
theorem witness_residual : let f := { tVF 0x24 with imm := 0x3122 }; let s := tVquant 0x24; let x := s.operands 0x28A f
    StreamHere s x.b (vecB s f) 32 ∧ Apart x.a (vecA s f) x.b (vecB s f) ∧ Apart x.d (vecD s f) x.b (vecB s f) := by
  refine ⟨?_, ?_, ?_⟩
  all_goals repeat' (first | decide | constructor)
/-- The mask of VSEL, with a scalar in the place of b. -/
theorem witness_vsel : let f := { tVF 0x10 with ext := 8, imm := 0x3121 }
    Elementary tVfp 0x24C f true false (tVfp.operands 0x24C f) ∧ StreamHere tVfp (tVfp.reg f.ext) (denseBytes (vecD tVfp f).count) 64 ∧
    Apart (tVfp.reg f.ext) (denseBytes (vecD tVfp f).count) (tVfp.operands 0x24C f).d (vecD tVfp f) ∧ vecSB f = true := by
  refine ⟨tElementary (tV_ready (by decide) (by decide)) ⟨?_, ?_⟩ (fun h => absurd h (by decide)) ?_, ?_, ?_, by decide⟩
  all_goals repeat' (first | decide | constructor)
/-- The elements of a block: none, all zero, and one that gives the scale. -/
theorem witness_block_values : isBlock 0x24 = true ∧ exactly (of32 0) = some 0 ∧ (of32 0x7F800000).isInf = true ∧
    ∃ m, exactly (of32 0x40400000) = some m ∧ (2 : Rat) ^ (1 : Int) ≤ distance m 0 ∧ distance m 0 < (2 : Rat) ^ ((1 : Int) + 1) :=
by
  have e : of32 0x40400000 = .fin false 0xC00000 (-22) false := by decide
  have z : of32 0 = .fin false 0 (-149) false := by decide
  refine ⟨by decide, ?_, by decide, 3, ?_, ?_, ?_⟩
  · rw [z]; decide +kernel
  · rw [e]; decide +kernel
  · decide +kernel
  · decide +kernel
/-- The operands of a reduction, a scan, a gather, a scatter and a random fill, under SR. -/
def tSr (t : Nat) : MForm := { tVF t with ext := 13 }
abbrev tReduce (t : Nat) (d : BitVec 256) : State := tV (tRows t 4 2) (tShape 4 2) d
theorem witness_reduction : let s := tReduce 0x11 (tShape 0x11 2); let f := tSr 0x11; let x := s.operands 0x28B f
    VectorReady s 0x28B f ∧ StreamHere s x.a (vecA s f) 64 ∧ TargetHere s x.d (vecD s f) 32 ∧ Apart x.a (vecA s f) x.d (vecD s f) ∧ s.roundMode f.ext = 5 := by
  refine ⟨tV_ready (by decide) (by decide), ?_, ?_, ?_, by decide⟩
  all_goals repeat' (first | decide | constructor)
theorem witness_scan : ∀ d ∈ [0x10, 0x11], let s := tReduce 0x11 (tRows d 4 2); let f := tSr 0x11; let x := s.operands 0x28C f
    VectorReady s 0x28C f ∧ StreamHere s x.a (vecA s f) 64 ∧ TargetHere s x.d (vecD s f) 32 ∧ Apart x.a (vecA s f) x.d (vecD s f) ∧ isInt f.typ.toNat = false := by
  intro d h
  simp only [List.mem_cons, List.not_mem_nil, or_false] at h
  rcases h with rfl | rfl
  all_goals refine ⟨tV_ready (by decide) (by decide), ?_, ?_, ?_, by decide⟩
  all_goals repeat' (first | decide | constructor)
theorem witness_gather : ∀ op ∈ [0x28D, 0x28E], let s := tReduce 0x10 (tRows 0x10 4 2); let f := tVF 0x10; let x := s.operands op f
    VectorReady s op f ∧ StreamHere s x.a (vecA s f) 64 ∧ StreamHere s x.b (vecB s f) 64 ∧ TargetHere s x.d (vecD s f) 32 ∧
    Apart x.a (vecA s f) x.d (vecD s f) ∧ Apart x.b (vecB s f) x.d (vecD s f) := by
  intro op h
  simp only [List.mem_cons, List.not_mem_nil, or_false] at h
  rcases h with rfl | rfl
  all_goals refine ⟨tV_ready (by decide) (by decide), ?_, ?_, ?_, ?_, ?_⟩
  all_goals repeat' (first | decide | constructor)
theorem witness_fills : TargetHere tVfp (tVfp.operands 0x290 (tSr 0x10)).d (vecD tVfp (tSr 0x10)) 32 ∧
    TargetHere tVfp (tVfp.operands 0x291 (tVF 0x10)).d (vecD tVfp (tVF 0x10)) 32 := by
  refine ⟨?_, ?_⟩
  all_goals repeat' (first | decide | constructor)
/-- Shapes, and an empty vector. -/
theorem witness_shapes : (∀ op ∈ [0x292, 0x293], Runs op tL tS) ∧ Reaches tS (tS.operands 0x292 tL).a ((tS.operands 0x292 tL).a.cursor + tL.imm.toInt) 32 64 ∧
    MayPost tS (tS.operands 0x293 tL).a ((tS.operands 0x293 tL).a.cursor + tL.imm.toInt) 32 32 false ∧
    (∀ t ∈ [(0 : BitVec 8), 14, 15], Runs 0x294 { tF with typ := t } tS) := ⟨by decide, by decide, by decide, by decide⟩
theorem witness_empty_vector : let s := tV (tShape 0x10 0) (tShape 0x10 0) (tShape 0x10 0)
    (Instr.vadd (tVF 0x10)).form = some (0x240, tVF 0x10) ∧ isVector 0x240 = true ∧ vecIll 0x240 (tVF 0x10) s = false ∧ vecTyp 0x240 (tVF 0x10) s = false ∧
    s.regBad 0x240 (tVF 0x10) = false ∧ s.guard (tVF 0x10) = true ∧ (vecD s (tVF 0x10)).count = 0 :=
  ⟨by rfl, by decide, by decide, by decide, by decide, by decide, by decide⟩
/-- VectorInstructionsComplete. -/
theorem witness_vector_complete : (vecD tVfp (tVF 0x10)).count ≠ 0 ∧ streamCheck (vecAll tVfp 0x243 (tVF 0x10) (tVfp.operands 0x243 (tVF 0x10))) = none ∧
    ∀ st ∈ vecAll tVfp 0x243 (tVF 0x10) (tVfp.operands 0x243 (tVF 0x10)), ∀ r ∈ st.ranges, 0xFF0000000000 ≤ r.1 ∧
      r.1 + r.2 ≤ 0xFF0000000000 + (tVfp.coreBank tVfp.myCoreKey).spad ∧ tVfp.dataBp r.1.toNat r.2 = none ∧
      tVfp.spadPoisoned (tVfp.ownByte r.1.toNat) r.2 = false := ⟨by decide, by decide, by decide⟩


/-- DomainsTicketsAndQueues: kinds 1 to 5, member counts 1 and 73728, and values that are none. -/
def tNew (kind members : Nat) : State := tR 5 (.ofWord (BitVec.ofNat 64 (kind + members * 2 ^ 16)))
theorem witness_domset_new : ∀ x ∈ [(1, 1), (2, 5), (3, 1), (4, 2), (5, 73728)], Runs 0x208 tF (tNew x.1 x.2) ∧
    ((tNew x.1 x.2).core (tNew x.1 x.2).myCore).twin = none ∧ ((tNew x.1 x.2).operands 0x208 tF).a.dv.toNat % 8 = x.1 ∧
    ((tNew x.1 x.2).operands 0x208 tF).a.dv.toNat / 2 ^ 16 % 2 ^ 32 = x.2 ∧
    look ((tNew x.1 x.2).cellMap x.1 (if x.1 = 3 then (tNew x.1 x.2).myDie else if x.1 = 4 then 0 else (tNew x.1 x.2).myCluster)) 15 = none := by
  decide
theorem witness_domset_none : ∀ x ∈ [(0, 1), (6, 1), (7, 1), (1, 0), (1, 73729)], Runs 0x208 tF (tNew x.1 x.2) ∧
    (((tNew x.1 x.2).operands 0x208 tF).a.dv.toNat % 8 = 0 ∨ 5 < ((tNew x.1 x.2).operands 0x208 tF).a.dv.toNat % 8 ∨
      ((tNew x.1 x.2).operands 0x208 tF).a.dv.toNat / 2 ^ 16 % 2 ^ 32 = 0 ∨ 73728 < ((tNew x.1 x.2).operands 0x208 tF).a.dv.toNat / 2 ^ 16 % 2 ^ 32) := by
  decide
/-- A die domain of two members whose phase is `ph`; the slot is in it, and g5 holds its handle. -/
def tCellH : BitVec 16 := mkHandle 3 0 1
def tCell (inside : Bool) (a : Word) : State := ((tR 5 (.ofWord a)).setCell tCellH ⟨3, 2, 0, 4, 0, 0, (0, 0)⟩).modSl fun sl =>
  if inside then { sl with domains := sl.domains.set 0 tCellH } else sl
theorem witness_enter : ∀ f ∈ [tF, { tF with ext := 3 }], Runs 0x208 f (tCell false (tCellH.setWidth 64)) ∧
    (tCell false (tCellH.setWidth 64)).mayEnter (f.ext.toNat % 4) ((((tCell false (tCellH.setWidth 64)).operands 0x208 f).a.dv).setWidth 16) = true ∧
    ((tCell false 0).cellOf ((((tCell false 0).operands 0x208 f).a.dv).setWidth 16) = none) ∧ domOf (tCell false 0) f.ext = 0 := by decide
theorem witness_in_domain : ∀ op ∈ [0x206, 0x207, 0x208], Runs op tF (tCell true 3) ∧ domOf (tCell true 3) tF.ext = tCellH ∧ tCellH ≠ 0 ∧ hKind tCellH ≠ 0 ∧
    (tCell true 3).cellOf tCellH = some ⟨3, 2, 0, 4, 0, 0, (0, 0)⟩ ∧ Unheld (tCell true 3) (cellDie tCellH) ∧
    Passed ⟨3, 2, 0, 4, 0, 0, (0, 0)⟩ (low32 ((tCell true 3).operands 0x207 tF).a) ∧
    ¬Passed ⟨3, 2, 0, 4, 0, 0, (0, 0)⟩ (low32 ((tCell true 4).operands 0x207 tF).a) ∧ (tCell true 3).sl.sbuf = [] ∧ parkIll tF (tCell true 3) = false := by decide
theorem witness_may_park : MayPark (tCell true 4) { tF with ext := 4 } (.domain tCellH 4) ∧ (tCell true 4).sl.pops 0x207 { tF with ext := 4 } = [] ∧
    (tCell true 4).sl.issued = false ∧ Runs 0x207 { tF with ext := 4 } (tCell true 4) := by
  exact ⟨⟨by decide, by decide, by decide, by decide, by decide, by decide, by decide, by decide⟩, by decide, by decide, by decide⟩
/-- Tickets: the pair 5 of cluster 0, with its ticket 7 served or not. -/
def tTick (h a : Word) (sv : BitVec 32) : State := ((tR 5 (.ofWord h)).setReg 6 (.ofWord a)).modCluster 0 fun c => { c with tickets := [(5, (9, sv))] }
theorem witness_tickets : (∀ op ∈ [0x209, 0x20A, 0x20B], Runs op tF (tTick 5 7 7)) ∧ IsTicket (tTick 5 7 7) ((tTick 5 7 7).operands 0x209 tF).a.dv ∧
    ((tTick 5 7 7).operands 0x209 tF).a.dv.toNat / 64 / 48 = (tTick 5 7 7).myDie ∧ Unheld (tTick 5 7 7) 0 ∧
    ¬IsTicket (tTick 0x8000 7 6) 0x8000 ∧ ¬IsTicket (tTick 64 7 6) 64 ∧ (tTick 5 7 7).sl.sbuf = [] ∧ parkIll tF (tTick 5 7 7) = false := by
  refine ⟨by decide, by decide, by decide, by decide, by decide, by decide, by decide, by decide⟩
theorem witness_served : Served (tTick 5 7 7) 5 7 ∧ ¬Served (tTick 5 7 6) 5 7 ∧ (tTick 5 7 6).operands 0x20A tF = ⟨.ofWord 5, .ofWord 7, Cap.zero⟩ := by
  refine ⟨by decide, by decide, by decide⟩
theorem witness_hints : Runs 0x20C tF tS ∧ Runs 0x20C { tF with ext := 1 } tS ∧ Runs 0x202 tF tS ∧ Runs 0x202 (.plain 0 0 0 0) tS := by
  repeat' apply And.intro
  all_goals decide

/-- StrandsStartSuspendAndEnd: tS with a launch of 144 cores. -/
def tX : State := tS.modPart 0 fun p => { p with entries := put p.entries 0 { placedEntryOf with
  hdr := some tHeader, packet := { Record.zero with g2 := ⟨BitVec.ofNat 128 (144 * 2 ^ 16 + 3 * 2 ^ 32), false⟩ } } }
def tStrand (r : Routine) (hm : Bool) : State := tS.modSl fun sl => { sl with routine := r, hm := hm, stage := 1 }
theorem witness_spawn : ∀ f ∈ [tF, { tF with imm := 1 }, { tF with ext := 1, d := 0 }], Runs 0x200 f tX ∧ f.imm.toNat % 16 < tX.myHeader.stages.length ∧
    (f.ext = 1 → tX.clusterInRange tX.myLaunch (tX.operands 0x200 f).d.dv.toNat = true) ∧ (tX.stageQueue 0 (f.imm.toNat % 16)).length < tX.myHeader.bound (f.imm.toNat % 16) ∧
    Unheld tX tX.myDie ∧ (if f.ext = 1 then (tX.operands 0x200 f).d.dv.toNat else tX.myCluster) / 48 = tX.myDie := by decide
theorem witness_end : Runs 0x201 tF tS ∧ Runs 0x201 (.plain 0 0 0 0) tS ∧ tS.sl.hm = false ∧ tS.sl.routine = .none ∧ Runs 0x201 tF (tStrand .none true) ∧
    (tStrand .none true).sl.hm = true ∧ (tStrand .none true).sl.stfRecs = [] := by
  repeat' apply And.intro
  all_goals decide
theorem witness_end_saved : let s := tStrand (.save 0 (.stage 0)) false
    Runs 0x201 tF s ∧ s.sl.hm = false ∧ Allowed (s.reg 2) (s.reg 2).cursor 256 32 ∧ 0xFF0000000000 ≤ (s.reg 2).cursor ∧
    (s.reg 2).cursor + 256 ≤ 0xFF0000000000 + (s.coreBank s.myCoreKey).spad ∧ (s.coreBank s.myCoreKey).spad ≤ 0x18000 ∧
    (s.coreBank s.myCoreKey).launch ≠ none ∧ (s.core s.myCore).stopped = false ∧ Unheld s s.myDie ∧ 0 < s.myHeader.points.length ∧
    s.sl.stage < s.myHeader.stages.length ∧ (s.stageQueue 0 s.sl.stage).length < s.myHeader.bound s.sl.stage ∧ s.sl.sent = none ∧ s.spad.wf = true ∧
    s.sl.routine = .save 0 (.stage 0) ∧ s.sl.stage < 16 ∧ s.sl.wrote = 0 ∧ s.sl.flushed = false := by
  refine ⟨by decide, by decide, by decide, by decide, by decide, by decide, by decide, by decide, by decide, by decide, by decide, by decide, by decide, by decide,
    by decide, by decide, by decide, by decide⟩
theorem witness_suspend : ∀ f ∈ [tF, { tF with imm := 0x1000 }, { tF with ext := 1, a := 0 }], ∀ op ∈ [0x203, 0x204], Runs op f tX ∧ tX.sl.hm = false ∧
    tX.sl.routine = .none ∧ f.imm.toNat % 4096 < tX.myHeader.points.length ∧ f.imm.toNat / 4096 < tX.myHeader.stages.length ∧ tX.sl.issued = false ∧
    tX.sl.pops op f = [] ∧ (f.ext = 1 → tX.clusterInRange tX.myLaunch (tX.operands op f).a.dv.toNat = true) ∧ tX.guard f = true := by decide
theorem witness_fork : let s := tStrand (.save 0 (.fork 5 2 false tS.sl.pcc)) false
    Runs 0x201 tF s ∧ Allowed (s.reg 2) (s.reg 2).cursor 264 32 ∧ 0xFF0000000000 ≤ (s.reg 2).cursor ∧
    (s.reg 2).cursor + 264 ≤ 0xFF0000000000 + (s.coreBank s.myCoreKey).spad ∧ (s.core s.myCore).twin = none ∧ s.sl.sent = none ∧
    look (s.cluster s.myCluster).joins 31 = none ∧ s.sl.hm = false ∧ s.sl.routine = .save 0 (.fork 5 2 false tS.sl.pcc) ∧ s.sl.wrote = 0 ∧ s.sl.flushed = false ∧
    (s.coreBank s.myCoreKey).spad ≤ 0x18000 ∧ (s.coreBank s.myCoreKey).launch ≠ none ∧ (s.core s.myCore).stopped = false := by
  refine ⟨by decide, by decide, by decide, by decide, by decide, by decide, by decide, by decide, by decide, by decide, by decide, by decide, by decide, by decide⟩
def tJoin (n : Nat) : State := (tR 5 (.ofWord 3)).modCluster 0 fun c => { c with
  joins := [(3, ⟨n, false, mkRecord placedCap Cap.zero 5 6 1 0xFFFF 3 (Vector.replicate 4 0) 0, (0, 0)⟩)] }
theorem witness_join : ∀ n ∈ [1, 2], Runs 0x205 tF (tJoin n) ∧ ((tJoin n).core (tJoin n).myCore).twin = none ∧
    ((tJoin n).operands 0x205 tF).a.dv.toNat = 3 ∧ (tJoin n).ownsCluster (tJoin n).myPart 0 = true ∧
    (look ((tJoin n).cluster 0).joins 3).map (fun j => (j.count, recSafept j.cont, j.launch.1)) = some (n, 0xFFFF, (tJoin n).myPart) ∧
    risingFrom 0 ((tJoin n).cluster 0).joins = true := by decide

/-- CommandsAreAccepted: the record with opcode `op` in g12 to g15. -/
def tRec (op : Nat) : Record := ⟨⟨BitVec.ofNat 128 (op + 256 + 3 * 65536), false⟩, Cap.zero, Cap.zero, Cap.zero⟩
def tCmd (op : Nat) : State := tS.modSl fun sl => sl.setReg 12 (tRec op).g0
def tC : MForm := { tF with b := 12, a := 0 }
theorem witness_sendcmd : ∀ op ∈ [0x20, 0x23, 0x24, 0x30, 0x36], Runs 0x2C0 tC (tCmd op) ∧ (tCmd op).group tC.b = tRec op ∧
    ((tCmd op).core (tCmd op).myCore).twin = none ∧ (tCmd op).sl.joined = none ∧ (tRec op).g0.val.getLsbD 9 = false ∧
    (engineInput (tCmd op) (rOpcode (tRec op))).map (fun x => decide (((tCmd op).jobs x.1).length < x.2)) = some true := by decide
theorem witness_sendcmd_other : ∀ op ∈ [0x00, 0x1F, 0x25, 0x2F, 0x37, 0x40, 0xFF], Runs 0x2C0 tC (tCmd op) ∧ engineInput (tCmd op) (rOpcode (tRec op)) = none ∧
    Runs 0x306 tC (tCmd op) ∧ (0x40 ≤ rOpcode (tRec op) ∧ rOpcode (tRec op) ≤ 0x45 ∨ rOpcode (tRec op) < 0x40 ∨ 0x45 < rOpcode (tRec op)) ∧
    ((tCmd op).die (tCmd op).myDie).coll.length < 256 := by decide
def tQueue : State := (tCmd 0x20).modCluster 0 fun c => { c with copyQ := List.replicate 64 (tJob (tRec 0x20)) }
theorem witness_sendcmd_full : Runs 0x2C0 tC tQueue ∧ 64 ≤ (tQueue.jobs (.copy 0 0)).length ∧ engineInput tQueue 0x20 = some (.copy 0 0, 64) := by decide
theorem witness_sendcmd_joined : let s := (tCmd 0x20).modSl fun sl => { sl with joined := some (some 7) }
    Runs 0x2C0 tC s ∧ s.sl.joined = some (some 7) := by decide

/-- TimelinesAndTileControls: the last timeline of the set. -/
def tTl (count issued : Nat) : State := ((tR 5 (mkCap true 0x7F 0 0x2000 0xFF0200010000 0xFF0200010000)).modPart 0 fun p => { p with
  tl := [(1023, { count := BitVec.ofNat 63 count, issued := BitVec.ofNat 63 issued, scope := 2, finished := [⟨6, true, none⟩] })] })
def tG1 : MForm := { tF with imm := 0x1FF8 }
theorem witness_timelines : (∀ op ∈ [0x2C1, 0x2C2, 0x2C3, 0x2C4], Runs op tG1 (tTl 5 5)) ∧
    NamesTimeline ((tTl 5 5).operands 0x2C1 tG1).a (((tTl 5 5).operands 0x2C1 tG1).a.cursor + tG1.imm.toInt) 64 1023 ∧
    NamesTimeline ((tTl 5 5).operands 0x2C3 tG1).a (((tTl 5 5).operands 0x2C3 tG1).a.cursor + tG1.imm.toInt) 32 1023 ∧
    ((tTl 5 5).core (tTl 5 5).myCore).twin = none ∧ (tTl 5 5).sl.sbuf = [] ∧ Runs 0x2C2 { tG1 with ext := 1 } (tTl 5 5) ∧
    ((tTl 5 5).operands 0x2C1 tG1).b.dv.toNat % 2 ^ 63 = 5 ∧ ((tTl 5 5).myTimeline 1023).count = 5 ∧
    ((tTl 4 5).myTimeline 1023).count = 4 ∧ ((tTl 5 5).myTimeline 1023).count = ((tTl 5 5).myTimeline 1023).issued ∧ (tTl 5 5).soAhead (tTl 5 5).me = false := by
  refine ⟨by decide, by decide, by decide, by decide, by decide, by decide, by decide, by decide, by decide, by decide, by decide⟩
theorem witness_advance : ∀ h ∈ [none, some 0], let s := { (tTl 5 6).modTimeline 0 1023 fun t => { t with finished := [⟨6, true, h⟩] } with arg := { a := 0, b := 1023 } }
    ((s.part s.arg.a).timeline s.arg.b).finished.find? (fun x => x.pos = (((s.part s.arg.a).timeline s.arg.b).count + 1).toNat && s.mayAdvance s.arg.a x) =
      some ⟨6, true, h⟩ := by decide
def tTileState (w : Nat) : State := tR 6 (.ofWord (BitVec.ofNat 64 w))
theorem witness_mtcw : ∀ w ∈ [0x00010111, 0x00010101, 0xFFFFFFFF], Runs 0x2C5 tF (tTileState w) ∧
    (low32 ((tTileState w).operands 0x2C5 tF).b).toNat = w ∧ (tTileState w).canRead 0x2C5 tF = true ∧ ((tTileState w).core (tTileState w).myCore).twin = none ∧
    ((tTileState w).coreBank (tTileState w).myCoreKey).mq.length < 16 := by decide
theorem witness_mtcw_alone : let s := tTileState 0x00010111; ∀ i, i < 4 → (s.slotAt (bankKey (4 * s.myCore + i) (s.me % 2))).mqTurn = none := by decide
theorem witness_mtcr : Runs 0x2C6 tF tS ∧ (tS.coreBank tS.myCoreKey).mq = [] := ⟨by decide, by decide⟩
theorem witness_tile_words : TileControl 0x00010111 ∧ tileIll 0xFFFFFFFF = true ∧ tileIll 0x00010101 = false ∧ tileBits (tileType 0x00010101) = 0 := by
  refine ⟨⟨by decide, by decide⟩, by decide, by decide, by decide⟩

/-- RemoteOperations: the own scratchpad, and a word of another die whose owner has replied. -/
def tRem (len : Nat) : State := (tR 5 (tCap 0x7F 0 len)).modCluster 0 fun c => { c with ctx0 := some 0 }
theorem witness_remote : ∀ f ∈ [{ tF with d := 9 }, { tF with d := 9, typ := 3, imm := 0xB }],
    (∀ op ∈ [0x300, 0x301, 0x302, 0x303], Runs op f (tRem 8)) ∧ ((tRem 8).operands 0x302 f).a.cursor % atomicWidth f = 0 := by decide
theorem witness_rld : RemoteHere (tRem 8) ((tRem 8).operands 0x300 tF).a 8 64 ∧ widthOf 3 = 8 ∧ Runs 0x300 { tF with ext := 3, d := 9 } (tRem 8) := by
  refine ⟨by decide, by decide, by decide⟩
theorem witness_remote_atomic : ∀ w ∈ [4, 8], RemoteHere (tRem 8) ((tRem 8).operands 0x302 { tF with d := 9 }).a w 96 := by
  intro w h
  simp only [List.mem_cons, List.not_mem_nil, or_false] at h
  rcases h with rfl | rfl
  all_goals refine ⟨⟨by decide, by decide, by decide⟩, by decide⟩
theorem witness_rst : ∀ code ∈ [0, 1, 2, 3, 4, 5, 6], ∀ f ∈ [{ tF with ext := BitVec.ofNat 5 code }], Runs 0x301 f (tRem 16) ∧
    Allowed ((tRem 16).operands 0x301 f).a ((tRem 16).operands 0x301 f).a.cursor (if 5 ≤ code then 8 else 2 ^ code) (if 5 ≤ code then 33 else 32) ∧
    (tRem 16).dataBp ((tRem 16).operands 0x301 f).a.cursor (if 5 ≤ code then 8 else 2 ^ code) = none ∧
    (tRem 16).rtgtBad ((tRem 16).operands 0x301 f).a.cursor = false ∧ (tRem 16).sl.sbuf.length < 16 ∧
    regionOf ((tRem 16).operands 0x301 f).a.cursor = .localW := by decide
def tReplied (st : Nat) : State :=
  let s := (tRem 8).modCluster 50 fun c => { c with ctx0 := some 0 }
  s.modSl fun sl => { sl.setReg 5 (mkCap true 0x7F 0 0x100 (BitVec.ofNat 48 clusterBase) (BitVec.ofNat 48 clusterBase)) with
    rtgt := BitVec.ofNat 10 (512 + 50), sent := some 4, reply := some (st, 99) }
theorem witness_replied : ∀ st ∈ [0, 7], Runs 0x302 { tF with d := 9 } (tReplied st) ∧
    ((tReplied st).operands 0x302 { tF with d := 9 }).a = mkCap true 0x7F 0 0x100 (BitVec.ofNat 48 clusterBase) (BitVec.ofNat 48 clusterBase) := by decide
theorem witness_replied_scratchpad : ∀ st ∈ [0, 7], Replied (tReplied st) (mkCap true 0x7F 0 0x100 (BitVec.ofNat 48 clusterBase) (BitVec.ofNat 48 clusterBase))
    4 (50 * 48 * 0x18000) true st 99 := by
  intro st h
  simp only [List.mem_cons, List.not_mem_nil, or_false] at h
  rcases h with rfl | rfl
  all_goals exact ⟨by decide, by decide, by decide, by decide, by decide, by decide, by decide, by decide, by decide, by decide, by rfl, by decide, by decide⟩
/-- The same with a word of global memory whose home is another die, once its page is in the TLB. -/
def tFarCap : Cap := mkCap true 0x7F 0 0x8000 0x2040 0x2040
def tFarMap : State := { tR 5 tFarCap with mem := tS.mem.store 0 (leBytes 8 (0x3D7 + 2 ^ 37)) }
def tFarReply (st : Nat) : State := ((tFarMap.modSl fun sl => { sl with sent := some 4, reply := some (st, 99) }).translate tFarMap.via 0x2040 .amo).2
theorem witness_replied_memory : ∀ st ∈ [0, 7], Replied (tFarReply st) tFarCap 4 (2 ^ 37 + 0x2040) false st 99 := by
  intro st h
  simp only [List.mem_cons, List.not_mem_nil, or_false] at h
  rcases h with rfl | rfl
  all_goals exact ⟨by decide, by decide, by decide, by decide, by decide, by decide, by decide, by decide, by decide, by decide, by rfl, by decide, by decide⟩
def tOut : State := { tS with requesters := [(tS.myReq, { tS.requester tS.myReq with owners := [⟨1024, 0, none⟩] })] }
theorem witness_acks : Runs 0x304 tF tS ∧ (tS.requester tS.myReq).owners = [] ∧ Runs 0x304 tF tOut ∧ (tOut.requester tOut.myReq).owners ≠ [] ∧
    tOut.sl.acked = false ∧ Runs 0x305 tF tS := by
  refine ⟨by decide, by decide, by decide, by decide, by decide, by decide⟩
def tLaunch (a : Word) (full : Bool) : State := (tR 5 (.ofWord a)).modPart 0 fun p =>
  if full then { p with entries := (List.range 16).map fun i => (i, placedEntryOf) } else p
theorem witness_launch : ∀ full ∈ [true, false], Runs 0x307 { tF with b := 8 } (tLaunch 0 full) ∧ ((tLaunch 0 full).core (tLaunch 0 full).myCore).twin = none ∧
    (tLaunch 0 full).myDie = 0 ∧ ((tLaunch 0 full).operands 0x307 { tF with b := 8 }).a.dv.toNat = (tLaunch 0 full).fabId.toNat + 65536 * (tLaunch 0 full).myPart ∧
    ((tLaunch 0 full).part 0).freeEntry = if full then none else some 1 := by decide
theorem witness_launch_target : Runs 0x307 { tF with b := 8 } (tLaunch 0x400000 false) ∧ 2 ^ 22 ≤ ((tLaunch 0x400000 false).operands 0x307 { tF with b := 8 }).a.dv.toNat := by
  exact ⟨by decide, by decide⟩

/-- The head of a record with SIG: its opcode, timeline 3 and what stands above bit 32. -/
def tHead (op rest : Nat) : Cap := ⟨BitVec.ofNat 128 (op + 256 + 3 * 65536 + 2 ^ 32 * rest), false⟩
/-- The one command of an engine, with 64 bytes in the scratchpad. -/
def tEng (c : Cur) (r : Record) (bs : List Byte) : State :=
  let s := tS.modPart 0 fun p => { p with tl := [(3, { count := 5, issued := 6, scope := 3 })] }
  ({ s with cur := c, spad := s.spad.store 64 bs } : State).setJobs c [tJob r]
def tW (off len : Nat) : Cap := tCap 0x7F off len
/-- CopyCommands: eight bytes moved to those behind them, a footprint that falls short, a strided copy and two gathers. -/
def tCpy (short : Nat) : Record := ⟨tHead 0x20 0, tW 0 (8 - short), tW 8 8, ⟨8, false⟩⟩
theorem witness_cpy : ∀ r ∈ [tCpy 0], (tEng (.copy 0 0) r []).curJob r = some (tJob r) ∧ (tEng (.copy 0 0) r []).cur = .copy 0 0 ∧
    JobWindow (tEng (.copy 0 0) r []) (tJob r) ∧ Record.bits r.g3 0 64 = 8 ∧
    JobRange (tEng (.copy 0 0) r []) (tJob r) r.g1 64 r.g1.cursor 8 ∧ JobRange (tEng (.copy 0 0) r []) (tJob r) r.g2 32 r.g2.cursor 8 ∧
    r.g1.cursor + 8 ≤ r.g2.cursor := by decide
theorem witness_cpy_short : (tEng (.copy 0 0) (tCpy 1) []).curJob (tCpy 1) = some (tJob (tCpy 1)) ∧ ¬JobMay (tCpy 1).g1 64 (tCpy 1).g1.cursor 8 := ⟨by decide, by decide⟩
def tDims : List Dim := [⟨2, -4, 8⟩, ⟨3, 8, 16⟩]
def tCpyx : Record := ⟨tHead 0x21 0, { tW 0x100 64 with val := (tW 0x100 64).val + 4 }, tW 0x200 64, tW 64 56⟩
def tCpyxBytes : List Byte := leBytes 8 (2 + 2 * 256) ++ leBytes 8 2 ++ leBytes 8 (2 ^ 64 - 4) ++ leBytes 8 8 ++ leBytes 8 3 ++ leBytes 8 8 ++ leBytes 8 16
theorem witness_cpyx : let s := tEng (.copy 0 0) tCpyx tCpyxBytes; let j := tJob tCpyx
    s.curJob tCpyx = some j ∧ JobWindow s j ∧ JobRange s j tCpyx.g3 64 tCpyx.g3.cursor 56 ∧ leNat (s.jobBytes j tCpyx.g3.cursor 8) = 2 + 2 * 256 ∧
    (List.range 2).map (dimOf (s.jobBytes j (tCpyx.g3.cursor + 8) 48)) = tDims ∧ (∀ q ∈ tDims, 1 ≤ q.extent ∧ q.extent ≤ 2 ^ 32) := by
  refine ⟨by decide, by decide, by decide, by decide, by decide, by decide⟩
theorem witness_cpyx_feet : footOf tCpyx.g1.cursor 4 (tDims.map fun q => (q.extent, q.sstride)) = (((0xFF0000000100 : Nat) : Int), 24) ∧
    footOf tCpyx.g2.cursor 4 (tDims.map fun q => (q.extent, q.dstride)) = (((0xFF0000000200 : Nat) : Int), 44) ∧
    JobRange (tEng (.copy 0 0) tCpyx tCpyxBytes) (tJob tCpyx) tCpyx.g1 64 0xFF0000000100 24 ∧
    JobRange (tEng (.copy 0 0) tCpyx tCpyxBytes) (tJob tCpyx) tCpyx.g2 32 0xFF0000000200 44 := by
  refine ⟨by decide, by decide, by decide, by decide⟩
theorem witness_cpyx_apart : (dimOffsets tDims).Pairwise (fun p q => p.2 + ((4 : Nat) : Int) ≤ q.2 ∨ q.2 + ((4 : Nat) : Int) ≤ p.2) ∧
    ∀ p ∈ dimOffsets tDims, ∀ q ∈ dimOffsets tDims, (tCpyx.g1.cursor : Int) + p.1 + (4 : Nat) ≤ tCpyx.g2.cursor + q.2 := by
  refine ⟨by decide, by decide⟩
/-- GATH and SCAT of two rows, of 1 byte and of 2^24 bytes (which the window cannot hold) and with no width. -/
def tRows1 (op w n : Nat) : Record :=
  ⟨tHead op (w + 2 ^ 32 * n), if op = 0x22 then tW 0x100 64 else tW 0x200 64, if op = 0x22 then tW 0x200 64 else tW 0x100 64, tW 64 8⟩
/-- Each command of a copy engine at its turn. -/
theorem witness_copy_turn : ∀ r ∈ [tCpy 0, tCpy 1, tCpyx, tRows1 0x22 1 2, tRows1 0x23 1 2, tRows1 0x22 0 2, tRows1 0x23 (2 ^ 24 + 1) 2], ∀ bs ∈ [[], tCpyxBytes, leBytes 4 5 ++ leBytes 4 3],
    CopyTurn (tEng (.copy 0 0) r bs) r (tJob r) := fun r h bs g => ⟨(by decide : ∀ r ∈ [tCpy 0, tCpy 1, tCpyx, tRows1 0x22 1 2, tRows1 0x23 1 2, tRows1 0x22 0 2,
    tRows1 0x23 (2 ^ 24 + 1) 2], ∀ bs ∈ [[], tCpyxBytes, leBytes 4 5 ++ leBytes 4 3], (tEng (.copy 0 0) r bs).curJob r = some (tJob r)) r h bs g,
    (by decide : ∀ r ∈ [tCpy 0, tCpy 1, tCpyx, tRows1 0x22 1 2, tRows1 0x23 1 2, tRows1 0x22 0 2,
    tRows1 0x23 (2 ^ 24 + 1) 2], ∀ bs ∈ [[], tCpyxBytes, leBytes 4 5 ++ leBytes 4 3], Unwritten (tEng (.copy 0 0) r bs) (tJob r)) r h bs g, 0, 0, rfl⟩
theorem witness_rows : ∀ op ∈ [0x22, 0x23], let r := tRows1 op 1 2; let s := tEng (.copy 0 0) r (leBytes 4 5 ++ leBytes 4 3); let j := tJob r
    s.curJob r = some j ∧ JobWindow s j ∧ Record.bits r.g0 32 32 = 1 ∧ Record.bits r.g0 64 64 = 2 ∧ JobRange s j r.g3 64 r.g3.cursor 8 ∧
    JobRange s j (if op = 0x22 then r.g2 else r.g1) 96 (0xFF0000000200) 2 ∧ JobMay (if op = 0x22 then r.g1 else r.g2) 96 0xFF0000000100 0 ∧
    leNat (s.jobBytes j r.g3.cursor 4) = 5 ∧ leNat (s.jobBytes j (r.g3.cursor + 4) 4) = 3 ∧
    JobRange s j (if op = 0x22 then r.g1 else r.g2) 96 (0xFF0000000100 + 5) 1 ∧ JobRange s j (if op = 0x22 then r.g1 else r.g2) 96 (0xFF0000000100 + 3) 1 := by
  decide
theorem witness_rows_width : ∀ w ∈ [0, 2 ^ 24 + 1], (tEng (.copy 0 0) (tRows1 0x22 w 2) []).curJob (tRows1 0x22 w 2) = some (tJob (tRows1 0x22 w 2)) ∧
    (Record.bits (tRows1 0x22 w 2).g0 32 32 = 0 ∨ 2 ^ 24 < Record.bits (tRows1 0x22 w 2).g0 32 32) := by decide

/-- MarketCommands: lot 7 of the die with two experts, empty or with two tokens. -/
def tLot (subs : List Submission) : Lot :=
  { owner := some 0, e := 2, k := 1, roundLim := 20, eps := 1, prices := [(1, 9)], caps := [(0, 1), (1, 1)], asgn := tW 0x100 64, park := tW 0x140 64,
    rtab := tW 0x180 64, pidxOff := 32, pending := subs, late := [⟨2, 8, tW 0 64⟩], auctNo := 3, rounds := 5 }
def tMkt (op sub hi : Nat) : Record := ⟨tHead op (7 + 2 ^ 8 * sub + 2 ^ 32 * hi), tW 0x200 64, tW 0x300 64, tW 0x400 64⟩
def tMs (r : Record) (l : Lot) : State := (tEng (.market 0 0) r []).modLot 0 7 fun _ => l
def tSub : Submission := ⟨2, 4, tW 64 8⟩
theorem witness_market : ∀ op ∈ [0x30, 0x31, 0x32, 0x33, 0x34, 0x35, 0x36], let r := tMkt op 0 1; let s := tMs r (tLot []); let j := tJob r
    MarketTurn s r j ∧ OwnsLot s r j ∧ JobWindow s j ∧ JobRange s j r.g1 64 r.g1.cursor 8 ∧ JobRange s j r.g1 32 r.g1.cursor 64 ∧
    (s.lot (rLot r)).pending = [] ∧ Record.bits r.g0 40 8 = 0 ∧ s.auctAhead (rLot r) = false := by decide
theorem witness_market_setup : ∀ x ∈ [(1, 1, 1, 1), (512, 8, 4095, 2 ^ 31 - 1)],
    ∀ r ∈ [tMkt 0x30 0 (x.1 + 2 ^ 10 * x.2.1 + 2 ^ 16 * x.2.2.1 + 2 ^ 32 * x.2.2.2)], let s := tMs r (tLot [])
    MarketTurn s r (tJob r) ∧ OwnsLot s r (tJob r) ∧ Record.bits r.g0 64 10 = x.1 ∧ Record.bits r.g0 74 4 = x.2.1 ∧ Record.bits r.g0 80 12 = x.2.2.1 ∧
    Record.bits r.g0 96 32 = x.2.2.2 := by decide
theorem witness_market_prices : risingFrom 0 (tLot []).prices = true ∧ (tLot []).price 0 = 0 ∧ (tLot []).price 1 = 9 ∧
    (tMkt 0x30 2 0).g1.perm &&& 34 = 34 ∧ (tMkt 0x30 2 0).g3.perm &&& 66 = 66 := by decide
theorem witness_market_caps : let r := tMkt 0x30 1 0; let s := tMs r (tLot [])
    ∀ i, i < 2 → leNat (s.jobBytes (tJob r) (r.g1.cursor + 4 * i) 4) ≤ 65536 := by decide
def tMktsub : Record := tMkt 0x31 0 (2 + 2 ^ 32 * 4)
theorem witness_mktsub : let s := tMs tMktsub (tLot [tSub]); let u : Submission := ⟨2, 4, tMktsub.g1⟩
    MarketTurn s tMktsub (tJob tMktsub) ∧ OwnsLot s tMktsub (tJob tMktsub) ∧ u = ⟨Record.bits tMktsub.g0 64 17, (tMktsub.g0.val.extractLsb' 96 32).toInt, tMktsub.g1⟩ ∧
    JobMay tMktsub.g1 64 (u.foot 2).1.toNat (u.foot 2).2 ∧ 0 ≤ (u.foot 2).1 ∧ JobRange s (tJob tMktsub) tMktsub.g2 32 tMktsub.g2.cursor 16 ∧
    s.auctAhead 7 = false ∧ (tLot [tSub]).pending.length < 16 ∧ (tokensOf (tLot [tSub]).pending + u.ntok) * (tLot [tSub]).k ≤ 65536 := by
  refine ⟨by decide, by decide, by decide, by decide, by decide, by decide, by decide, by decide, by decide⟩
def tAuct : State := let s := tMs (tMkt 0x32 0 0) (tLot [tSub]); { s with spad := s.spad.store 64 [10, 0, 3, 0, 8, 0, 6, 0] }
def tAuctIn : AuctionIn := ⟨1, [1, 1], 1, [[10, 3], [8, 6]]⟩
theorem witness_auct : let r := tMkt 0x32 0 0; let j := tJob r; let l := tLot [tSub]
    MarketTurn tAuct r j ∧ OwnsLot tAuct r j ∧ tAuct.lot 7 = l ∧ tokensOf l.pending = 2 ∧ lotFills l = true ∧ lotCaps l = none ∧
    JobHere tAuct j l.asgn.cursor 8 ∧ (∀ va ∈ rowAddrs l.pending, JobHere tAuct j va 4) ∧
    tAuctIn = ⟨l.k, (List.range l.e).map l.cap, l.eps.toInt, tAuct.affinities j l⟩ := by
  refine ⟨by decide, by decide, by decide, by decide, by decide, by decide, by decide, by decide, by decide⟩
theorem witness_auct_seats : (tAuctIn.run 20 [0, 9]).fallback = [] ∧ tAuctIn.aff.length * tAuctIn.k ≤ tAuctIn.caps.sum ∧ [(0 : Int), 9].length = tAuctIn.caps.length := by decide

/-- DispatchedRows: a row of 16 bytes whose expert 1 is resident on die 0, or is not, and its packet at the ingress. -/
def tDisp : Record := ⟨tHead 0x24 (16 + 2 ^ 32 * 7 + 2 ^ 40 + 2 ^ 57), tW 0 16, tW 64 4, Cap.zero⟩
def tBuf (res : Bool) : Cap := ⟨(tW 0x200 64).val, res⟩
def tDs (res : Bool) : State :=
  let s := tEng (.dispatch 0 0) tDisp (leBytes 4 (3 + 2 ^ 16))
  let s : State := { s with spad := (((s.spad.store 0x1A0 (leBytes 16 (tW 0x200 64).val.toNat)).store 0x1B0 (leBytes 16 1)).setTag (0x1A0 / 16) res) }
  s.modLot 0 7 fun _ => tLot []
theorem witness_token : ∀ res ∈ [true, false], OneToken (tDs res) tDisp (tJob tDisp) (tLot []) 16 (3 + 2 ^ 16) (tBuf res) 1 := by
  intro res h
  simp only [List.mem_cons, List.not_mem_nil, or_false] at h
  rcases h with rfl | rfl
  all_goals exact ⟨by decide, by decide, by decide, by decide, by decide, by decide, by decide⟩
theorem witness_parked : JobRange (tDs false) (tJob tDisp) (tLot []).park 32 (tLot []).park.cursor 16 ∧
    JobRange (tDs false) (tJob tDisp) (tLot []).park 32 ((tLot []).park.cursor + 32) 4 ∧ (tBuf false).tag = false ∧ (tBuf true).tag = true := by
  refine ⟨by decide, by decide, by decide, by decide⟩
theorem witness_ingress : ∃ p, let j : Job := { tJob tDisp with started := true, packets := [p] }
    let s : State := { ((tDs true).modDie 0 fun d => { d with dispatch := [j] }) with net := [.row 0 3 p 0], arg := { a := 0 } }
    s.net[s.arg.a]? = some (.row 0 j.order p 0) ∧ (s.die 0).dispatch[0]? = some j ∧ p.dest = [(tBuf true, 3)] ∧ j.parkedRows = 0 ∧ true ∉ p.poison ∧
    Unwritten { s with cur := .dispatch 0 0 } j ∧ j.packets = [p] ∧
    p.data.length = p.rowBytes ∧ 1 ≤ p.rowBytes ∧ JobWindow s j ∧ JobRange s j (tBuf true) 32 ((tBuf true).cursor + 3 * p.rowBytes) p.rowBytes := by
  refine ⟨⟨0, 0, 16, List.replicate 16 0, [], [(tBuf true, 3)]⟩, by decide, by decide, by decide, by decide, by decide, by decide, by decide, by decide, by decide, by decide, by decide⟩

/-- The matrix engine of core 0 with tiles of 17 rows and 8 columns, at slice `sl` of the command `r`. -/
def tCtl (t rows cols : Nat) : BitVec 32 := BitVec.ofNat 32 (t + rows * 256 + cols * 65536)
def tTile (t rows cols : Nat) : Tile := { ctl := tCtl t rows cols, elems := [(1, 3), (512 * 16 + 7, 5)], scales := if isBlock t then [(0, 120), (16, 121)] else [] }
def tWt (t n k : Nat) : Weights := { typ := BitVec.ofNat 8 t, key := 7, n := n, k := k, elems := [(0, 2), (9, 4)] }
def tMx (r : Record) (sl : Nat) (tl : Tile) (w : Weights) (bs : List Byte) : State :=
  let s := (tEng (.matrix 0) r bs).setJobs (.matrix 0) [{ tJob r with slice := sl, started := sl ≠ 0 }]
  let s := s.modCoreBank 0 fun b => { b with ctl := Vector.replicate 4 tl.ctl, tiles := Vector.replicate 4 tl, acc := Vector.replicate 2 { elems := [(3, 0x3F800000)] } }
  s.setWeights 0 w
def tMr (op hi : Nat) (g1 g2 g3 : Cap) : Record := ⟨tHead op hi, g1, g2, g3⟩
def tMj (r : Record) (sl : Nat) : Job := { tJob r with slice := sl, started := sl ≠ 0 }

/-- MatrixProducts, at the first slice and at the last one. -/
theorem witness_mx_turn : ∀ op ∈ [0x10, 0x11, 0x12, 0x13, 0x14, 0x15, 0x16, 0x17, 0x18, 0x19], ∀ sl ∈ [0, 1], let r := tMr op 0 (tW 0 8) (tW 8 8) (tW 16 8)
    (tMx r sl (tTile 0x11 17 8) (tWt 0x11 8 8) []).curJob r = some (tMj r sl) ∧ (tMx r sl (tTile 0x11 17 8) (tWt 0x11 8 8) []).cur = .matrix 0 ∧
    (tMj r sl).slot / 4 = 0 ∧ ((tMx r sl (tTile 0x11 17 8) (tWt 0x11 8 8) []).core 0).twin = none ∧
    JobWindow (tMx r sl (tTile 0x11 17 8) (tWt 0x11 8 8) []) (tMj r sl) ∧ Unwritten (tMx r sl (tTile 0x11 17 8) (tWt 0x11 8 8) []) (tMj r sl) := by decide
def tM0 : State := tMx (tMr 0x12 0 Cap.zero Cap.zero Cap.zero) 0 (tTile 0x11 17 8) (tWt 0x11 8 8) []
theorem witness_mx_rising : MxRising tM0 0 ∧ AccsClean tM0 0 := ⟨⟨by decide, by decide, by decide, by decide⟩, by decide⟩
theorem witness_mx_operand : TileOperand tM0 0 0 false ⟨0x11, 17, 8, tTile 0x11 17 8, {}⟩ :=
  ⟨by decide, by decide, by decide, by decide⟩
theorem witness_mx_pair : TileOperand tM0 0 2 true ⟨0x11, 17, 16, tTile 0x11 17 8, tTile 0x11 17 8⟩ :=
  ⟨by decide, by decide, by decide, by decide⟩
theorem witness_mx_weights : let r := tMr 0x12 0 Cap.zero Cap.zero Cap.zero; let o : Oper := ⟨0x11, 17, 8, tTile 0x11 17 8, {}⟩
    WeightsFit r o (tM0.mxWeights 0) false ∧ WeightsFit r o (tM0.mxWeights 0) true ∧ ¬WeightsFit r o (tWt 0x20 8 8) false ∧
    xTile r = 0 ∧ xPair r = false ∧ 8 ≤ kLimit 0x11 ∧ (tM0.mxWeights 0).k = 8 ∧ xDsta r + xNacc r ≤ 1 ∧ (tM0.mxWeights 0).poison = [] := by
  refine ⟨⟨by decide, by decide, by decide, by decide⟩, ⟨by decide, by decide, by decide, by decide⟩, ?_, by decide, by decide, by decide, by decide, by decide, by decide⟩
  intro h
  exact absurd h.2.1 (by decide)

/-- MatrixTransfers: rows of a tile with a negative stride, rows with scales, accumulator rows, drains with and without the projector, and a record of MADJ. -/
def tStride (stride scale p1 : Nat) : Cap := ⟨BitVec.ofNat 128 (stride + 2 ^ 32 * scale + 2 ^ 64 * p1), false⟩
def tDown : Record := tMr 0x14 0 { tW 0x100 0x200 with val := (tW 0x100 0x200).val + 0x100 } Cap.zero (tStride (2 ^ 32 - 16) 0 0)
theorem witness_rows_down : RowsHere (tMx tDown 0 (tTile 0x11 17 8) {} []) (tMj tDown 0) tDown 64 17 16 0 := by
  refine ⟨by decide, ?_, by decide⟩
  intro lo n h
  have e : footOf tDown.g1.cursor 16 [(17, xStride tDown)] = (((0xFF0000000100 : Nat) : Int), 272) := by decide
  rw [e] at h
  obtain ⟨h1, rfl⟩ := Prod.mk.inj h
  obtain rfl : lo = 0xFF0000000100 := by omega
  exact ⟨by decide, by decide⟩
def tScaled : Record := tMr 0x15 0 (tW 0x100 0x400) Cap.zero (tStride 32 0x300 0)
theorem witness_rows_scaled : RowsHere (tMx tScaled 1 (tTile 0x20 17 32) {} []) (tMj tScaled 1) tScaled 32 17 32 1 := by
  refine ⟨by decide, ?_, fun _ => by decide⟩
  intro lo n h
  have e : footOf tScaled.g1.cursor 32 [(17, xStride tScaled)] = (((0xFF0000000100 : Nat) : Int), 544) := by decide
  rw [e] at h
  obtain ⟨h1, rfl⟩ := Prod.mk.inj h
  obtain rfl : lo = 0xFF0000000100 := by omega
  exact ⟨by decide, by decide⟩
theorem witness_tile_types : tileType (tCtl 0x11 17 8) = 0x11 ∧ tileRows (tCtl 0x11 17 8) = 17 ∧ tileCols (tCtl 0x11 17 8) = 8 ∧
    isBlock 0x20 = true ∧ (8 * elemBits 0x11 + 7) / 8 = 16 ∧ (32 * elemBits 0x20 + 7) / 8 = 32 := by decide
def tMlda : Record := tMr 0x16 (1 + 2 * 64 + 2 ^ 8 * 64) (tW 0x100 0x4000) Cap.zero (tStride 256 0 0)
theorem witness_mlda : aRows tMlda = 64 ∧ aCols tMlda = 64 ∧ dSrca tMlda = 1 ∧ RowsHere (tMx tMlda 0 (tTile 0x11 17 8) {} []) (tMj tMlda 0) tMlda 64 64 256 0 := by
  refine ⟨by decide, by decide, by decide, by decide, ?_, by decide⟩
  intro lo n h
  have e : footOf tMlda.g1.cursor 256 [(64, xStride tMlda)] = (((0xFF0000000100 : Nat) : Int), 16384) := by decide
  rw [e] at h
  obtain ⟨h1, rfl⟩ := Prod.mk.inj h
  obtain rfl : lo = 0xFF0000000100 := by omega
  exact ⟨by decide, by decide⟩
/-- A drain of 17 rows and 8 columns to FP32 with `pset` and `pmode`. -/
def tDrain (pset pmode : Nat) : Record := tMr 0x17 (2 ^ 5 * 0x10 + 2 ^ 17 * 17 + 2 ^ 24 * 8 + 2 ^ 64 * pset + 2 ^ 67 * pmode) (tW 0x100 0x400)
  (tW 0x600 0x400) (tStride 32 0 0x3F800000)
theorem witness_drain_rows (pset pmode : Nat) (h : (pset, pmode) ∈ [(0, 0), (1, 0), (1, 1), (2, 2)]) :
    DrainHere (tMx (tDrain pset pmode) 0 (tTile 0x11 17 8) {} []) 0 (tMj (tDrain pset pmode) 0) (tDrain pset pmode) := by
  simp only [List.mem_cons, List.not_mem_nil, or_false, Prod.mk.injEq] at h
  rcases h with ⟨rfl, rfl⟩ | ⟨rfl, rfl⟩ | ⟨rfl, rfl⟩ | ⟨rfl, rfl⟩
  all_goals refine ⟨by decide, by decide, fun _ _ => ⟨by decide, ?_, by decide⟩, by decide⟩
  all_goals intro lo n h
  all_goals rw [show footOf _ _ _ = (((0xFF0000000100 : Nat) : Int), 544) from by decide] at h
  all_goals obtain ⟨h1, rfl⟩ := Prod.mk.inj h
  all_goals obtain rfl : lo = 0xFF0000000100 := by omega
  all_goals exact ⟨by decide, by decide⟩
/-- A record of a row of simplex projection for MADJ, with a mask of two bits at its MPTR. -/
def tMadj : Record := tMr 0x18 (4 + 2 ^ 9 * 8 + 2 ^ 17 + 2 ^ 20 * 0x10) (tW 0x100 0x400) (tW 64 0x40) (tStride 32 0 0x3F800000)
def tMadjBytes : List Byte := leBytes 16 (2 + 2 ^ 19 + 2 ^ 64 * 0xFF0000000050) ++ leBytes 16 3
theorem witness_madj : let s := tMx tMadj 0 (tTile 0x11 17 8) {} tMadjBytes; let j := tMj tMadj 0; let q := leNat (s.jobBytes j tMadj.g2.cursor 16)
    adjBad tMadj = false ∧ jRows tMadj = 1 ∧ jCols tMadj = 8 ∧ jPset tMadj = 1 ∧ JobRange s j tMadj.g2 64 tMadj.g2.cursor 16 ∧ recSet q = 1 ∧ recMode q ≠ 1 ∧
    recCount q = 2 ∧ JobRange s j tMadj.g2 64 (recMptr q) 16 ∧ leNat (s.jobBytes j (recMptr q) 16) = 3 := by
  refine ⟨by decide, by decide, by decide, by decide, by decide, by decide, by decide, by decide, by decide, by decide⟩

/-- MatrixTurns: a tile that no control types, a turn of the quad, and a tile control at the head. -/
theorem witness_untyped : let r := tMr 0x12 0 Cap.zero Cap.zero Cap.zero; (tMj r 0).started = false ∧ tileType ((tMx r 0 {} {} []).mxCtl 0 (xTile r)) = 0 := by
  exact ⟨by decide, by decide⟩
theorem witness_quad : ∀ res ∈ [0, 1], let r := tMr (if res = 0 then 0x10 else 0x19) 3 Cap.zero Cap.zero Cap.zero
    let s := { tMx r 0 (tTile 0x11 17 8) {} [] with arg := { a := 0, b := res } }
    (s.cluster 0).halted = false ∧ rOpcode r / 16 = 1 ∧ (s.matrixHead 0).isSome = true := by decide
theorem witness_quad_eligible : let r := tMr 0x10 3 Cap.zero Cap.zero Cap.zero; let s := { tMx r 0 (tTile 0x11 17 8) {} [] with arg := { a := 0, b := 0 } }
    ([1, 2, 3, 4].map fun k => 4 * 0 + ((s.quad 0).lastArray + k) % 4).find? (fun c => s.eligible c 0) = some 0 ∧
    s.matrixHead 0 = some (tMj r 0, some (.mzero r)) ∧ ∃ u, exec (.mzero r) { s with cur := .matrix 0 } = .next u := by
  exact ⟨by decide, by decide, _, rfl⟩
/-- A product for the array, a transfer for the port, each the head of the core that is next; a quad whose array has none, and one that is halted. -/
def tQuad (r : Record) (res : Nat) (halted : Bool) : State :=
  { (tMx r 0 (tTile 0x11 17 8) {} []).modCluster 0 fun c => { c with halted := halted } with arg := { a := 0, b := res } }
def tZero : Record := tMr 0x10 3 Cap.zero Cap.zero Cap.zero
def tLoadRows : Record := tMr 0x14 0 (tW 0x100 0x200) Cap.zero (tStride 16 0 0)
theorem witness_quad_turn : ∀ p ∈ [(tZero, 0), (tLoadRows, 1)], let s := tQuad p.1 p.2 false; let last := if p.2 = 0 then (s.quad 0).lastArray else (s.quad 0).lastPort
    p.2 < 2 ∧ 0 < Config.cores / 4 ∧ (s.cluster 0).halted = false ∧ ([1, 2, 3, 4].map fun k => 4 * 0 + (last + k) % 4).find? (fun c => s.eligible c p.2) = some 0 ∧
    (s.core 0).twin = none ∧ (s.matrixHead 0).all (fun x => x.2.all fun i => s.blockRefuses 0 x.1 i = false && rOpcode x.1.record / 16 = 1) = true ∧
    (s.matrixHead 0).isSome = true ∧ (s.jobs (.matrix 0)).drop 1 = [] := by decide
theorem witness_quad_idle : (let s := tQuad tLoadRows 0 false; ∀ k ∈ [1, 2, 3, 4], s.eligible (4 * 0 + ((s.quad 0).lastArray + k) % 4) 0 = false) ∧
    (tQuad tZero 0 true |>.cluster (0 / 12)).halted = true := by decide
theorem witness_control : let r := tMr 0x10 0 Cap.zero Cap.zero Cap.zero
    let s := { (tMx r 0 (tTile 0x11 17 8) {} []).setJobs (.matrix 0) [{ tJob r with mtcw := some (3, 0x00010111) }] with arg := { a := 0 } }
    (s.cluster 0).halted = false ∧ s.matrixHead 0 = some ({ tJob r with mtcw := some (3, 0x00010111) }, none) := by
  exact ⟨by decide, by decide⟩

/-- ProjectedRows: a row of each set. -/
theorem witness_projected : ∀ p ∈ [1, 2, 3, 4, 5], projectBad p 0 0x3F800000 0x40000000 = false ∧
    isNanRow p ([0x3F800000, 0xBF800000, 0].map of32) = false := by decide

/-- A collective of two members, the second of which is this die's partition 0: opcode, types, count and the rest of its record. -/
def tCr (kind st dt op cnt : Nat) : Record :=
  ⟨⟨BitVec.ofNat 128 (kind + 256 + 3 * 65536 + 2 ^ 32 * st + 2 ^ 40 * dt + 2 ^ 48 * op + 2 ^ 64 * cnt + 2 ^ 112), false⟩, tW 0x100 0x200, tW 0x400 0x200, tW 64 24⟩
def tMembers : List Member := [⟨0, 1, 0⟩, ⟨0, 0, 0⟩]
def tGroupBytes : List Byte := leBytes 8 (2 + 2 ^ 16) ++ leBytes 8 (2 ^ 16) ++ leBytes 8 0
def tCs (r : Record) : State := let s := tEng (.coll 0 0) r tGroupBytes
  { s with spad := s.spad.store 0x100 (leBytes 4 1) }
theorem witness_fields : CollFields 0x40 (tCr 0x40 16 16 4 2) ∧ CollFields 0x41 (tCr 0x41 5 5 0 2) ∧ CollFields 0x42 (tCr 0x42 0x20 17 0 32) ∧
    CollFields 0x43 (tCr 0x43 0 0 0 8) ∧ CollFields 0x44 (tCr 0x44 16 16 0 0) ∧ CollFields 0x45 (tCr 0x45 16 16 0 1) := by
  refine ⟨?_, ?_, ?_, ?_, ?_, ?_⟩
  all_goals exact ⟨by decide, by decide, by decide, by decide, by decide, by decide, by decide⟩
theorem witness_participant (kind st dt op cnt : Nat)
    (h : (kind, st, dt, op, cnt) ∈ [(0x40, 16, 16, 4, 2), (0x41, 5, 5, 0, 2), (0x42, 0x20, 17, 0, 32), (0x44, 16, 16, 0, 0), (0x45, 16, 16, 0, 1)]) :
    Participant (tCs (tCr kind st dt op cnt)) kind (tCr kind st dt op cnt) (tJob (tCr kind st dt op cnt)) 2 1 tMembers [] [] := by
  simp only [List.mem_cons, List.not_mem_nil, or_false, Prod.mk.injEq] at h
  rcases h with ⟨rfl, rfl, rfl, rfl, rfl⟩ | ⟨rfl, rfl, rfl, rfl, rfl⟩ | ⟨rfl, rfl, rfl, rfl, rfl⟩ | ⟨rfl, rfl, rfl, rfl, rfl⟩ | ⟨rfl, rfl, rfl, rfl, rfl⟩
  all_goals exact ⟨⟨by decide, by decide⟩, ⟨by decide, by decide, by decide, by decide, by decide, by decide, by decide⟩,
    ⟨by decide, by decide, by decide, by decide, by decide, by decide⟩, by decide, by decide, by decide, ⟨by decide, by decide⟩, by decide,
    by decide, by decide, by decide⟩
theorem witness_reshard : let r := tCr 0x43 0 0 0 8; let s := tCs r
    Participant s 0x43 r (tJob r) 2 1 tMembers [1, 0] (s.jobBytes (tJob r) r.g1.cursor 4) := by
  refine ⟨⟨by decide, by decide⟩, ⟨by decide, by decide, by decide, by decide, by decide, by decide, by decide⟩,
    ⟨by decide, by decide, by decide, by decide, by decide, by decide⟩, by decide, by decide, by decide, ⟨by decide, by decide⟩, ?_,
    by decide, by decide, by decide⟩
  exact ⟨rfl, by decide, by decide⟩
theorem witness_coll_turn : ∀ kind ∈ [0x40, 0x41, 0x42, 0x43, 0x44, 0x45], ∀ op ∈ [0, 5], let r := tCr kind 16 16 op 2
    (tCs r).curJob r = some (tJob r) ∧ (tCs r).cur = .coll (tCs r).cur.die (tCs r).cur.index ∧ (tJob r).group = none ∧ gOp r = op := by decide
theorem witness_coll_cap : let r := { tCr 0x40 16 16 0 2 with g3 := Cap.zero }; CollFields 0x40 r ∧ ¬JobMay r.g3 64 r.g3.cursor 8 :=
  ⟨⟨by decide, by decide, by decide, by decide, by decide, by decide, by decide⟩, by decide⟩
/-- The two messages of a meeting, the second with count `c2`, and the participant of rank 1 that waits for them. -/
def tMsg (kind rank st dt cnt len : Nat) : CollMsg := ⟨77, 3, 2, rank, kind, st, dt, 0, cnt, 1, List.replicate len 1, 1, false⟩
def tMeet (kind st dt cnt len : Nat) (ms : List Nat) (c2 : Nat) : State := let r := tCr kind st dt 0 cnt; let s := tCs r
  ({ s with meets := [⟨77, 3, 2, ms.map fun q => tMsg kind q st dt (if q = 1 then c2 else cnt) len, []⟩], now := 2 ^ 32 } : State).setJobs s.cur
    [{ tJob r with group := some ⟨77, 1, tMembers, [1, 0]⟩, nth := 2, started := true }]
theorem tMembers_here : ∀ m ∈ tMembers, m.device = 0 := by decide
theorem witness_met (kind st dt cnt len : Nat) (h : (kind, st, dt, cnt, len) ∈ [(0x40, 16, 16, 2, 8), (0x41, 5, 5, 2, 8), (0x42, 0x20, 0x20, 32, 33),
      (0x42, 0x20, 17, 32, 33), (0x43, 0, 0, 8, 8), (0x44, 16, 16, 2, 8), (0x45, 16, 16, 1, 12)]) :
    let s := tMeet kind st dt cnt len [0, 1] cnt; let j := { tJob (tCr kind st dt 0 cnt) with group := some ⟨77, 1, tMembers, [1, 0]⟩, nth := 2, started := true }
    CollTurn s (tCr kind st dt 0 cnt) j ∧ AllMet s kind (tCr kind st dt 0 cnt) j ⟨77, 1, tMembers, [1, 0]⟩ (s.meeting 77 3 2) ∧
    (∀ m ∈ (s.meeting 77 3 2).arrived, m.data.length = len) ∧ JobHere s j (tCr kind st dt 0 cnt).g2.cursor 66 := by
  simp only [List.mem_cons, List.not_mem_nil, or_false, Prod.mk.injEq] at h
  rcases h with ⟨rfl, rfl, rfl, rfl, rfl⟩ | ⟨rfl, rfl, rfl, rfl, rfl⟩ | ⟨rfl, rfl, rfl, rfl, rfl⟩ | ⟨rfl, rfl, rfl, rfl, rfl⟩ | ⟨rfl, rfl, rfl, rfl, rfl⟩ |
    ⟨rfl, rfl, rfl, rfl, rfl⟩ | ⟨rfl, rfl, rfl, rfl, rfl⟩
  all_goals exact ⟨by decide, ⟨⟨by decide, by decide, by decide, by decide⟩, ⟨by rfl, by decide⟩, by decide,
    fun _ _ _ _ h => Or.inl (tMembers_here _ (List.mem_of_getElem? h)), by decide⟩, by decide, by decide⟩
theorem witness_met_lengths : elementsBytes 0x20 32 = 33 ∧ elemBits 16 / 8 * 2 = 8 ∧ elemBits 5 / 8 * 2 = 8 ∧ isBlock 0x20 = true ∧ [1, 0].idxOf? 1 = some 0 := by decide
/-- One of two has met; two that differ; an arrival; the wait of 2^32 clk. -/
theorem witness_alone : let s := tMeet 0x40 16 16 2 8 [1] 2
    CollTurn s (tCr 0x40 16 16 0 2) { tJob (tCr 0x40 16 16 0 2) with group := some ⟨77, 1, tMembers, [1, 0]⟩, nth := 2, started := true } ∧
    (s.meeting 77 3 2).differ = false ∧ (s.meeting 77 3 2).arrived.length < tMembers.length ∧ (∀ m ∈ tMembers, s.memberUp s.cur.die m = true) ∧
    (s.die 0).coll.length = 1 ∧ (s.now - 0).toNat = 2 ^ 32 := by
  refine ⟨by decide, by decide, by decide, by decide, by decide, by decide⟩
theorem witness_differ : let s := tMeet 0x40 16 16 2 8 [0, 1] 3; tMsg 0x40 0 16 16 2 8 ∈ (s.meeting 77 3 2).arrived ∧
    tMsg 0x40 1 16 16 3 8 ∈ (s.meeting 77 3 2).arrived ∧ (tMsg 0x40 0 16 16 2 8).count ≠ (tMsg 0x40 1 16 16 3 8).count := by decide
theorem witness_coll_arrives : let s := (tMeet 0x40 16 16 2 8 [1] 2).modPort 17 fun p => { p with up := true }
    ((({ s with arg := { a := 17, pay := .coll (tMsg 0x40 0 16 16 2 8) } } : State).port 17).up) = true := by decide
theorem witness_coll_messages : ∀ cf ∈ [true, false], let m := { tMsg 0x43 0 0 0 8 8 with confirms := cf }
    let s := { (tMeet 0x43 0 0 8 8 [1] 8).modPort 17 fun p => { p with up := true } with arg := { a := 17, pay := .coll m } }
    s.arg.pay = .coll m ∧ s.arg.a < 18 ∧ (s.port s.arg.a).up = true ∧ NoReplay s (portDie s.arg.a) := by decide
theorem witness_coll_expire : let s := { tMeet 0x40 16 16 2 8 [1] 2 with arg := { a := 0, b := 0 } }
    let j := { tJob (tCr 0x40 16 16 0 2) with group := some ⟨77, 1, tMembers, [1, 0]⟩, nth := 2, started := true }
    (s.die 0).coll[0]? = some j ∧ Unwritten { s with cur := .coll 0 0 } j ∧ rTlidx j.record = 3 ∧ 2 ^ 32 ≤ (s.now - j.since).toNat := by decide
/-- IntegerReductionsAreExactSums, at the largest group. -/
theorem witness_sums : ∀ t ∈ [5, 6, 7], 1 ≤ 1024 ∧ (1024 : Nat) ≤ 1024 ∧ 2 ^ elemBits t - 1 < 2 ^ elemBits t := by decide

/-- OwnersExecuteOnce: a request of requester 7 with serial 5 and ACKMARK 3 at owner 70, `age` clk old, before an owner with the given state. -/
def tSt (serial incar : Nat) : Stamp := ⟨BitVec.ofNat 32 serial, BitVec.ofNat 16 incar, 3⟩
def tOwn (w : Owner) (serial age : Nat) : State :=
  let s := tS.setOwner 70 w
  { s with now := 2 ^ 21, net := [.request 70 7 (tSt serial 0) (.ticket 0 5) (BitVec.ofNat 64 (2 ^ 21 - age)) 0], arg := { a := 0 } }
theorem witness_arriving : ∀ age ∈ [0, 2 ^ 20], ((tOwn {} 5 age).now - BitVec.ofNat 64 (2 ^ 21 - age)).toNat = age ∧
    (tOwn {} 5 age).net[(tOwn {} 5 age).arg.a]? = some (.request 70 7 (tSt 5 0) (.ticket 0 5) (BitVec.ofNat 64 (2 ^ 21 - age)) 0) := by decide
theorem witness_too_old : 2 ^ 20 < ((tOwn {} 5 (2 ^ 20 + 1)).now - BitVec.ofNat 64 (2 ^ 21 - (2 ^ 20 + 1))).toNat := by decide
theorem witness_executes : Executes (tOwn {} 5 0) 70 7 (tSt 5 0) ∧ NoReplay (tOwn {} 5 0) 0 :=
  ⟨⟨by decide, by decide, by decide, fun m h => absurd h (by rw [show ((tOwn {} 5 0).owner 70).marked 7 (tSt 5 0).ackmark = none from by decide]; simp), by decide⟩, by decide⟩
def tOwner : Owner := { cache := [⟨7, 5, 0, 99⟩], marks := [⟨7, 3, 0⟩] }
theorem witness_cached : (tSt 5 0).incar = ((tOwn tOwner 5 0).owner 70).incar ∧ ((tOwn tOwner 5 0).owner 70).caches 7 (tSt 5 0).serial 0 99 ∧
    ((tOwn tOwner 5 0).owner 70).marked 7 (tSt 5 0).ackmark = some 3 ∧ ¬UpTo (tSt 5 0).serial 3 ∧ UpTo (tSt 3 0).serial 3 ∧ (tSt 5 1).incar ≠ tOwner.incar := by
  decide
def tFull1 : Owner := { cache := List.replicate 4096 ⟨8, 5, 0, 99⟩ }
theorem witness_full_cache : (tFull1.marked 7 3 = none) ∧ (∀ e ∈ tFull1.cache, e.req ≠ 7) ∧ 4096 ≤ tFull1.cache.length := by
  refine ⟨by decide, fun e h => ?_, by simp [tFull1]⟩
  simp only [tFull1, List.mem_replicate] at h
  rw [h.2]
  decide
theorem witness_ack : let s := { tOwn tOwner 5 0 with net := [.ack 70 7 5] }; s.net[s.arg.a]? = some (.ack 70 7 5) ∧
    ((s.owner 70).marked 7 5).getD 5 = 5 := by decide
theorem witness_forget : let s := { tOwn { marks := [⟨7, 3, 0⟩] } 5 0 with arg := { a := 70, b := 7 } }; (∀ e ∈ (s.owner 70).cache, e.req ≠ 7) ∧
    2 ^ 21 ≤ (s.now - 0).toNat := by decide

/-- RequestersRetryUntilAFinalReply: a table of one request, with its reply on the links. -/
def tEnt (waiting : Bool) (sends : Nat) (busy : Option Word) : TabEnt :=
  ⟨{ owner := 70, op := .ticket 0 5, va := 0x1234, waiting := waiting }, 4, 0, sends, 1000, busy⟩
def tReq (e : TabEnt) (status : Nat) : State :=
  let s := tS.setRequester 0 { next := 5, table := [e], owners := [⟨70, 4, none⟩] }
  { (s.modSlotAt (s.reqKey 0) fun sl => { sl with sent := some 4 }) with now := 3048, net := [.reply 0 70 4 status 99 0 3], arg := { a := 0, b := 4 } }
theorem witness_reply : ∀ status ∈ [0, 2, 3, 4, 7, 8], ∀ w ∈ [true, false], let s := tReq (tEnt w 16 none) status; let e := tEnt w 16 none
    s.arg.pay = .none ∧ s.net[s.arg.a]? = some (.reply 0 70 4 status 99 0 3) ∧ e.serial = 4 ∧ Outstanding s 0 e ∧ s.savedAway 0 = false ∧
    (s.slotAt (s.reqKey 0)).sent = some 4 ∧ e.quiet = false := by decide
theorem witness_reply_stale : let s := tReq { tEnt true 1 none with serial := 5 } 0; ∀ x ∈ (s.requester 0).table, x.serial ≠ 4 := by decide
theorem witness_retry : ∀ x ∈ [(15, none), (16, none), (3, some (3048 - 256))], let e := tEnt true x.1 x.2; let s := tReq e 0
    s.savedAway s.arg.a = false ∧ Outstanding s s.arg.a e ∧ e.serial.toNat = s.arg.b ∧ 2048 ≤ (s.now - e.lastSent).toNat ∧ 256 ≤ (s.now - (x.2.getD 0)).toNat := by decide
theorem witness_ack_send : let s := tReq (tEnt true 1 none) 0; s.savedAway s.arg.a = false ∧ (s.requester s.arg.a).owners ≠ [] ∧ 256 ≤ (s.now - (s.requester s.arg.a).lastSent).toNat ∧
    ({ s with net := [.ackDone 70 0 4] } : State).net[s.arg.a]? = some (.ackDone 70 0 4) := by decide
theorem witness_read_again : let s := (tReq (tEnt true 1 none) 0).modSl fun sl => { sl with xread := some (15, 1000) }
    s.slotKey s.arg.a = 0 ∧ (s.slotAt 0).xread = some (15, 1000) ∧ 2048 ≤ (s.now - 1000).toNat := by decide

/-- LaunchPacketsEnterTheQueue: a packet of the host on lane 0, and one of device 44 on port 17, with and without an empty entry. -/
def tPkt : Record := ⟨⟨5, true⟩, ⟨6, false⟩, ⟨BitVec.ofNat 128 (144 * 2 ^ 16 + 3 * 2 ^ 32 + 2 ^ 64 * 9), true⟩, Cap.zero⟩
def tHost (full : Bool) : State :=
  let s := tS.modPart 0 fun p => if full then { p with entries := (List.range 16).map fun i => (i, placedEntryOf) } else p
  { s with arg := { a := 0, b := 3, c := 0, pay := .packet (tSt 5 0) tPkt } }
theorem witness_host_packet : ∀ full ∈ [true, false], let s := tHost full; s.lanes 3 ≠ 0 ∧ s.bootFailed 0 = false ∧ s.arg.pay = .packet (tSt 5 0) tPkt ∧
    (if full then (∀ q, q < 16 → (s.entry (0, q)).st ≠ .empty) else LowestEmpty s 0 1) := by decide
theorem witness_host_executes (full : Bool) : Executes (tHost full) 256 (hostReq 0) ⟨pktSerial (hostPacket (tHost full) 0 tPkt), 0, ((tHost full).part 0).hostAck⟩ := by
  cases full
  all_goals refine ⟨by decide, by decide, by decide, fun m h => absurd h ?_, by decide⟩
  all_goals rw [show Owner.marked _ _ _ = none from by decide]
  all_goals simp
def tPeer (w : Word) : State := { ((tS.setCsr 7 (0x380 + 255) w).modPart 0 fun p => p) with arg := { a := 17, b := 44, c := 64 * 9, pay := .packet (tSt 5 0) tPkt } }
theorem witness_peer : let s := tPeer (BitVec.ofNat 64 (1 + 2 * 44 + 2 ^ 23 * 1 + 2 ^ 28)); s.arg.pay = .packet (tSt 5 0) tPkt ∧ (s.port 17).up = true ∧ portDie 17 = 7 ∧
    LowestEmpty s 0 1 ∧ s.bootFailed 0 = false ∧ (s.arg.b + 1) * 2 ^ 24 + s.arg.c / 64 = 45 * 2 ^ 24 + 9 := by decide
theorem witness_peer_executes : Executes (tPeer 0) (512 + 17) (45 * 2 ^ 24 + 9) (tSt 5 0) := by
  refine ⟨by decide, by decide, by decide, fun m h => absurd h ?_, by decide⟩
  rw [show ((tPeer 0).owner (512 + 17)).marked (45 * 2 ^ 24 + 9) (tSt 5 0).ackmark = none from by decide]
  simp
theorem witness_admitted : AdmittedBy (tPeer (BitVec.ofNat 64 (1 + 2 * 44 + 2 ^ 23 * 1 + 2 ^ 28))) 7 44 0 255 := by
  refine ⟨by decide, by decide, fun k h => ?_⟩
  have e : (tPeer (BitVec.ofNat 64 (1 + 2 * 44 + 2 ^ 23 * 1 + 2 ^ 28))).csr 7 (0x380 + k) = 0 := by
    revert k
    decide
  simp only [e]
  decide
theorem witness_not_admitted (i : Nat) (h : i < 256) : (tPeer 0).csr 7 (0x380 + i) = 0 := by
  revert i
  decide
/-- A packet at a port of the die of the queue, admitted or not, and one at a port of another die, whose interface forwards it. -/
def tGate (port : Nat) (w : Word) : State := { tS.setCsr 0 (0x380 + 255) w with arg := { a := port, b := 44, c := 64 * 9, pay := .packet (tSt 5 0) tPkt } }
def tAdmit : Word := BitVec.ofNat 64 (1 + 2 * 44 + 2 ^ 23 * 1 + 2 ^ 28)
theorem witness_gate : ∀ port ∈ [0, 1, 16, 17], PeerPacket (tGate port tAdmit) (tSt 5 0) tPkt port 44 (45 * 2 ^ 24 + 9) := by
  intro port h
  simp only [List.mem_cons, List.not_mem_nil, or_false] at h
  rcases h with rfl | rfl | rfl | rfl
  all_goals exact ⟨by decide, by decide, by decide⟩
theorem witness_gate_owner : ∀ port ∈ [0, 1, 16, 17], (tGate port tAdmit).arg.c % 64 = 0 ∧ LowestEmpty (tGate port tAdmit) 0 1 ∧
    (ownerDie (512 + port) ≠ 0 ↔ port = 17) := by decide
theorem witness_gate_executes (port : Nat) (h : port ∈ [0, 1, 16, 17]) : Executes (tGate port tAdmit) (512 + port) (45 * 2 ^ 24 + 9) (tSt 5 0) := by
  simp only [List.mem_cons, List.not_mem_nil, or_false] at h
  rcases h with rfl | rfl | rfl | rfl
  all_goals refine ⟨by decide, by decide, by decide, fun m h => absurd h ?_, by decide⟩
  all_goals rw [show Owner.marked _ _ _ = none from by decide]
  all_goals simp
theorem witness_gate_admits : AdmittedBy (tGate 16 tAdmit) 0 44 0 255 := by
  refine ⟨by decide, by decide, fun k h => ?_⟩
  have e : (tGate 16 tAdmit).csr 0 (0x380 + k) = 0 := by
    revert k
    decide
  simp only [e]
  decide
theorem witness_gate_shut (i : Nat) (h : i < 256) : (tGate 16 0).csr 0 (0x380 + i) = 0 := by
  revert i
  decide
theorem witness_host_words : let s := { tS with arg := { a := 63, pay := .word 3 } }; s.attachUp = true ∧ s.arg.pay = .word 3 ∧ s.arg.a % 64 = 63 := by decide

/-- LaunchesRunThroughTheQueue: an entry with the packet of a kernel whose header stands in memory. -/
def tHdrBytes : List Byte := leBytes 4 0x4C504B44 ++ leBytes 2 1 ++ leBytes 1 1 ++ leBytes 1 0 ++ leBytes 4 0xC000 ++ leBytes 4 0x100 ++ leBytes 4 0x80 ++
  leBytes 4 0x140 ++ leBytes 2 1 ++ leBytes 1 1 ++ leBytes 5 0 ++ leBytes 4 0x200 ++ leBytes 2 5 ++ leBytes 1 0xFF ++ leBytes 1 0
def tTabBytes : List Byte := leBytes 4 0x100 ++ leBytes 4 0x140 ++ leBytes 4 0x180 ++ leBytes 4 7
def tKcap (perm : BitVec 7) (off : Nat) : Cap := mkCap true perm 0 0x1000 0x2000 (BitVec.ofNat 48 (0x2000 + off))
def tQd (k : Cap) (st : EntryState) (flags : Nat) : State :=
  let s := { tS with mem := (tS.mem.store 0x2040 tHdrBytes).store 0x2180 tTabBytes, arg := { a := 0, b := 3, c := 10 } }
  s.modEntry (0, 3) fun e => { e with st := st, pos := some 7, gen := 5, order := 1, toWake := [10], hdr := some tHeader,
                                      packet := ⟨k, ⟨7, true⟩, ⟨BitVec.ofNat 128 (10 + 2 * 2 ^ 16 + 3 * 2 ^ 32 + flags * 2 ^ 48), false⟩, Cap.zero⟩ }
theorem witness_header_refused : (tQd (tKcap 4 64) .queued 0).arg.a = 0 ∧ ((tQd (tKcap 4 64) .queued 0).entry (0, 3)).st = .queued ∧
    (tKcap 4 64).perm &&& 68 ≠ 68 ∧ (tKcap 68 8).perm &&& 68 = 68 ∧ (tKcap 68 8).cursor % 64 ≠ 0 ∧ (tKcap 68 8).tag = true := by decide
def tGoodHdr : State := tQd (tKcap 68 64) .queued 0
def tHdrRead : List Byte := tHdrBytes ++ List.replicate (256 - tHdrBytes.length) 0
theorem witness_header : ∃ u v, LaunchReads tGoodHdr 0 (pktFirst (tGoodHdr.entry (0, 3)).packet) 0x2040 256 tHdrRead u ∧
    LaunchReads u 0 (pktFirst (tGoodHdr.entry (0, 3)).packet) (0x2040 + 0x140) 16 tTabBytes v ∧
    v.rangeOk 0 (tGoodHdr.entry (0, 3)).packet false = true := by
  refine ⟨_, _, rfl, rfl, by decide⟩
theorem witness_header_fields : pktTlidx (tGoodHdr.entry (0, 3)).packet < 1024 ∧ (tKcap 68 64).base ≤ (tKcap 68 64).cursor ∧ (tKcap 68 64).cursor + 256 ≤ (tKcap 68 64).top ∧
    fieldsOk (tKcap 68 64) tHdrRead = true ∧ fieldOf tHdrRead 20 4 = 0x140 ∧ fieldOf tHdrRead 24 2 = 1 ∧ fieldOf tHdrRead 7 1 = 0 := by
  refine ⟨by decide, by decide, by decide, by decide, by decide, by decide, by decide⟩
theorem witness_header_points : pointOk (tKcap 68 64) ⟨fieldOf tTabBytes 0 4, fieldOf tTabBytes 4 4, fieldOf tTabBytes 8 4, 0⟩ = true := by decide
theorem witness_dequeue : ∀ flags ∈ [0, 1, 2, 3], let s := tQd (tKcap 68 64) .waiting flags; (s.part s.arg.a).oldest = some 3 ∧ (s.entry (0, 3)).st = .waiting ∧
    LaunchCores s (0, 3) 2 ∧ CoresFree s (0, 3) := by decide
theorem witness_busy : let s := (tQd (tKcap 68 64) .waiting 3).modCore 11 fun c => { c with stopped := true }; (s.part s.arg.a).oldest = some 3 ∧
    (∃ c ∈ s.coresOf (0, 3), s.coreFree (0, 3) c = false) ∧ (pktNowait (s.entry (0, 3)).packet = true ∨ pktNowait (((tQd (tKcap 68 64) .waiting 2).entry (0, 3)).packet) = true) := by decide
theorem witness_wake : let s := tQd (tKcap 68 64) .waking 0; s.arg.c ∈ (s.entry (0, 3)).toWake ∧ s.bankOf (clusterOf s.arg.c) 0 = some 0 ∧
    0 = (s.core s.arg.c).liveBank ∧ (s.cluster (clusterOf s.arg.c)).resting = false ∧ pktFirst (s.entry (0, 3)).packet ≤ s.arg.c ∧ pktCount (s.entry (0, 3)).packet = 2 ∧ (s.header (0, 3)).scratch < 2 ^ 20 := by decide
theorem witness_complete : ∀ ab ∈ [true, false], let s := (tQd (tKcap 68 64) .running 0).modEntry (0, 3) fun e => { e with abnormal := ab }
    (s.entry (0, 3)).st = .running ∧ s.launchQuiet (0, 3) = true ∧ s.armedCells (0, 3) = 0 ∧ (s.entry (0, 3)).abnormal = ab := by decide
theorem witness_not_complete : let s := { tS with arg := { a := 0, b := 0 } }; look s.slots 0 = some tS.sl ∧ tS.sl.launch = some (s.arg.a, s.arg.b) ∧ tS.sl.state ≠ .idle := by decide

/-- WaitsEnd: a slot that waits with WAITA, which goes on or is killed. -/
def tWaits (killed : Bool) (mode : Word) : State :=
  ({ tS.modSl fun sl => { sl with state := .waiting (.rack tF), killed := killed } with arg := { a := 0 } } : State).setCsr 7 0x4CB mode
theorem witness_goes_on : ∀ mode ∈ [0, 2], (tWaits false (BitVec.ofNat 64 mode)).slotKey (tWaits false (BitVec.ofNat 64 mode)).arg.a = 0 ∧
    (tWaits false (BitVec.ofNat 64 mode)).arg.c = 0 := by decide
theorem witness_waits : GoesOn (tWaits false 2) 0 (.rack tF) ∧ ∃ u, runStrand (.rack tF) { tWaits false 2 with groups := none, cur := .slot 0 } = .next u :=
  ⟨⟨by decide, by decide, by decide⟩, _, rfl⟩
theorem witness_replays : ((tWaits false 2).csr 7 0x4CB).extractLsb' 0 2 = 2 ∧ (∀ d, d < 8 → ((tWaits false 0).csr d 0x4CB).extractLsb' 0 2 ≠ 2) ∧
    ∃ u, runStrand (.rack tF) { tWaits false 2 with cur := .slot 0 } = .next u := ⟨by decide, by decide, _, rfl⟩
/-- WAITTK whose ticket 7 is served, in a slot that waits for it. -/
def tServed : State := (((tTick 5 7 7).modSl fun sl => { sl with state := .waiting (.waittk tF) }).setCsr 7 0x4CB 2)
theorem witness_ticket_served : GoesOn tServed 0 (.waittk tF) ∧ TicketServed { tServed with groups := none, cur := .slot 0 } tF ∧
    TicketServed { tServed with cur := .slot 0 } tF ∧ (tServed.csr 7 0x4CB).extractLsb' 0 2 = 2 ∧ tServed.slotKey tServed.arg.a = 0 ∧ tServed.arg.b ≠ 1 ∧ tServed.arg.c = 0 :=
  ⟨⟨by decide, by decide, by decide⟩, ⟨by decide, by decide, by decide, by decide⟩, ⟨by decide, by decide, by decide, by decide⟩,
    by decide, by decide, by decide, by decide⟩
theorem witness_killed : let s := tWaits true 0; (s.slotAt 0).state = .waiting (.rack tF) ∧ (s.slotAt 0).killed = true ∧ (s.slotAt 0).halted = false ∧
    (s.core 0).stopped = false ∧ (s.cluster 0).halted = false := by decide

/-- RecordsMoveBetweenUnits: parked records, a migration, and a window. -/
def tRecord : Record := { g0 := placedCap, g1 := Cap.zero, g2 := Cap.zero, g3 := ⟨BitVec.ofNat 128 (1 + 2 ^ 8 * 0xFFFF), false⟩ }
def tPark (marked ready : Bool) : State := { tX.modCluster 0 fun c => { c with parked := [⟨tRecord, (0, 0), .ticket 0 2 5, marked, ready⟩], tickets := [(2, (9, 4))] } with arg := { a := 0, b := 0 } }
theorem witness_parked_record : ∀ x ∈ [(true, false), (false, true), (false, false)], let s := tPark x.1 x.2
    (s.cluster 0).parked[0]? = some ⟨tRecord, (0, 0), .ticket 0 2 5, x.1, x.2⟩ ∧ recordBad (s.header (0, 0)) tRecord = false ∧
    s.stageFull 0 (0, 0) (recStage tRecord) = false ∧ ((look (s.cluster 0).tickets 2).getD (0, 0)).2 = 4 := by decide
def tMig (q : BitVec 4) : State := { tX.modSl fun sl => { sl with pcc := sl.pcc.withCursor 0x300, migReq := true, qmap := q, state := .ready } with
  arg := { a := 0, pay := .word (BitVec.ofNat 64 (2 ^ 17 + 18431)) } }
theorem witness_migrates : AtSafePoint (tMig 0) 0 0 ∧ (tMig 0).slotKey (tMig 0).arg.a = 0 ∧ (18431 + 2 ^ 17 : Nat) % 2 ^ 15 < 18432 ∧ ((tMig 1).slotAt 0).qmap ≠ 0 ∧
    ((tMig 0).slotAt 0).state ≠ .idle :=
  ⟨⟨by decide, by decide, by decide, by decide, by decide, by omega⟩, by decide, by decide, by decide, by decide⟩
def tWin : State :=
  let s := tX.modCluster 0 fun c => { c with windows := [⟨tRec 0x20, [0, 2, 4], 0⟩] }
  let s := [0, 4].foldl (fun s k => s.modSlotAt k fun sl => { sl with joined := some none, launch := some (0, 0) }) s
  { s with arg := { a := 0, b := 0 }, now := 64 }
theorem witness_closing : Closing tWin 0 ⟨tRec 0x20, [0, 2, 4], 0⟩ 0 [4] 2 :=
  ⟨⟨rfl, by decide, by decide⟩, ⟨by decide, by decide⟩, ⟨by decide, by decide⟩, by decide⟩

/-- PicksAreEligible: a queue of one record, picked for the idle slot of core 0. -/
def tQs (age : Nat) : StageQueues := ⟨(0, 0), (Vector.replicate 16 []).set 1 [(tRecord, true)], (Vector.replicate 16 0).set 1 age⟩
def tPick : State := { (tX.modCluster 0 fun c => c.setQueues (tQs 48)).modSlotAt 0 fun sl => { sl with state := .idle } with arg := { a := 0 } }
theorem witness_pick : tHeader.stages.length ≤ 16 ∧ (stagePickFor tHeader (tQs 48) fun _ => true).2 = some (tRecord, true) ∧ (tPick.cluster 0).halted = false ∧
    (tPick.coreBank (tPick.coreKey 0)).launch = some (0, 0) ∧ (tPick.slotAt (bankKey (4 * 0) (tPick.core 0).liveBank)).state = .idle ∧ (tPick.core 0).stopped = false ∧
    (tPick.cluster 0).resting = false ∧ (tPick.cluster 0).pickAt = 0 ∧ ((tPick.modCluster 0 fun c => { c with halted := true }).cluster 0).resting = true ∧
    0 ∉ (tPick.entry (0, 0)).toWake ∧ recSafept tRecord = 0xFFFF ∧ (tPick.core 0).liveBank < 2 ∧
    (stagePickFor (tPick.header (0, 0)) ((tPick.cluster 0).queuesOf (0, 0)) (fun r => tPick.mayResume r 0)).2 = some (tRecord, true) := by
  refine ⟨by decide, by decide, by decide, by decide, by decide, by decide, by decide, by decide, by decide, by decide, by decide, by decide, by decide⟩

/-- WatchdogsAndTwins. -/
def tWd (limit count : Nat) : State := { (tS.modSl fun sl => { sl with state := .waiting (.rack tF) }).modPart 0 fun p => { p with wdLimit := BitVec.ofNat _ limit, wdCount := BitVec.ofNat _ count } with arg := { a := 0 } }
theorem witness_watchdog : let s := tWd 20 20; (s.part 0).wdLimit ≠ 0 ∧ (s.part 0).wdLimit ≤ (s.part 0).wdCount ∧ s.slots = [(0, s.slotAt 0)] ∧
    s.watched 0 (.rack tF) = true ∧ (s.slotAt 0).state = .waiting (.rack tF) ∧ (s.slotAt 0).halted = false ∧ 0 % 2 = (s.core (0 / 8)).liveBank ∧ s.partOf 0 = 0 := by
  refine ⟨by decide, by decide, by rfl, by decide, by decide, by decide, by decide, by decide⟩
theorem witness_no_watchdog : ((tWd 0 7).part 0).wdLimit = 0 ∧ ((tWd 20 19).part 0).wdCount < ((tWd 20 19).part 0).wdLimit := ⟨by decide, by decide⟩
def tPair (a b : List TwinMsg) : State := { (tS.modCore 0 fun c => { c with twin := some (1, true), twinMsgs := a }).modCore 1 fun c => { c with twin := some (0, false), twinMsgs := b } with
  arg := { a := 0 }, now := 4096 }
theorem witness_pair : ∀ k ∈ [0, 1, 2], PairMessages (tPair [⟨5, 0, 0, k⟩] [⟨5, 0, 8, k⟩]) 0 1 ⟨5, 0, 0, k⟩ ⟨5, 0, 8, k⟩ := by decide
theorem witness_pair_differs : PairMessages (tPair [⟨5, 0, 0, 1⟩] [⟨6, 0, 8, 1⟩]) 0 1 ⟨5, 0, 0, 1⟩ ⟨6, 0, 8, 1⟩ := by decide
theorem witness_pair_alone : let s := tPair [⟨5, 0, 0, 1⟩] []; (s.core 0).twin = some (1, true) ∧ (s.core 0).twinMsgs.head? = some ⟨5, 0, 0, 1⟩ ∧ (s.core 1).twinMsgs = [] ∧
    4096 ≤ (s.now - 0).toNat ∧ (s.now - 1).toNat < 4096 := by decide

/-- FirmwareWritesRegisters: a word for a register of die 7 or for its operation. -/
def tFw (v : Nat) (b : Nat) : State := { tX with arg := { a := 7, b := b, pay := .word (BitVec.ofNat 64 v) } }
theorem witness_plain_csrs : ∀ b ∈ [0x340, 0x350, 0x351, 0x360, 0x372, 0x37E, 0x380, 0x47F, 0x480, 0x4BF, 0x4C0, 0x4C3, 0x4C5, 0x4C8, 0x4C9, 0x4CA, 0x4CD],
    Writes (tFw (2 ^ 64 - 1) b) (BitVec.ofNat 64 (2 ^ 64 - 1)) ∧ (plainBits (tFw (2 ^ 64 - 1) b).arg.b).isSome = true := by decide
theorem witness_bp : ∀ i ∈ [0, 3], let v := 2 ^ 51 * 383 + 5; Writes (tFw v (0x4C0 + i)) (BitVec.ofNat 64 v) ∧ (BitVec.ofNat 64 v).toNat / 2 ^ 51 % 2 ^ 9 / 48 = (tFw v 0).arg.a % 8 := by decide
theorem witness_log_modes : ∀ m ∈ [0, 1, 2], (BitVec.ofNat 64 (m + 8)).extractLsb' 0 2 ≠ 3 ∧ (tFw m 0x4CB).arg.b = 0x4CB := by decide
theorem witness_debug : (2 ^ 9 + 383) % 2 ^ 9 / 48 = (tFw (2 ^ 9 + 383) 0).arg.a % 8 ∧ (BitVec.ofNat 64 (2 ^ 9 + 383)).getLsbD 9 = true ∧
    (BitVec.ofNat 64 (2 ^ 10 + 383)).getLsbD 9 = false ∧ (BitVec.ofNat 64 (2 ^ 10 + 383)).getLsbD 10 = true ∧ (∀ p ∈ (tFw 0 0).slots, p.2.killed = false) := by decide
/-- A halt of cluster 383 by its own die, with its word 1 shot that a slot waits on; one by another die; a resume of what no swap has idled. -/
theorem witness_halts : let s := (tFw (2 ^ 9 + 383) 0).modSlotAt (8 * 18431) fun sl => { sl with armed := some false }
    LiveIn s 383 (8 * 18431) ∧ (s.cluster 383).liveBank = (8 * 18431) % 2 ∧ (s.slotAt (8 * 18431)).armed = some false ∧
    (∀ p ∈ (tFw (2 ^ 9 + 383) 0).slots, p.2.armed ≠ some false) ∧ ((2 ^ 9 + 1) % 2 ^ 9 / 48 : Nat) ≠ (tFw (2 ^ 9 + 1) 0).arg.a % 8 ∧
    ((tFw (2 ^ 10 + 383) 0).cluster 383).idled = false := by decide
def tSel (item : Nat) (halted : Bool) : State := (({ tFw 5 0 with arg := { a := 0, pay := .word 5 } } : State).modSl fun sl => { sl with halted := halted }).setCsr 0 0x4C5 (BitVec.ofNat 64 (2 ^ 17 * item))
theorem witness_selects : ∀ item ∈ [0, 1, 0x3F, 0x40, 0x41, 0x5F, 0x60, 0x61, 0x62, 0x7F], ∀ h ∈ [true, false], Writes (tSel item h) 5 ∧
    Selects (tSel item h) ((tSel item h).arg.a % 8) 0 item ∧ ((tSel item h).slotAt 0).halted = h := by decide
theorem witness_selects_other : let s := { (tSel 1 true).setCsr 1 0x4C5 (BitVec.ofNat 64 (2 ^ 17)) with arg := { a := 1, pay := .word 5 } }
    Writes s 5 ∧ Selects s (s.arg.a % 8) 0 1 ∧ (s.slotAt 0).halted = true ∧ 0 / 8 / 2304 ≠ s.arg.a % 8 := by decide
theorem witness_attest : let s := { tS.modDie 0 fun d => { d with boot := .running 3 } with arg := { a := 0, pay := .nonce 9 } }
    s.arg.pay = .nonce 9 ∧ (s.die 0).boot = .running 3 := by decide

/-- KeysAndPageClears: a key that is held, or not, and a page clear. -/
def tKey (op : Nat) (keys : BitVec 64) (busy : Option (Nat × BitVec 6 × Nat)) : State :=
  { ((List.range 8).foldl (fun s d => s.modDie d fun x => { x with keys := keys, clearing := if d = 7 then busy else none }) tX) with
    arg := { a := 7, pay := .word (BitVec.ofNat 64 (63 + 64 * op)) } }
theorem witness_keys : (∀ op ∈ [1, 2], NoKey (tKey op 0 none) 63 ∧ ¬NoKey (tKey op (BitVec.allOnes 64) none) 63 ∧ Writes (tKey op 0 none) (BitVec.ofNat 64 (63 + 64 * op)) ∧
    (BitVec.ofNat 64 (63 + 64 * op)).extractLsb' 6 2 = BitVec.ofNat 2 op ∧ (BitVec.ofNat 64 (63 + 64 * op)).setWidth 6 = (63 : BitVec 6)) ∧
    ((tKey 1 0 none).die 7).pkeyBusy = false ∧ (∀ e, e < 8 → ((tKey 2 0 none).die e).clearing = none) ∧
    ((tKey 2 1 (some (3, 63, 7))).die 7).clearing = some (3, 63, 7) := by
  refine ⟨by decide, by decide, by decide, by decide⟩
theorem witness_key_unused : KeyUnused (tKey 2 (BitVec.allOnes 64) none) 63 := by
  refine ⟨fun e f n h => ?_, by decide, by decide, by decide⟩
  rw [(by decide : ∀ e, e < 8 → ((tKey 2 (BitVec.allOnes 64) none).die e).clearing = none) e h]
  nofun
theorem witness_key_used : let q : NetOp := { owner := 70, op := .line 5 63 false [] false none, va := 0 }
    let s := (tKey 2 (BitVec.allOnes 64) none).setRequester 3 { queue := [q] }
    (3, s.requester 3) ∈ s.requesters ∧ q ∈ (s.requester 3).open_ ∧ q.op.underKey (s.part (reqPart 3)).pkeyId 63 = true := by decide
def tClr (frame : Nat) : State := { tKey 1 0 none with arg := { a := 7, pay := .word (BitVec.ofNat 64 (frame * 2 ^ 18 + 2 * 5 + 1)) } }
theorem witness_clear : Writes (tClr 3) (BitVec.ofNat 64 (3 * 2 ^ 18 + 2 * 5 + 1)) ∧ (BitVec.ofNat 64 (3 * 2 ^ 18 + 2 * 5 + 1)).toNat / 2 ^ 18 % 2 ^ 34 = 3 ∧
    (BitVec.ofNat 64 (3 * 2 ^ 18 + 2 * 5 + 1)).getLsbD 0 = true ∧ ((tClr 3).die 7).clearing = none ∧ backed (3 * 2 ^ 18) = true ∧
    MapsRise (tClr 3) ∧ NoPartials (tClr 3) 3 ∧ (∀ e, e < 8 → ((tClr 3).die e).pkeyBusy = false) ∧ (tClr 3).arg.a % 8 = 7 := by
  refine ⟨by decide, by decide, by decide, by decide, by decide, by decide, by decide, by decide, by decide⟩
theorem witness_no_clear : backed ((244140) * 2 ^ 18) = false ∧ Writes (tClr (244140)) (BitVec.ofNat 64 ((244140) * 2 ^ 18 + 2 * 5 + 1)) := ⟨by decide, by decide⟩

/-- ClustersCoresAndResets. -/
def tCl (o : Option Nat) (up : Bool) : State :=
  { ((List.range 8).foldl (fun s d => s.modDie d fun x => { x with boot := if up then .running 1 else x.boot }) tX) with arg := { a := 383, b := 0, pay := .owner o } }
theorem witness_prepare : (tCl none false).arg.pay = .owner none ∧ (tCl (some 5) true).arg.pay = .owner (some 5) ∧ (∀ d, d < 8 → ((tCl (some 5) true).die d).boot = .running 1) ∧
    (tCl none false).arg.a < 384 := by
  refine ⟨by decide, by decide, by decide, by decide⟩
theorem witness_stop : let s := { tX with arg := { a := 18431 } }; (s.core 18431).stopped = false ∧ ((tX.modCore 18431 fun c => { c with stopped := true }).core 18431).stopped = true := by decide
theorem witness_felling_room : ∀ d ∈ [0, 7], FellingRoom tX d ∧ FellingRoom (tFw 0 0) d := by decide
theorem witness_service : Writes (tFw (2 ^ 15 + 18431) 0) (BitVec.ofNat 64 (2 ^ 15 + 18431)) ∧ (BitVec.ofNat 64 (2 ^ 15 + 18431)).getLsbD 15 = true ∧
    (BitVec.ofNat 64 (2 ^ 15 + 18431)).toNat % 2 ^ 15 = 18431 := by decide
theorem witness_resets : let s := { tX with arg := { a := 7, pay := .image (List.replicate 900 1) } }; s.arg.pay = .image (List.replicate 900 1) ∧ s.arg.a % 8 = 7 := by decide

/-- LinksAndTheHost. -/
def tLk (l : Link) (n : Nat) : State := { tX with arg := { a := 17, pay := .link l n } }
theorem witness_links : ∀ l ∈ [Link.module 3, .port 17, .die 7 3], ∀ n ∈ [0, 32, 64], (tLk l n).arg.pay = .link l n := by decide
theorem witness_links_here : neighbours (7 % 8) (3 % 8) = true ∧ (tLk (.module 3) 64).lanes 3 ≠ 0 ∧ 3 < 4 := by decide
/-- A flit whose CRC is right. -/
def tFlit : BitVec 2048 := BitVec.ofNat 2048 (leNat (List.replicate 248 1 ++ leBytes 8 (crc64 (List.replicate 248 1)).toNat))
theorem witness_flit : leBytes 256 tFlit.toNat = List.replicate 248 1 ++ leBytes 8 (crc64 (List.replicate 248 1)).toNat := by decide
theorem witness_flit_bad : leBytes 8 (crc64 ((leBytes 256 (1 : BitVec 2048).toNat).take 248)).toNat ≠ (leBytes 256 (1 : BitVec 2048).toNat).drop 248 ∧ (tX.port 17).up = true := by
  refine ⟨by decide, by decide⟩
def tHdm (on : Nat) (off : Nat) (w : Option (BitVec 512)) : State :=
  let s := tX.modPart 63 fun p => { p with hdmWin := BitVec.ofNat 64 (on + 2 + 5 * 2 ^ 18), pkeyId := 2 }
  let s := (List.range 8).foldl (fun s d => s.modDie d fun x => { x with keys := 4 }) s
  { s with arg := { a := 63, b := off, pay := match w with | some w => .line (some w) | none => .none } }
theorem witness_window : ∀ off ∈ [0, 2 ^ 18 - 1], InWindow (tHdm 1 off none) 63 off (5 * 2 ^ 18 + off / 64 * 64) := by
  intro off h
  simp only [List.mem_cons, List.not_mem_nil, or_false] at h
  rcases h with rfl | rfl
  all_goals exact ⟨by decide, by decide, by decide, 3, by decide, by decide⟩
theorem witness_no_window : ¬∃ pa, InWindow (tHdm 0 0 none) 63 0 pa := fun ⟨_, h⟩ => absurd h.enabled.1 (by decide)
theorem witness_host_line : (tHdm 1 70 (some 9)).mem.wf ∧ LineWhole (tHdm 1 70 (some 9)) ((5 * 2 ^ 18 + 64) / 64) ∧ (tHdm 1 70 (some 9)).arg.pay = .line (some 9) ∧
    (tHdm 1 70 none).arg.pay = .none ∧ LineWhole { tHdm 1 70 none with arg := { a := 5 } } (2 ^ 45 + 5 % 2 ^ 45) := by
  refine ⟨by decide, by decide, by decide, by decide, by decide⟩

/-- ErrorsRefreshAndSweeper. -/
def tL1 : List (Nat × L1Line) := [(0x80, ⟨.rc, 5, 1, 0, 1, false, 0, []⟩), (0x81, ⟨.rc, 5, 1, 1, 1, false, 0, []⟩)]
def tErr (p : Place) (c : Bool) : State := { (tX.modCoreBank 0 fun k => { k with l1 := tL1, queues := k.queues.set 3 [⟨Cap.zero, none, false⟩] }) with arg := { a := 0, pay := .place p c } }
theorem witness_errors : ∀ p ∈ [Place.scratch 0 12287, .hbm 5, .l2 5, .cleanL1 0 0x80, .dirtyL1 0 0x81, .queue 0 3, .tile 0 3, .ownerCache 529, .ownerCache 783], ∀ c ∈ [true, false],
    (tErr p c).arg.pay = .place p c := by decide
theorem witness_error_lines : let k := (tErr (.hbm 5) false).coreBank ((tErr (.hbm 5) false).coreKey 0)
    (look k.l1 0x80).map (fun l => (l.dirty, l.parts)) = some (0, []) ∧ (look k.l1 0x81).map (fun l => decide (l.dirty = 0)) = some false ∧ risingFrom 0 k.l1 = true ∧
    12287 < sliceSize / 8 ∧ ((tErr (.queue 0 3) false).queue ((tErr (.queue 0 3) false).coreKey 0) 3)[0]? = some ⟨Cap.zero, none, false⟩ := by decide
theorem witness_refresh : ∀ n ∈ [2730, 7 * 2730, 8 * 2730], let s := { tX with now := BitVec.ofNat 64 n, arg := { a := 7, b := 127, c := 65534 } }
    0 < s.owed 7 127 65534 ∧ (s.owed 7 127 65534 < 8 ∨ n = 8 * 2730) ∧ (n = 8 * 2730 → 8 ≤ s.owed 7 127 65534) := by decide
theorem witness_sweeper : let s := { tX.setCsr 7 0x4C8 (BitVec.ofNat 64 (1 + 3 * 2 ^ 18)) with arg := { a := 7, b := 47, c := 0 } }
    (s.csr 7 0x4C8).getLsbD 0 = true ∧ (s.csr 7 0x4C8).toNat / 2 ^ 18 % 2 ^ 34 = 3 ∧ backed (3 * 2 ^ 18 + 8 * ((47 * 256 + 0) * 256 + 0)) = true ∧ s.mem.wf ∧
    LineWhole s ((3 * 2 ^ 18 + 8 * ((47 * 256 + 0) * 256 + 0)) / 64) := by
  refine ⟨by decide, by decide, by decide, by decide, by decide⟩

/-- SwapsExchangeTheBanks: cluster 0 with live bank `b`, its two contexts, and a write of SWAPCTL. -/
def tSwap (flags outp inp : Nat) (c0 c1 : Option Nat) (b : Nat) (stop : Bool) : State :=
  let s := tX.modCluster 0 fun c => { c with liveBank := b, ctx0 := c0, ctx1 := c1 }
  let s := s.modCore 47 fun c => { c with stopped := stop }
  { s with arg := { a := 0, pay := .word (BitVec.ofNat 64 (flags + 8 * outp + 512 * inp)) } }
theorem swap_running (flags outp inp : Nat) (c0 c1 : Option Nat) (b : Nat) (n : Nat) : ((tSwap flags outp inp c0 c1 b false).core n).stopped = false := by
  have e : ∃ v : Core, (tSwap flags outp inp c0 c1 b false).cores = [(47, v)] ∧ v.stopped = false := ⟨_, rfl, rfl⟩
  obtain ⟨v, e, f⟩ := e
  simp only [State.core, e, look]
  split
  · exact f
  · split <;> rfl
theorem witness_swap_ask : ∀ b ∈ [0, 1], ∀ flags ∈ [1, 3, 5, 7], let s := tSwap flags 0 63 (some 0) (some 63) b false; let v := BitVec.ofNat 64 (flags + 512 * 63)
    (Writes s v ∧ v.getLsbD 0 = true ∧ 0 = s.arg.a % 8) ∧ (0 = v.toNat / 2 ^ 3 % 2 ^ 6 ∧ 63 = v.toNat / 2 ^ 9 % 2 ^ 6 ∧ 0 = v.toNat / 2 ^ 15 % 2 ^ 9 ∧ 0 < 384) ∧
    ((s.cluster 0).liveBank = b ∧ b < 2) := by decide
theorem witness_swap_asks : SwapAsk (tSwap 1 0 63 (some 0) (some 63) 0 false) (BitVec.ofNat 64 (1 + 512 * 63)) 0 0 0 63 0 :=
  ⟨by decide, by decide, by decide, fun n _ => swap_running 1 0 63 (some 0) (some 63) 0 n⟩
/-- Which cores of the cluster run the launch: the one that tX gives it. -/
theorem swap_bank (flags outp inp : Nat) (c0 c1 : Option Nat) (b : Nat) (k : Nat) (h : k ≠ 0) :
    (tSwap flags outp inp c0 c1 b false).coreBank k = CoreBank.reset := by
  have e : ∃ v, (tSwap flags outp inp c0 c1 b false).coreBanks = [(0, v)] := ⟨_, rfl⟩
  obtain ⟨v, e⟩ := e
  simp only [State.coreBank, e, look]
  simp [Ne.symm h]
theorem swap_still (flags outp inp : Nat) (c0 c1 : Option Nat) (b : Nat) : Still (tSwap flags outp inp c0 c1 b false) 0 := by
  refine ⟨show ∀ p ∈ tX.slots, p.2.armed ≠ some false ∧ p.2.joined ≠ some none by decide,
    show ∀ r ∈ tX.requesters, r.2.table = [] ∧ r.2.queue = [] by decide, fun k => ?_, by rfl, by rfl⟩
  by_cases e : k = 0
  · subst e
    exact ⟨by rfl, by rfl⟩
  · rw [swap_bank _ _ _ _ _ _ _ e]
    exact ⟨by rfl, by rfl⟩
theorem witness_may_swap : let s := tSwap 1 0 63 (some 0) (some 63) 0 false; MaySwap s 0 0 ∧ MaySwap s 0 1 ∧ NoneKilled s ∧ (s.cluster 0).ctx 0 = some 0 ∧
    (s.cluster 0).ctx (1 - 0) = some 63 := by
  refine ⟨fun n l _ h => ?_, fun n l _ h => ?_, by decide, by decide, by decide⟩
  · by_cases e : 2 * n + 0 = 0
    · rw [e] at h
      have g : (some (0, 0) : Option (Nat × Nat)) = some l := h
      obtain rfl := Option.some.inj g
      decide
    · rw [swap_bank _ _ _ _ _ _ _ e] at h
      exact absurd h (by simp [CoreBank.reset])
  · rw [swap_bank _ _ _ _ _ _ _ (by omega)] at h
    exact absurd h (by simp [CoreBank.reset])
theorem witness_swap_alone : (∀ flags ∈ [1, 5], let s := tSwap flags 0 63 (some 0) none 0 false; (s.cluster 0).ctx 0 = some 0 ∧ (s.cluster 0).ctx (1 - 0) = none) ∧
    ∀ n, n / 48 = 0 → ((tSwap 1 0 63 (some 0) none 0 false).coreBank (2 * n + 0)).l1 = [] := by
  refine ⟨by decide, fun n _ => ?_⟩
  by_cases e : 2 * n + 0 = 0
  · rw [e]
    decide
  · rw [swap_bank _ _ _ _ _ _ _ e]
    rfl
theorem witness_swap_stopped : ∃ n, n / 48 = 0 ∧ ((tSwap 1 0 63 (some 0) (some 63) 0 true).core n).stopped = true := ⟨47, by decide, by decide⟩
theorem witness_swap_kinds : ∀ i ∈ [Instr.swapFast, .swapEntry, .swapSlow], ∃ flags c1, let v := BitVec.ofNat 64 (flags + 512 * 63); let s := tSwap flags 0 63 (some 0) c1 0 true
    (i = .swapSlow ↔ v.getLsbD 1 = true) ∧ (i = .swapEntry ↔ v.getLsbD 1 = false ∧ v.getLsbD 2 = false ∧ (s.cluster 0).ctx (1 - 0) = none) := by
  intro i h
  simp only [List.mem_cons, List.not_mem_nil, or_false] at h
  rcases h with rfl | rfl | rfl
  · exact ⟨1, some 63, by decide⟩
  · exact ⟨1, none, by decide⟩
  · exact ⟨3, some 63, by decide⟩
theorem witness_swap_other : let s := tSwap 1 0 62 (some 0) (some 63) 0 false; (s.cluster 0).ctx (1 - 0) = some 63 ∧ (63 : Nat) ≠ 62 := by decide
theorem witness_may_not_swap : let s := (tSwap 1 0 63 (some 0) (some 63) 0 false).modEntry (0, 0) fun e => { e with hdr := some { tHeader with scratch := 49153 } }
    (s.coreBank (2 * 0 + 0)).launch = some (0, 0) ∧ ¬(s.header (0, 0)).scratch ≤ 49152 := by decide

theorem swap_may (flags outp inp : Nat) (c0 c1 : Option Nat) (b bank : Nat) : MaySwap (tSwap flags outp inp c0 c1 b false) 0 bank := by
  intro n l _ h
  by_cases e : 2 * n + bank = 0
  · rw [e] at h
    have g : (some (0, 0) : Option (Nat × Nat)) = some l := h
    obtain rfl := Option.some.inj g
    exact ⟨by rfl, show 0 ≤ 49152 by decide⟩
  · rw [swap_bank _ _ _ _ _ _ _ e] at h
    exact absurd h (by simp [CoreBank.reset])
/-- NOIN without and beside a context in the shadow bank, and the entry swap: what the word asks for and what the banks hold. -/
theorem witness_swap_forms : ∀ x ∈ [(5, none), (5, some 63), (1, none)], let v := BitVec.ofNat 64 (x.1 + 512 * 63); let s := tSwap x.1 0 63 (some 0) x.2 0 false
    (Writes s v ∧ v.getLsbD 0 = true ∧ 0 = s.arg.a % 8 ∧ s.swapRuns 0 = false) ∧ (0 = v.toNat / 2 ^ 3 % 2 ^ 6 ∧ 63 = v.toNat / 2 ^ 9 % 2 ^ 6 ∧ 0 = v.toNat / 2 ^ 15 % 2 ^ 9) ∧
    v.getLsbD 1 = false ∧ (v.getLsbD 2 = true ↔ x.1 = 5) ∧ (s.cluster 0).liveBank = 0 ∧ (s.cluster 0).ctx 0 = some 0 ∧ (s.cluster 0).ctx (1 - 0) = x.2 ∧ NoneKilled s := by decide
/-- The rings of the core of the incoming context, with entries whose data are good or bad, and an operation that waits at an interface of the outgoing one. -/
def tOp : NetOp := { owner := 70, op := .ticket 0 5, va := 0x1234 }
def tRing (bad : Bool) : State :=
  let s := (tSwap 1 0 63 (some 0) (some 63) 0 false).modCoreBank 1 fun k => { k with skidOut := [⟨2, tOp, bad⟩], skidIn := [⟨3, ⟨[1, 2], false, false⟩ |> some, bad⟩] }
  (s.setRequester (reqId false 2 0) { queue := [tOp] }).setRequester (reqId false 2 63) { away := true }
theorem witness_swap_rings : let s := tRing false
    ((s.requester (reqId false 2 0)).queue ≠ [] ∧ (s.requester (reqId false 2 0)).queue.length ≤ 16 ∧ ∀ j, j < 4 → j ≠ 2 → (s.requester (reqId false j 0)).queue = []) ∧
    (s.requester (reqId false 2 63)).away = true ∧ (s.coreBank 1).skidOut ≠ [] ∧ (∀ e ∈ (s.coreBank 1).skidOut, e.slot = 2 ∧ e.bad = false) ∧
    (∀ e ∈ (s.coreBank 1).skidIn, e.bad = false) ∧ ∃ e ∈ ((tRing true).coreBank 1).skidOut, e.bad = true := by decide
/-- Another partition than OUTP lives; another than INP waits; a swap runs. -/
theorem witness_swap_refused : let s := tSwap 1 1 63 (some 0) (some 63) 0 false
    (s.cluster 0).ctx (1 - 0) = some 63 ∧ (∃ q, (s.cluster 0).ctx 0 = some q ∧ q ≠ 1) ∧ s.swapRuns 0 = false ∧
    ((s.modDie 0 fun d => { d with swapRun := some (0, 0) }).modSl fun sl => { sl with state := .ready }).swapRuns 0 = true := by
  refine ⟨by decide, ⟨0, by decide⟩, by decide, by decide⟩

/-- SlowSwapsRestoreTheContext. -/
theorem witness_saves_alone : SavesAlone (tSwap 7 0 63 (some 0) none 0 false) (BitVec.ofNat 64 (7 + 512 * 63)) 0 0 0 0 := by
  refine ⟨⟨by decide, by decide, by decide, fun n _ => swap_running 7 0 63 (some 0) none 0 n⟩, by decide, by decide, fun n _ => ?_, by decide,
    swap_still 7 0 63 (some 0) none 0, fun k q e h => ?_, by decide, by decide⟩
  · by_cases e : 2 * n + 0 = 0
    · rw [e]
      decide
    · rw [swap_bank _ _ _ _ _ _ _ e]
      rfl
  · have g : ∀ c : Fin 4, (tSwap 7 0 63 (some 0) none 0 false).queue k c.val = [] := by
      by_cases z : k = 0
      · subst z
        decide
      · simp only [State.queue, swap_bank _ _ _ _ _ _ _ z]
        exact (by decide : ∀ c : Fin 4, CoreBank.reset.queues[c.val % 4]'(Nat.mod_lt _ (by decide)) = [])
    rw [show (tSwap 7 0 63 (some 0) none 0 false).queue k q = [] from
      (show _ = (tSwap 7 0 63 (some 0) none 0 false).queue k (q % 4) by simp only [State.queue, Nat.mod_mod]).trans (g ⟨q % 4, Nat.mod_lt _ (by decide)⟩)] at h
    exact absurd h List.not_mem_nil
theorem witness_slow_word : (3 : Word).getLsbD 0 = true ∧ (3 : Word).getLsbD 1 = true ∧ (3 : Word).getLsbD 2 = false ∧ (3 : Word).toNat / 2 ^ 9 % 2 ^ 6 = 0 ∧
    (3 : Word).toNat / 2 ^ 15 % 2 ^ 9 = 0 := by decide

/-- AStepRunsTheDecodedInstruction: a command's turn. -/
def tTurn : State := let r := tCpy 0; { tEng (.copy 0 0) r [] with agenda := [⟨0, .engine (.copy 0 0)⟩] }
theorem witness_command_step : ∃ t, tTurn.nextTurn = (⟨0, .engine (.copy 0 0)⟩, t) ∧ t.powered = true ∧
    (t.clock 0).jobAt (.copy 0 0) = some (tJob (tCpy 0)) ∧ decodeRecord (tCpy 0) = some (.cpy (tCpy 0)) :=
  ⟨_, rfl, by decide, by decide, by decide⟩

/-- RegisterInstructionsChangeNothingElse, ResultsGuardsAndRegisterChecks: forms that run, that name a register the launch lacks, and whose guard is false. -/
theorem witness_register_only : (∀ i ∈ [Instr.add tF, .ffma tF, .cinc tF, .sel tF], ∀ x ∈ i.form, x.2 = tF ∧ registerOnly x.1 = true ∧ Runs x.1 tF tS) ∧ tS.sl.issued = false ∧
    (Instr.add tF).form.isSome = true := by
  refine ⟨by decide, by decide, by decide⟩
theorem witness_queue_result : let s := tS.modSl fun sl => { sl with qmap := 8 }; s.sl.isQueue 31 = true ∧ s.sl.isQueue 28 = false ∧
    (∀ e ∈ s.queue s.myCoreKey ((31 : BitVec 5).toNat - 28), e.owner ≠ some s.me) ∧ tS.sl.isQueue 31 = false := by decide
def tFew : State := tS.modPart 0 fun p => { p with entries := put p.entries 0 { placedEntryOf with hdr := some { tHeader with regs := 8 } } }
theorem witness_register_checks : tFew.regBad 0x000 { tF with d := 31 } = true ∧ (Instr.add { tF with d := 31 }).form = some (0x000, { tF with d := 31 }) := by decide
theorem witness_guard_false : let f := { tF with pred := 1 }; tS.regBad 0 f = false ∧ tS.guard f = false := by decide

/-- Encodings: an instruction of each form is well-formed and has its words. -/
theorem witness_encodes : ∀ i ∈ [Instr.add tF, .cincS 9 9 8, .ffma { tF with b := 0, d := 0, lit := some 7 }, .ld { tF with ext := 3, b := 0 }, .rack { tF with a := 0, b := 0, d := 0 }],
    WellFormed i ∧ (encode i).isSome = true := by decide

/-- EveryStepKeepsMemoryCanonical, NothingStopsThePoweredMachine: a state that steps, and one without power. -/
theorem witness_canonical : let s := State.reset.withFetchWord 64 0x0007000000000D01; s.memoriesWf = true ∧ ∃ t, step s = .next t :=
  ⟨by decide, _, rfl⟩
theorem witness_power : let s := { tEvent with powered := false, agenda := [⟨0, .issue 0 none⟩] }
    s.nextTurn.2.powered = false ∧ s.nextTurn.1.needsPower = true := by decide

/-- A form with its fields in the order of word 0 from the top, then word 1: ext, b, a, d, type, immediate; COLD, YIELD, NEG and p6 set (R47, R48). -/
def tM (e b a d t i : Nat) : MForm := ⟨BitVec.ofNat 5 e, BitVec.ofNat 5 b, BitVec.ofNat 5 a, BitVec.ofNat 5 d, BitVec.ofNat 8 t, BitVec.ofNat 16 i, true, true, true, 6, none⟩
/-! Every M form: word 1 and word 0 written from the grid of R51 and the fields of R47 and R48. -/
def words0 : List (Nat × Instr) := [
  (0x0000003E1B555001, .add (tM 3 13 10 21 0x0 0x0)), (0x0000003E1B555005, .sub (tM 3 13 10 21 0x0 0x0)),
  (0x0000003E1B555009, .and (tM 3 13 10 21 0x0 0x0)), (0x0000003E1B55500D, .or (tM 3 13 10 21 0x0 0x0)),
  (0x0000003E1B555011, .xor (tM 3 13 10 21 0x0 0x0)), (0x0000003E1B555015, .andn (tM 3 13 10 21 0x0 0x0)),
  (0x0000003E1B555019, .shl (tM 3 13 10 21 0x0 0x0)), (0x0000003E1B55501D, .shr (tM 3 13 10 21 0x0 0x0)),
  (0x0000003E1B555021, .sar (tM 3 13 10 21 0x0 0x0)), (0x0000003E1B555025, .rot (tM 3 13 10 21 0x0 0x0)),
  (0x0000003E1B555029, .min (tM 3 13 10 21 0x0 0x0)), (0x0000003E1B55502D, .max (tM 3 13 10 21 0x0 0x0)),
  (0x0000003E10155031, .abs (tM 2 0 10 21 0x0 0x0)), (0x0000003E10155035, .neg (tM 2 0 10 21 0x0 0x0)),
  (0x0005003E1B555039, .sel (tM 3 13 10 21 0x0 0x5)), (0x0000003E1815503D, .mov (tM 3 0 10 21 0x0 0x0)),
  (0x1230003E00015041, .ldi (tM 0 0 0 21 0x0 0x1230)), (0x1230003E00155045, .ldhi (tM 0 0 10 21 0x0 0x1230))]
theorem test_words_class_0 : ∀ x ∈ words0, decodeTableWord 64 x.1 = some x.2 := by decide
def words1 : List (Nat × Instr) := [
  (0x0000003E1B555101, .mul (tM 3 13 10 21 0x0 0x0)), (0x0000003E1B555105, .mulh (tM 3 13 10 21 0x0 0x0)),
  (0x0000003E1B555109, .div (tM 3 13 10 21 0x0 0x0)), (0x0000003E1B55510D, .rem (tM 3 13 10 21 0x0 0x0)),
  (0x0000003E1B555111, .madd (tM 3 13 10 21 0x0 0x0)), (0x0000003E18155115, .clz (tM 3 0 10 21 0x0 0x0)),
  (0x0000003E18155119, .ctz (tM 3 0 10 21 0x0 0x0)), (0x0000003E1815511D, .popc (tM 3 0 10 21 0x0 0x0)),
  (0x0000003E18155121, .brev (tM 3 0 10 21 0x0 0x0)), (0x0000003E18155125, .bswap (tM 3 0 10 21 0x0 0x0)),
  (0x0043003E08155129, .bfx (tM 1 0 10 21 0x0 0x43)), (0x0043003E0015512D, .bfi (tM 0 0 10 21 0x0 0x43))]
theorem test_words_class_1 : ∀ x ∈ words1, decodeTableWord 64 x.1 = some x.2 := by decide
def words2 : List (Nat × Instr) := [
  (0x0000003E00155201, .cbase (tM 0 0 10 21 0x0 0x0)), (0x0000003E00155205, .clen (tM 0 0 10 21 0x0 0x0)),
  (0x0000003E00155209, .cperm (tM 0 0 10 21 0x0 0x0)), (0x0000003E0015520D, .ctag (tM 0 0 10 21 0x0 0x0)),
  (0x0000003E03555211, .cbnd (tM 0 13 10 21 0x0 0x0)), (0x0000003E03555215, .cbndx (tM 0 13 10 21 0x0 0x0)),
  (0x0000003E03555219, .cinc (tM 0 13 10 21 0x0 0x0)), (0x0000003E0355521D, .cset (tM 0 13 10 21 0x0 0x0)),
  (0x0000003E03555221, .cand (tM 0 13 10 21 0x0 0x0)), (0x0000003E00155225, .cclr (tM 0 0 10 21 0x0 0x0)),
  (0x0000003E03555229, .csub (tM 0 13 10 21 0x0 0x0)), (0x0000003E0015522D, .cmov (tM 0 0 10 21 0x0 0x0))]
theorem test_words_class_2 : ∀ x ∈ words2, decodeTableWord 64 x.1 = some x.2 := by decide
def words3 : List (Nat × Instr) := [
  (0x0000003E1B545301, .cmp (tM 3 13 10 5 0x0 0x0)), (0x0000003E1B545305, .fcmp (tM 3 13 10 5 0x0 0x0)),
  (0x0000003E18CC5309, .pand (tM 3 3 6 5 0x0 0x0)), (0x0000003E18CC530D, .por (tM 3 3 6 5 0x0 0x0)),
  (0x0000003E18CC5311, .pxor (tM 3 3 6 5 0x0 0x0)), (0x0000003E000C5315, .pnot (tM 0 0 6 5 0x0 0x0)),
  (0x0000003E00015319, .pget (tM 0 0 0 21 0x0 0x0)), (0x0043003E0014031D, .pfrom (tM 0 0 10 0 0x0 0x43))]
theorem test_words_class_3 : ∀ x ∈ words3, decodeTableWord 64 x.1 = some x.2 := by decide
def words4 : List (Nat × Instr) := [
  (0x1230003E00000401, .bra (tM 0 0 0 0 0x0 0x1230)), (0x1230003E00140405, .jmp (tM 0 0 10 0 0x0 0x1230)),
  (0x1230003E00000409, .call (tM 0 0 0 0 0x0 0x1230)), (0x0000003E0014040D, .callr (tM 0 0 10 0 0x0 0x0)),
  (0x0000003E00000411, .ret (tM 0 0 0 0 0x0 0x0)), (0x1230003E00015415, .loop (tM 0 0 0 21 0x0 0x1230)),
  (0x0000003E00000419, .nop (tM 0 0 0 0 0x0 0x0))]
theorem test_words_class_4 : ∀ x ∈ words4, decodeTableWord 64 x.1 = some x.2 := by decide
def words5 : List (Nat × Instr) := [
  (0x0000003E53555501, .fadd (tM 10 13 10 21 0x0 0x0)), (0x0000003E53555505, .fsub (tM 10 13 10 21 0x0 0x0)),
  (0x0000003E53555509, .fmul (tM 10 13 10 21 0x0 0x0)), (0x0000003E5355550D, .ffma (tM 10 13 10 21 0x0 0x0)),
  (0x0000003E53555511, .fdiv (tM 10 13 10 21 0x0 0x0)), (0x0000003E50155515, .fsqrt (tM 10 0 10 21 0x0 0x0)),
  (0x0000003E03555519, .fmin (tM 0 13 10 21 0x0 0x0)), (0x0000003E0355551D, .fmax (tM 0 13 10 21 0x0 0x0)),
  (0x0000003E03555521, .fminn (tM 0 13 10 21 0x0 0x0)), (0x0000003E03555525, .fmaxn (tM 0 13 10 21 0x0 0x0)),
  (0x0000003E00155529, .fabs (tM 0 0 10 21 0x0 0x0)), (0x0000003E0015552D, .fneg (tM 0 0 10 21 0x0 0x0)),
  (0x0000113E50155531, .fcvt (tM 10 0 10 21 0x11 0x0)), (0x0000053E50155535, .fcvti (tM 10 0 10 21 0x5 0x0)),
  (0x0000053E50155539, .icvtf (tM 10 0 10 21 0x5 0x0)), (0x0000003E0015553D, .fclass (tM 0 0 10 21 0x0 0x0))]
theorem test_words_class_5 : ∀ x ∈ words5, decodeTableWord 64 x.1 = some x.2 := by decide
def words6 : List (Nat × Instr) := [
  (0x1230113E18155601, .ld (tM 3 0 10 21 0x11 0x1230)), (0x1230063E1B540605, .st (tM 3 13 10 0 0x6 0x1230)),
  (0x1230003E00155609, .ldc (tM 0 0 10 21 0x0 0x1230)), (0x1230003E0354060D, .stc (tM 0 13 10 0 0x0 0x1230)),
  (0x1230003E18155611, .ldlu (tM 3 0 10 21 0x0 0x1230)), (0x1230003E0014C615, .ld64 (tM 0 0 10 12 0x0 0x1230)),
  (0x1230003E05140619, .st64 (tM 0 20 10 0 0x0 0x1230)), (0x1230003E0015561D, .ldfe (tM 0 0 10 21 0x0 0x1230)),
  (0x1230003E00155621, .ldff (tM 0 0 10 21 0x0 0x1230)), (0x1230003E03540625, .stfe (tM 0 13 10 0 0x0 0x1230)),
  (0x1230003E03540629, .stff (tM 0 13 10 0 0x0 0x1230)), (0x1230003E0814062D, .feset (tM 1 0 10 0 0x0 0x1230)),
  (0x1230003E00155631, .feget (tM 0 0 10 21 0x0 0x1230)), (0x1230003E08140635, .pref (tM 1 0 10 0 0x0 0x1230)),
  (0x1230003E00140639, .wbl (tM 0 0 10 0 0x0 0x1230)), (0x1230003E0014063D, .invl (tM 0 0 10 0 0x0 0x1230))]
theorem test_words_class_6 : ∀ x ∈ words6, decodeTableWord 64 x.1 = some x.2 := by decide
def words7 : List (Nat × Instr) := [
  (0x1230113E1B555701, .amo (tM 3 13 10 21 0x11 0x1230)), (0x1230113E1B555705, .cas (tM 3 13 10 21 0x11 0x1230)),
  (0x1230113E1B555709, .famo (tM 3 13 10 21 0x11 0x1230)), (0x1230243E1B54070D, .red (tM 3 13 10 0 0x24 0x1230)),
  (0x0000003E10000711, .fence (tM 2 0 0 0 0x0 0x0)), (0x0000003E00000715, .drainst (tM 0 0 0 0 0x0 0x0)),
  (0x1230003E03545719, .waita (tM 0 13 10 5 0x0 0x1230))]
theorem test_words_class_7 : ∀ x ∈ words7, decodeTableWord 64 x.1 = some x.2 := by decide
def words8 : List (Nat × Instr) := [
  (0x0005003E0C955801, .spawn (tM 1 18 10 21 0x0 0x5)), (0x0000003E00000805, .endStrand (tM 0 0 0 0 0x0 0x0)),
  (0x0000003E00000809, .yield (tM 0 0 0 0 0x0 0x0)), (0x1230003E0814080D, .suspend (tM 1 0 10 0 0x0 0x1230)),
  (0x0821003E0B540811, .rfork (tM 1 13 10 0 0x0 0x821)), (0x0000003E00140815, .join (tM 0 0 10 0 0x0 0x0)),
  (0x0000003E18015819, .arrive (tM 3 0 0 21 0x0 0x0)), (0x0000003E1814081D, .waitb (tM 3 0 10 0 0x0 0x0)),
  (0x0000003E03555821, .domsetNew (tM 0 13 10 21 0x0 0x0)), (0x0000013E18145821, .domsetEnter (tM 3 0 10 5 0x1 0x0)),
  (0x0000023E18005821, .domsetLeave (tM 3 0 0 5 0x2 0x0)), (0x0000003E00155825, .ticket (tM 0 0 10 21 0x0 0x0)),
  (0x0821003E23540829, .waittk (tM 4 13 10 0 0x0 0x821)), (0x0000003E0014082D, .serve (tM 0 0 10 0 0x0 0x0)),
  (0x0000003E08155831, .qmap (tM 1 0 10 21 0x0 0x0))]
theorem test_words_class_8 : ∀ x ∈ words8, decodeTableWord 64 x.1 = some x.2 := by decide
def words9 : List (Nat × Instr) := [
  (0x1230113E53555901, .vadd (tM 10 13 10 21 0x11 0x1230)), (0x1230113E53555905, .vsub (tM 10 13 10 21 0x11 0x1230)),
  (0x1230113E53555909, .vmul (tM 10 13 10 21 0x11 0x1230)), (0x1230113E5355590D, .vfma (tM 10 13 10 21 0x11 0x1230)),
  (0x1230113E53555911, .vdiv (tM 10 13 10 21 0x11 0x1230)), (0x1230113E53555915, .vmin (tM 10 13 10 21 0x11 0x1230)),
  (0x1230113E53555919, .vmax (tM 10 13 10 21 0x11 0x1230)), (0x1230113E5355591D, .vminn (tM 10 13 10 21 0x11 0x1230)),
  (0x1230113E53555921, .vmaxn (tM 10 13 10 21 0x11 0x1230)), (0x0200113E50155925, .vabs (tM 10 0 10 21 0x11 0x200)),
  (0x0200113E50155929, .vneg (tM 10 0 10 21 0x11 0x200)), (0x0200113E5355592D, .vclamp (tM 10 13 10 21 0x11 0x200)),
  (0x1230113E1B555931, .vsel (tM 3 13 10 21 0x11 0x1230)), (0x1230113E1B555935, .vcmp (tM 3 13 10 21 0x11 0x1230)),
  (0x1230053E03555939, .vand (tM 0 13 10 21 0x5 0x1230)), (0x1230053E0355593D, .vor (tM 0 13 10 21 0x5 0x1230)),
  (0x1230053E03555941, .vxor (tM 0 13 10 21 0x5 0x1230)), (0x1230053E03555945, .vshl (tM 0 13 10 21 0x5 0x1230)),
  (0x1230053E03555949, .vshr (tM 0 13 10 21 0x5 0x1230))]
theorem test_words_class_9 : ∀ x ∈ words9, decodeTableWord 64 x.1 = some x.2 := by decide
def wordsA : List (Nat × Instr) := [
  (0x0200113E00155A01, .vexp2 (tM 0 0 10 21 0x11 0x200)), (0x0200113E00155A05, .vexp (tM 0 0 10 21 0x11 0x200)),
  (0x0200113E00155A09, .vlog2 (tM 0 0 10 21 0x11 0x200)), (0x0200113E00155A0D, .vlog (tM 0 0 10 21 0x11 0x200)),
  (0x0200113E50155A11, .vrcp (tM 10 0 10 21 0x11 0x200)), (0x0200113E00155A15, .vrsqrt (tM 0 0 10 21 0x11 0x200)),
  (0x0200113E50155A19, .vsqrt (tM 10 0 10 21 0x11 0x200)), (0x0200113E00155A1D, .vtanh (tM 0 0 10 21 0x11 0x200)),
  (0x0200113E00155A21, .vsigm (tM 0 0 10 21 0x11 0x200)), (0x0200113E50155A25, .vcvt (tM 10 0 10 21 0x11 0x200)),
  (0x0200243E50155A29, .vquant (tM 10 0 10 21 0x24 0x200)), (0x1230113E50155A2D, .vreduce (tM 10 0 10 21 0x11 0x1230)),
  (0x1230113E50155A31, .vscan (tM 10 0 10 21 0x11 0x1230)), (0x1230113E03555A35, .vgather (tM 0 13 10 21 0x11 0x1230)),
  (0x1230113E03555A39, .vscatter (tM 0 13 10 21 0x11 0x1230)), (0x0200113E00155A3D, .vcopy (tM 0 0 10 21 0x11 0x200)),
  (0x0000113E50155A41, .vfill (tM 10 0 10 21 0x11 0x0)), (0x0000053E00015A45, .vrand (tM 0 0 0 21 0x5 0x0)),
  (0x1230003E00149A49, .shld (tM 0 0 10 9 0x0 0x1230)), (0x1230003E02D40A4D, .shst (tM 0 11 10 0 0x0 0x1230)),
  (0x1230053E00149A51, .shset (tM 0 0 10 9 0x5 0x1230))]
theorem test_words_class_A : ∀ x ∈ wordsA, decodeTableWord 64 x.1 = some x.2 := by decide
def wordsB : List (Nat × Instr) := [
  (0x0000003E05015B01, .sendcmd (tM 0 20 0 21 0x0 0x0)), (0x1230003E03555B05, .tlwait (tM 0 13 10 21 0x0 0x1230)),
  (0x1230003E08155B09, .tlread (tM 1 0 10 21 0x0 0x1230)), (0x1230003E08155B0D, .tlsig (tM 1 0 10 21 0x0 0x1230)),
  (0x1230023E00140B11, .tlclr (tM 0 0 10 0 0x2 0x1230)), (0x0000003E03401B15, .mtcw (tM 0 13 0 1 0x0 0x0)),
  (0x0000003E00055B19, .mtcr (tM 0 0 2 21 0x0 0x0))]
theorem test_words_class_B : ∀ x ∈ wordsB, decodeTableWord 64 x.1 = some x.2 := by decide
def wordsC : List (Nat × Instr) := [
  (0x0005113E18155C01, .rld (tM 3 0 10 21 0x11 0x5)), (0x0000063E1B540C05, .rst (tM 3 13 10 0 0x6 0x0)),
  (0x0005113E1B555C09, .ramo (tM 3 13 10 21 0x11 0x5)), (0x0043113E03555C0D, .rcas (tM 0 13 10 21 0x11 0x43)),
  (0x0000003E00000C11, .rack (tM 0 0 0 0 0x0 0x0)), (0x0000003E00015C15, .rstat (tM 0 0 0 21 0x0 0x0)),
  (0x0000003E05015C19, .coll (tM 0 20 0 21 0x0 0x0)), (0x0005003E05155C1D, .launch (tM 0 20 10 21 0x0 0x5))]
theorem test_words_class_C : ∀ x ∈ wordsC, decodeTableWord 64 x.1 = some x.2 := by decide
def wordsD : List (Nat × Instr) := [
  (0x1230003E00000D01, .trap (tM 0 0 0 0 0x0 0x1230)), (0x0000003E00140D05, .eret (tM 0 0 10 0 0x0 0x0)),
  (0x0821003E00015D09, .csrr (tM 0 0 0 21 0x0 0x821)), (0x0821003E00140D0D, .csrw (tM 0 0 10 0 0x0 0x821)),
  (0x0821003E00155D11, .csrx (tM 0 0 10 21 0x0 0x821)), (0x0000003E00000D15, .stretry (tM 0 0 0 0 0x0 0x0)),
  (0x0000003E00000D19, .stdrop (tM 0 0 0 0 0x0 0x0)), (0x0000003E18000D1D, .killdom (tM 3 0 0 0 0x0 0x0)),
  (0x0000003E00140D21, .seedw (tM 0 0 10 0 0x0 0x0)), (0x0010003E00015D25, .seedr (tM 0 0 0 21 0x0 0x10)),
  (0x0000023E08000D29, .tlbinv (tM 1 0 0 0 0x2 0x0))]
theorem test_words_class_D : ∀ x ∈ wordsD, decodeTableWord 64 x.1 = some x.2 := by decide
def wordsE : List (Nat × Instr) := [
  (0x0000003E08015E01, .tsread (tM 1 0 0 21 0x0 0x0)), (0x0000003E00155E05, .perfrd (tM 0 0 10 21 0x0 0x0)),
  (0x0000003E00140E09, .tracev (tM 0 0 10 0 0x0 0x0)), (0x0000003E00000E0D, .brk (tM 0 0 0 0 0x0 0x0)),
  (0x0821003E00000E11, .logmark (tM 0 0 0 0 0x0 0x821))]
theorem test_words_class_E : ∀ x ∈ wordsE, decodeTableWord 64 x.1 = some x.2 := by decide

/-! Every S form, from R44 and R45. -/
def wordsS : List (Nat × Instr) := [
  (0x00000000, .nopS), (0x006AAA04, .addS 21 10 13), (0x006AAA08, .subS 21 10 13),
  (0x006AAA0C, .andS 21 10 13), (0x006AAA10, .orS 21 10 13), (0x006AAA14, .xorS 21 10 13),
  (0x006AAA18, .shlS 21 10 13), (0x006AAA1C, .shrS 21 10 13), (0x006AAA20, .sarS 21 10 13),
  (0x0002AA24, .movS 21 10), (0xF302AA28, .addiS 21 10 0xF3), (0x126A8A2C, .cmpS 5 10 13 18),
  (0xF302AA30, .cincS 21 10 0xF3), (0xF302AA34, .ldDwordS 21 10 0xF3), (0xF36A8038, .stDwordS 10 13 0xF3),
  (0xF302AA3C, .ldWordS 21 10 0xF3), (0xF36A8040, .stWordS 10 13 0xF3), (0xFFFFC044, .braS 0x3FFFF0),
  (0x00000048, .retS), (0x0000004C, .yieldS), (0x00000050, .endS)]
theorem test_words_short : ∀ x ∈ wordsS, decodeTableWord 32 x.1 = some x.2 := by decide
/-! Every command record: its opcode (R284), its sub-operation (R352) or its mode (R332), with SIG and timeline 5. -/
def tRecOf (n : Nat) : Record := ⟨⟨BitVec.ofNat 128 n, false⟩, Cap.zero, Cap.zero, Cap.zero⟩
def wordsR : List (Nat × (Record → Instr)) := [
  (0x50110, .mzero), (0x50111, .mwload), (0x50112, .mma), (0x50113, .mmat),
  (0x50114, .mldt), (0x50115, .mstt), (0x50116, .mlda), (0x50117, .mdrain),
  (0x8000000000000000000050117, .mdrainEval), (0x10000000000000000000050117, .mdrainApply), (0x50118, .madj), (0x50119, .msig),
  (0x50120, .cpy), (0x50121, .cpyx), (0x50122, .gath), (0x50123, .scat),
  (0x50124, .dispatch), (0x50130, .mktcfgSetup), (0x10000050130, .mktcfgCaps), (0x20000050130, .mktcfgBuffers),
  (0x30000050130, .mktcfgRelease), (0x50131, .mktsub), (0x50132, .auct), (0x50133, .mktnorm),
  (0x50134, .mktwrp), (0x50135, .mktrdp), (0x50136, .mktstat), (0x50140, .allred),
  (0x50141, .redscat), (0x50142, .allgath), (0x50143, .reshard), (0x50144, .bcast),
  (0x50145, .rsred)]
theorem test_records : ∀ x ∈ wordsR, decodeRecord (tRecOf x.1) = some (x.2 (tRecOf x.1)) := by decide
theorem test_records_reserved : ∀ op ∈ [0x00, 0x0F, 0x1A, 0x25, 0x2F, 0x37, 0x46, 0xFF], decodeRecord (tRecOf op) = none := by decide
/-! The spec's own encodings: R50 and "Three encodings worked out", the FFMA of "Scalar instructions", the words of "Asynchronous engines" and of
"Six tokens, three experts", the VADD and SHSET of "Vector instructions", and the system instructions' examples. -/
def tP (ext b a d : Nat) (imm : Nat := 0) : MForm := ⟨BitVec.ofNat 5 ext, BitVec.ofNat 5 b, BitVec.ofNat 5 a, BitVec.ofNat 5 d, 0, BitVec.ofNat 16 imm, false, false, false, 0, none⟩
def wordsX : List (List (BitVec 32) × Instr) := [
  ([0x00398A04], .addS 5 6 7), ([0x01CC5001, 0x13], .add { tP 0 7 6 5 with pred := 3, yield := true }),
  ([0x000C5002, 0, 0x186A0], .add { tP 0 0 6 5 with lit := some 100000 }), ([0xFFFFC044], .braS 0x3FFFF0),
  ([0x4812850E, 2, 0x3FC00000], .ffma { tP 9 0 9 8 with pred := 2, lit := some 0x3FC00000 }),
  ([0x0000C042, 0, 0x50120], .ldi { tP 0 0 0 12 with lit := some 0x50120 }), ([0x0006D22D, 0], .cmov (tP 0 0 3 13)),
  ([0x0000F041, 0x10000000], .ldi (tP 0 0 0 15 4096)), ([0x03014B01, 0], .sendcmd (tP 0 12 0 20)), ([0x050F5B05, 0x00280000], .tlwait (tP 0 20 7 21 40)),
  ([0x0006D21A, 0, 0x80], .cinc { tP 0 0 3 13 with lit := some 0x80 }), ([0x0205422C], .cmpS 1 21 0 2), ([0x00000401, 0x00180001], .bra { tP 0 0 0 0 0x18 with pred := 1 }),
  ([0x0004243C], .ldWordS 18 16 0), ([0x08252129, 0x02100000], .bfx (tP 1 0 18 18 0x210)), ([0x48262601, 0], .ld (tP 9 0 19 2)),
  ([0x4314A901, 0x22201100], .vadd { tP 8 12 10 10 0x2220 with typ := 0x11 }), ([0x00002A51, 0x01000900], .shset { tP 0 0 0 2 256 with typ := 9 }),
  ([0x08000D1D, 0], .killdom (tP 1 0 0 0)), ([0x08000D29, 0x200], .tlbinv { tP 1 0 0 0 with typ := 2 }), ([0x00128E05, 0], .perfrd (tP 0 0 9 8)), ([0x00000E11, 0x00050000], .logmark (tP 0 0 0 0 5))]
theorem test_words_of_the_spec : ∀ x ∈ wordsX, decode (wordBytes x.1) = .ok x.2 (4 * x.1.length) ∧ encode x.2 = some x.1 := by decide

/-! Ill-formed terms, one for each check of an encoding (R44, R52 to R54, R78, R284), and words that the decoder rejects. -/
theorem test_ill_formed : ∀ i ∈ [Instr.illegalEncoding .lengthCode, .cmpS 1 2 3 12, .cmpS 1 2 3 28, .add { tF with ext := 4 }, .abs { tF with b := 1 }, .pand { tF with d := 8, a := 1, b := 1 },
    .mtcw { tF with d := 4 }, .shst { tF with b := 16 }, .bfx { tF with b := 0, imm := 0x1000 }, .fcvt { tF with b := 0, typ := 0x0F }, .ld { tF with b := 0, ext := 5 },
    .madd { tF with lit := some 1 }, .add { tF with lit := some 1 }, .ldi { tF with a := 0, b := 0, imm := 1, lit := some 1 }, .domsetNew { tF with typ := 1 }, .amo { tF with ext := 31 },
    .seedr { tF with a := 0, b := 0, imm := 64 }, .cpy (tRecOf 0x21), .mdrain (tRecOf (0x17 + 2 ^ 99)), .mktcfgSetup (tRecOf (0x30 + 2 ^ 40))], ¬WellFormed i := by decide
theorem test_rejects : ∀ x ∈ [([0x000000FC], Reject.sOpcode), ([0x00000054], .sOpcode), ([0x01000004], .sField), ([0x0C00002C], .sField), ([3], .lengthCode), ([0x00000F01, 0], .opcode),
    ([0x20000001, 0], .field), ([0x00000001, 0x40], .field), ([0x00000001, 0x100], .field)], decode (wordBytes x.1) = .reject x.2 (if x.1.length = 1 then 4 else 8) := by decide
theorem test_typed_reject : decode (wordBytes [0x00000531, 0x0F00]) = .reject (.typeCode 0x14C ⟨0, 0, 0, 0, 0x0F, 0, false, false, false, 0, none⟩) 8 := by decide

/-! ## Results, from the spec's worked examples -/

def tOut1 (i : Instr) (s : State) : State := tNext (exec i s)
/-- The pair of R70. -/
theorem test_ldi_ldhi : let s := tOut1 (.ldi { tF with b := 0, a := 0, d := 5, lit := some 0x80000000 }) tS
    (s.reg 5).dv = 0xFFFFFFFF80000000 ∧ ((tOut1 (.ldhi { tF with b := 0, a := 5, d := 5, imm := 0xAB }) s).reg 5).dv = 0x000000AB80000000 := by decide
/-- The g3 of R77: base 0x40000000, length 0x04000000, cursor 0x40000100. -/
def tBounds (len : Word) : State := (tR 3 (mkCap true 0x7F 7 0x80000 0x40000000 0x40000100)).modSl fun sl => sl.setReg 6 (.ofWord len)
def tB : MForm := { tF with a := 3, d := 10 }
theorem test_cbnd : let c := (tOut1 (.cbnd tB) (tBounds 3000001)).reg 10
    c = mkCap true 0x7F 2 0xB71B1 0x40000100 0x40000100 ∧ c.top = 0x402DC7C4 ∧ c.len = 3000004 := by decide
theorem test_cbndx : tOut1 (.cbndx tB) (tBounds 3000001) = (tBounds 3000001).takeTrap cMonotonic 0 := by decide
theorem test_cbndx_exact : (tOut1 (.cbndx tB) (tBounds 3000004)).reg 10 = (tOut1 (.cbnd tB) (tBounds 3000001)).reg 10 := by decide
/-- "A worked capability". -/
def tG9 : Cap := ⟨0xC000600000001234000000001234_0100, true⟩
theorem test_worked_capability : tG9.perm = 0b1100000 ∧ tG9.base = 0x12340000 ∧ tG9.cursor = 0x12340100 ∧ tG9.len = 0x6000 ∧ tG9.top = 0x12346000 ∧ tG9.dv = 0x12340100 ∧
    capCheck tG9 (0x12340100 - 0x100) 4 pL = none ∧ capCheck tG9 0x12345FC0 64 pS = none ∧ capCheck tG9 0x123460F8 8 pS = some cBounds := by decide
/-- R41, R115, R117: generator 0 of a fresh strand, its next state, and the conversion to BF16 with stochastic rounding. -/
theorem test_generators : (seedDerive 0)[0] = 0x538AF778 := by decide
/-- The same section: FP32 0x3F80D800 to BF16 under SR. -/
theorem test_stochastic : genStep 0x538AF778 = 0x29C57BBC ∧ roundF fmtBF16 ⟨5, false, 0x29C57BBC, none⟩ (of32 0x3F80D800) = (0x3F81, NX) := by decide
/-- R87: FMIN gives the NaN, FMINN the number; a signalling NaN sets NV. -/
def tFl (i : Instr) (x y : Nat) : Word × BitVec 6 :=
  let s := tOut1 i ((tR 5 (.ofWord (BitVec.ofNat 64 x))).modSl fun sl => sl.setReg 6 (.ofWord (BitVec.ofNat 64 y)))
  ((s.reg 7).dv, s.sl.fstat)
theorem test_minimum : tFl (.fmin tF) 0x7FC00000 0x3F800000 = (0x7FC00000, 0) ∧ tFl (.fminn tF) 0x7FC00000 0x3F800000 = (0x3F800000, 0) ∧
    tFl (.fminn tF) 0x7F800001 0x3F800000 = (0x3F800000, NV) ∧ tFl (.fmax tF) 0x80000000 0 = (0, 0) := by decide
/-- R72: division by zero and of the most negative number by -1. -/
def tDiv (a b : Word) : State := (tR 5 (.ofWord a)).modSl fun sl => sl.setReg 6 (.ofWord b)
theorem test_division : ((tOut1 (.div tF) (tDiv 5 0)).reg 7).dv = BitVec.allOnes 64 ∧ ((tOut1 (.rem tF) (tDiv 5 0)).reg 7).dv = 5 ∧
    ((tOut1 (.div tF) (tDiv 0x8000000000000000 (BitVec.allOnes 64))).reg 7).dv = 0x8000000000000000 := by decide
/-- R462: three ranks with V = 2. -/
theorem test_rsred : treeNode rsNode (fun q => ([[0x40400000, 0x40000000, 0x40800000, 0x40000000], [0xFF800000, 0, 0, 0], [0x3F800000, 0x40800000, 0x41000000, 0x40800000]] : List (List Nat)).getD q [])
    3 10 0 = [0x40400000, 0x40400000, 0x40C00000, 0x40400000] := by decide
/-- "A projected drain worked through": rows A and B, their records, and the gradient of row A; the cone row (3, 1, 2, 2). -/
theorem test_projected_rows : let a := drainRow 1 0 [0x40000000, 0x3FC00000, 0x3F800000, 0x3F000000, 0x3E800000, 0, 0xBF000000, 0xBF800000] 0x3F800000 0
    let b := drainRow 1 0 [0x3F000000, 0x3F000000, 0x3F000000, 0x3F000000, 0xBF800000, 0xBF800000, 0xBF800000, 0xBF800000] 0x3F800000 0
    a.out = [0x3F400000, 0x3E800000, 0, 0, 0, 0, 0, 0] ∧ a.mask = 3 ∧ b.out = [0x3E800000, 0x3E800000, 0x3E800000, 0x3E800000, 0, 0, 0, 0] ∧ b.mask = 15 ∧
    drainRecord 1 0 0x100020 a = 0x00000000001000203FA0000000080002 ∧ drainRecord 1 0 0x100030 b = 0x00000000001000303E80000000080004 := by decide
theorem test_cone : let r := drainRow 5 0 [0x40400000, 0x3F800000, 0x40000000, 0x40000000] 0 0
    r.out = [0x40000000, 0x40000000, 0x40000000, 0x40000000] ∧ r.mask = 0x0D ∧ r.count = 3 ∧ r.tau = 0 := by decide
theorem test_gradients : madjRow 1 [0x3F800000, 0x3F000000, 0x40000000, 0, 0, 0, 0, 0] 0x3FA0000000080002 3 [] 0x3F800000 = [0x3E800000, 0xBE800000, 0, 0, 0, 0, 0, 0] ∧
    madjRow 5 [0x3F800000, 0x40400000, 0x40800000, 0xC0000000] 0x280003 0x0D [] 0 = [0x40000000, 0x40000000, 0x40800000, 0xC0000000] := by decide
/-- "Six tokens, three experts" (R376), and the same lot with a limit of one round. -/
def tLot6 : AuctionIn := ⟨1, [2, 2, 2], 256, [[40, 30, 10], [38, 34, 12], [36, 20, 30], [35, 33, 15], [20, 25, 24], [10, 12, 11]]⟩
theorem test_auction : let o := tLot6.run 16 [0, 0, 0]; o.rounds = 3 ∧ o.fallback = [] ∧ o.prices = [0x700, 0x400, 0x400] ∧
    (List.range 6).map (fun i => (o.entry i).toNat) = [0x00000, 0x10000, 0x00001, 0x10001, 0x20000, 0x20001] := by decide
theorem test_auction_one_round : let o := tLot6.run 1 [0, 0, 0]; o.rounds = 1 ∧ o.fallback.length = 2 ∧ o.prices = [0x700, 0x200, 0] := by decide
/-- The record that SHSET builds in "A worked case". -/
def tShape1 (l : List (Nat × Nat)) (s : State) : State :=
  l.foldl (fun s x => tOut1 (.shset { tF with a := 0, b := 0, d := 2, typ := BitVec.ofNat 8 x.1, imm := BitVec.ofNat 16 x.2 }) s) s
theorem test_shape_record : (tShape1 [(15, 0), (0, 0x11), (2, 2), (4, 64), (5, 48), (8, 2), (9, 256)] tS).shape 2 =
    BitVec.ofNat 256 (leNat [0x11, 0, 2, 0, 0x40, 0, 0x30, 0, 0, 0, 0, 0, 2, 0, 0, 0, 0, 1, 0, 0]) := by decide
/-- TRAP takes the handler with the record. -/
theorem test_trap_and_return : let t := tOut1 (.trap { tF with a := 0, b := 0, d := 0, imm := 7 }) tS
    t.sl.hm = true ∧ t.sl.pcc.cursor = tHeader.base + 0x80 ∧ (t.reg 1).tag = true := by decide
/-- Every kind of word runs as the first instruction after reset. -/
theorem test_first_step : (tNext (step (State.reset.withFetchWord 64 0x0007000000000D01))).powered = true ∧
    ((tNext (step (State.reset.withFetchWord 32 0x05000A28))).reg 5).dv = 5 := by decide

end Sys2Proof.Tests
end

section
/-!
PROOFS. The encoding: how a word is made of its fields and of its bytes, what each of the decoder's steps accepts, and from these that the
decoder accepts exactly the encodings of well-formed instructions.
-/
namespace Sys2Proof

/-! ## The fields of an S form -/

section
variable (op : BitVec 7) (d a b : BitVec 5) (imm : BitVec 8)

theorem getLsbD_sWord (i : Nat) : (sWord op d a b imm).getLsbD i =
    if i < 2 then false else if i < 9 then op.getLsbD (i - 2) else if i < 14 then d.getLsbD (i - 9)
    else if i < 19 then a.getLsbD (i - 14) else if i < 24 then b.getLsbD (i - 19) else imm.getLsbD (i - 24) := by
  simp only [sWord, BitVec.getLsbD_append]
  grind

@[simp] theorem sWord_lengthCode : (sWord op d a b imm).setWidth 2 = 0#2 := BitVec.setWidth_append_eq_right

@[simp] theorem sWord_fields :
    (sWord op d a b imm).extractLsb' 2 7 = op ∧ (sWord op d a b imm).extractLsb' 9 5 = d ∧ (sWord op d a b imm).extractLsb' 14 5 = a ∧
    (sWord op d a b imm).extractLsb' 19 5 = b ∧ (sWord op d a b imm).extractLsb' 24 8 = imm := by
  refine ⟨?_, ?_, ?_, ?_, ?_⟩
  all_goals
    ext i hi
    simp only [BitVec.getElem_extractLsb', getLsbD_sWord]
    grind

end

theorem getLsbD_of_lengthCode {w : BitVec 32} {c : BitVec 2} (h : w.setWidth 2 = c) (i : Nat) (hi : i < 2) :
    w.getLsbD i = c.getLsbD i := by
  rw [← h, BitVec.getLsbD_setWidth, decide_eq_true hi, Bool.true_and]

theorem sWord_of_fields {w : BitVec 32} (h : w.setWidth 2 = 0#2) :
    sWord (w.extractLsb' 2 7) (w.extractLsb' 9 5) (w.extractLsb' 14 5) (w.extractLsb' 19 5) (w.extractLsb' 24 8) = w := by
  have hlow := getLsbD_of_lengthCode h
  ext i hi
  rw [← BitVec.getLsbD_eq_getElem, getLsbD_sWord]
  simp only [BitVec.getLsbD_extractLsb']
  grind

/-! ## The word of the S form of BRA -/

/-- The word that `encode` gives BRA, whose offset takes the place of imm, b, a and the upper bits of d (R45). -/
def braWord (off : BitVec 22) : BitVec 32 := off ++ (0 : BitVec 1) ++ (0x11 : BitVec 7) ++ (0 : BitVec 2)

theorem encode_braS (off : BitVec 22) : encode (.braS off) = some [braWord off] := rfl

theorem getLsbD_braWord (off : BitVec 22) (i : Nat) : (braWord off).getLsbD i =
    if i < 2 then false else if i < 9 then (0x11#7).getLsbD (i - 2) else if i = 9 then false else off.getLsbD (i - 10) := by
  simp only [braWord, BitVec.getLsbD_append]
  grind

theorem braWord_lengthCode (off : BitVec 22) : (braWord off).setWidth 2 = 0#2 := BitVec.setWidth_append_eq_right

theorem braWord_fields (off : BitVec 22) : (braWord off).extractLsb' 2 7 = 0x11#7 ∧ (braWord off).getLsbD 9 = false ∧
    (braWord off).extractLsb' 10 22 = off := by
  refine ⟨?_, (getLsbD_braWord off 9).trans (by simp), ?_⟩
  all_goals
    ext i hi
    simp only [BitVec.getElem_extractLsb', getLsbD_braWord]
    grind

theorem braWord_of_fields {w : BitVec 32} (h0 : w.setWidth 2 = 0#2) (hop : w.extractLsb' 2 7 = 0x11#7) (h9 : w.getLsbD 9 = false) :
    braWord (w.extractLsb' 10 22) = w := by
  have hlow := getLsbD_of_lengthCode h0
  ext i hi
  rw [← BitVec.getLsbD_eq_getElem, getLsbD_braWord, ← hop]
  simp only [BitVec.getLsbD_extractLsb']
  grind

/-! ## The fields of an M or L form -/

theorem getLsbD_mWord0 (op : Nat) (f : MForm) (i : Nat) : (mWord0 op f).getLsbD i =
    if i < 2 then (if f.lit.isSome then 0b10 else 0b01 : BitVec 2).getLsbD i else if i < 12 then (BitVec.ofNat 10 op).getLsbD (i - 2)
    else if i < 17 then f.d.getLsbD (i - 12) else if i < 22 then f.a.getLsbD (i - 17)
    else if i < 27 then f.b.getLsbD (i - 22) else f.ext.getLsbD (i - 27) := by
  simp only [mWord0, BitVec.getLsbD_append]
  grind

theorem getLsbD_mWord1 (f : MForm) (i : Nat) : (mWord1 f).getLsbD i =
    if i < 3 then f.pred.getLsbD i else if i = 3 then f.neg else if i = 4 then f.yield else if i = 5 then f.cold
    else if i < 8 then false else if i < 16 then f.typ.getLsbD (i - 8) else f.imm.getLsbD (i - 16) := by
  simp only [mWord1, BitVec.getLsbD_append, BitVec.getLsbD_ofBool]
  grind

@[simp] theorem mWord0_lengthCode (op : Nat) (f : MForm) :
    (mWord0 op f).setWidth 2 = if f.lit.isSome then 0b10 else 0b01 := BitVec.setWidth_append_eq_right

@[simp] theorem mWord1_zero (f : MForm) : (mWord1 f).extractLsb' 6 2 = 0 := by
  ext i hi
  simp only [BitVec.getElem_extractLsb', getLsbD_mWord1]
  grind

theorem mWord0_op {op : Nat} (f : MForm) (h : op < 1024) : ((mWord0 op f).extractLsb' 2 10).toNat = op := by
  have : (mWord0 op f).extractLsb' 2 10 = BitVec.ofNat 10 op := by
    ext i hi
    simp only [BitVec.getElem_extractLsb', getLsbD_mWord0]
    grind
  rw [this, BitVec.toNat_ofNat, Nat.mod_eq_of_lt h]

@[simp] theorem mFields_mWord (op : Nat) (f : MForm) : mFields (mWord0 op f) (mWord1 f) f.lit = f := by
  obtain ⟨ext, b, a, d, typ, imm, cold, yield, neg, pred, lit⟩ := f
  simp only [mFields, getLsbD_mWord1, MForm.mk.injEq]
  refine ⟨?_, ?_, ?_, ?_, ?_, ?_, by simp, by simp, by simp, ?_, trivial⟩
  all_goals
    ext i hi
    simp only [BitVec.getElem_extractLsb', getLsbD_mWord0, getLsbD_mWord1]
    grind

theorem mWord0_of_fields {w0 w1 : BitVec 32} {lit : Option (BitVec 32)} (h : w0.setWidth 2 = if lit.isSome then 0b10 else 0b01) :
    mWord0 (w0.extractLsb' 2 10).toNat (mFields w0 w1 lit) = w0 := by
  have hlow := getLsbD_of_lengthCode h
  ext i hi
  rw [← BitVec.getLsbD_eq_getElem, getLsbD_mWord0]
  simp only [mFields, BitVec.getLsbD_extractLsb', BitVec.ofNat_toNat, BitVec.setWidth_eq]
  grind

theorem mWord1_of_fields {w0 w1 : BitVec 32} {lit : Option (BitVec 32)} (h : w1.extractLsb' 6 2 = 0#2) :
    mWord1 (mFields w0 w1 lit) = w1 := by
  have h6 : w1.getLsbD 6 = false := by simpa using congrArg (BitVec.getLsbD · 0) h
  have h7 : w1.getLsbD 7 = false := by simpa using congrArg (BitVec.getLsbD · 1) h
  ext i hi
  rw [← BitVec.getLsbD_eq_getElem, getLsbD_mWord1]
  simp only [mFields, BitVec.getLsbD_extractLsb']
  grind

/-! ## The bytes of a word -/

theorem bytesOf_toNat (w : BitVec 32) :
    bytesOf 4 w.toNat = [w.extractLsb' 0 8, w.extractLsb' 8 8, w.extractLsb' 16 8, w.extractLsb' 24 8] := by
  simp [bytesOf, BitVec.extractLsb', Nat.shiftRight_eq_div_pow, Nat.div_div_eq_div_mul]

theorem getLsbD_le32 (b0 b1 b2 b3 : Byte) (i : Nat) : (le32 b0 b1 b2 b3).getLsbD i =
    if i < 8 then b0.getLsbD i else if i < 16 then b1.getLsbD (i - 8) else if i < 24 then b2.getLsbD (i - 16)
    else b3.getLsbD (i - 24) := by
  simp only [le32, BitVec.getLsbD_append]
  grind

theorem bytesOf_le32 (b0 b1 b2 b3 : Byte) : bytesOf 4 (le32 b0 b1 b2 b3).toNat = [b0, b1, b2, b3] := by
  simp only [bytesOf_toNat, List.cons.injEq]
  refine ⟨?_, ?_, ?_, ?_, trivial⟩
  all_goals
    ext i hi
    simp only [BitVec.getElem_extractLsb', getLsbD_le32]
    grind

theorem exists_le32 (w : BitVec 32) : ∃ b0 b1 b2 b3, w = le32 b0 b1 b2 b3 := by
  refine ⟨w.extractLsb' 0 8, w.extractLsb' 8 8, w.extractLsb' 16 8, w.extractLsb' 24 8, ?_⟩
  ext i hi
  simp only [← BitVec.getLsbD_eq_getElem, getLsbD_le32, BitVec.getLsbD_extractLsb']
  grind

theorem wordBytes_cons (w : BitVec 32) (ws : List (BitVec 32)) : wordBytes (w :: ws) = bytesOf 4 w.toNat ++ wordBytes ws := rfl

theorem length_bytesOf (n w : Nat) : (bytesOf n w).length = n := by
  induction n generalizing w with
  | zero => rfl
  | succ n ih => simp [bytesOf, ih]

theorem length_wordBytes (ws : List (BitVec 32)) : (wordBytes ws).length = 4 * ws.length := by
  induction ws with
  | nil => rfl
  | cons w ws ih => rw [wordBytes_cons, List.length_append, length_bytesOf, ih, List.length_cons]; omega

/-! ## Opcodes and constructors -/

/-- Class 0x8 is the one with a cell of several constructors: DOMSET, whose type field chooses among three. -/
theorem form_of_mk8 {n : Nat} {f : MForm} {i : Instr} (h : mk8 n f = some i) : i.form = some (64 * 8 + n, f) := by
  unfold mk8 at h
  split at h
  case h_9 =>
    repeat' split at h
    all_goals cases h
    all_goals rfl
  all_goals cases h <;> rfl

/-- R51 gives every cell its own constructor: `mkM` and `Instr.form` are inverse where `mkM` answers. -/
theorem form_of_mkM {op : Nat} {f : MForm} {i : Instr} (h : mkM op f = some i) : i.form = some (op, f) := by
  rw [← Nat.div_add_mod op 64]
  simp only [mkM, mk0, mk1, mk2, mk3, mk4, mk5, mk6, mk7, mk9, mkA, mkB, mkC, mkD, mkE] at h
  generalize op / 64 = c, op % 64 = n at h ⊢
  split at h
  -- the last branch is the class without operations
  case h_16 => cases h
  case h_9 => exact form_of_mk8 h
  all_goals split at h <;> cases h <;> rfl

theorem op_lt_of_mkM {op : Nat} {f : MForm} {i : Instr} (h : mkM op f = some i) : op < 1024 := by
  unfold mkM at h
  split at h
  case h_16 => cases h
  all_goals omega

theorem encode_of_form {i : Instr} {op : Nat} {f : MForm} (h : i.form = some (op, f)) : encode i = some (mWords op f) := by
  cases i <;> cases h <;> rfl

theorem wellFormed_iff_of_form {i : Instr} {op : Nat} {f : MForm} (h : i.form = some (op, f)) :
    WellFormed i ↔ formCheck op f = none ∧ mkM op f = some i := by
  unfold WellFormed wfCheck
  split
  case h_36 => cases hc : formCheck op f <;> simp [h, hc]
  all_goals cases h

/-! ## What the decoder accepts -/

theorem wellFormed_cmpS_iff {d : BitVec 3} {a b c : BitVec 5} : WellFormed (.cmpS d a b c) ↔ c.toNat % 16 < 12 := by
  simp [WellFormed, wfCheck]

theorem setWidth_setWidth_of_toNat_lt {v w : Nat} {x : BitVec v} (h : x.toNat < 2 ^ w) : (x.setWidth w).setWidth v = x := by
  apply BitVec.eq_of_toNat_eq
  rw [BitVec.toNat_setWidth, BitVec.toNat_setWidth, Nat.mod_eq_of_lt h, Nat.mod_eq_of_lt x.isLt]

theorem decodeS_cmpWord (d : BitVec 3) (a b c : BitVec 5) (hcond : c.toNat % 16 < 12) :
    decodeS (sWord 0x0B (d.setWidth 5) a b (c.setWidth 8)) = .ok (.cmpS d a b c) := by
  have hd : d.toNat % 32 < 8 := by omega
  have hc : c.toNat % 256 < 32 := by omega
  simp [decodeS, hd, hc, hcond]

theorem decodeS_braWord (off : BitVec 22) : decodeS (braWord off) = .ok (.braS off) := by
  obtain ⟨hop, h9, hoff⟩ := braWord_fields off
  simp [decodeS, hop, h9, hoff, -BitVec.extractLsb'_toNat, -BitVec.getLsbD_eq_getElem]

theorem decodeS_of_encode {i : Instr} {ws : List (BitVec 32)} (hf : i.form = none) (hi : WellFormed i) (he : encode i = some ws) :
    ∃ w, ws = [w] ∧ w.setWidth 2 = 0#2 ∧ decodeS w = .ok i := by
  cases i <;> cases hf <;> cases he
  case cmpS d a b c =>
    exact ⟨_, rfl, sWord_lengthCode .., decodeS_cmpWord d a b c (wellFormed_cmpS_iff.mp hi)⟩
  case braS off => exact ⟨_, rfl, braWord_lengthCode off, decodeS_braWord off⟩
  all_goals exact ⟨_, rfl, sWord_lengthCode .., by simp [decodeS]⟩

theorem ok_of_ite_ok {c : Bool} {i j : Instr} {e : Reject} (h : (if c then .ok i else .error e : Except Reject Instr) = .ok j) :
    c = true ∧ i = j := by
  cases c <;> cases h
  exact ⟨rfl, rfl⟩

theorem encode_of_decodeS {w : BitVec 32} {i : Instr} (hw : w.setWidth 2 = 0#2) (h : decodeS w = .ok i) :
    WellFormed i ∧ encode i = some [w] := by
  obtain ⟨op, d, a, b, imm, rfl⟩ : ∃ op d a b imm, w = sWord op d a b imm := ⟨_, _, _, _, _, (sWord_of_fields hw).symm⟩
  obtain ⟨n, hn, rfl⟩ : ∃ n, op.toNat = n ∧ op = BitVec.ofNat 7 n := ⟨_, rfl, by simp⟩
  simp only [decodeS, sWord_fields, hn] at h
  split at h
  -- the S-opcodes that R45 leaves unassigned
  case h_22 => cases h
  all_goals obtain ⟨hc, rfl⟩ := ok_of_ite_ok h
  -- BRA, whose offset is no field of `sWord`
  case h_18 =>
    rw [encode_braS, braWord_of_fields hw (sWord_fields ..).1 (by simpa using hc)]
    exact ⟨rfl, rfl⟩
  all_goals simp only [Bool.and_eq_true, decide_eq_true_eq] at hc
  -- CMP, whose d and imm hold fewer bits than their fields
  case h_12 =>
    obtain ⟨⟨hd, himm⟩, hcond⟩ := hc
    refine ⟨wellFormed_cmpS_iff.mpr ?_, ?_⟩
    · rwa [BitVec.toNat_setWidth, Nat.mod_eq_of_lt himm]
    · show some [sWord 0x0B ((d.setWidth 3).setWidth 5) a b ((imm.setWidth 5).setWidth 8)] = _
      rw [setWidth_setWidth_of_toNat_lt hd, setWidth_setWidth_of_toNat_lt himm]
      rfl
  all_goals
    simp only [hc]
    exact ⟨rfl, rfl⟩

/-- The checks of R54 that an accepted M or L form has passed. -/
theorem decodeM_eq_ok_iff {w0 w1 : BitVec 32} {lit : Option (BitVec 32)} {i : Instr} :
    decodeM w0 w1 lit = .ok i ↔ w1.extractLsb' 6 2 = (0 : BitVec 2) ∧
      formCheck (w0.extractLsb' 2 10).toNat (mFields w0 w1 lit) = none ∧ mkM (w0.extractLsb' 2 10).toNat (mFields w0 w1 lit) = some i := by
  simp only [decodeM]
  generalize (w0.extractLsb' 2 10).toNat = op, mFields w0 w1 lit = f
  cases hs : specOf op f with
  | none => simp [formCheck, hs]
  | some s =>
    by_cases hz : w1.extractLsb' 6 2 = 0#2
    · cases formCheck op f <;> cases mkM op f <;> simp [hz]
    · simp [hz]

theorem decodeM_of_form {i : Instr} {op : Nat} {f : MForm} (hf : i.form = some (op, f)) (hi : WellFormed i) :
    decodeM (mWord0 op f) (mWord1 f) f.lit = .ok i := by
  obtain ⟨hc, hm⟩ := (wellFormed_iff_of_form hf).mp hi
  rw [decodeM_eq_ok_iff, mFields_mWord, mWord0_op f (op_lt_of_mkM hm)]
  exact ⟨mWord1_zero f, hc, hm⟩

theorem encode_of_decodeM {w0 w1 : BitVec 32} {lit : Option (BitVec 32)} {i : Instr}
    (hw : w0.setWidth 2 = if lit.isSome then 0b10 else 0b01) (h : decodeM w0 w1 lit = .ok i) :
    WellFormed i ∧ encode i = some (w0 :: w1 :: lit.toList) := by
  obtain ⟨hz, hc, hm⟩ := decodeM_eq_ok_iff.mp h
  have hf := form_of_mkM hm
  refine ⟨(wellFormed_iff_of_form hf).mpr ⟨hc, hm⟩, ?_⟩
  rw [encode_of_form hf, mWords, mWord0_of_fields hw, mWord1_of_fields hz]
  rfl

/-! ## The decoder on bytes -/

theorem Decoded.of_eq_ok_iff {r : Except Reject Instr} {i : Instr} {n len : Nat} : Decoded.of r n = .ok i len ↔ r = .ok i ∧ len = n := by
  cases r <;> simp [Decoded.of, eq_comm]

theorem wordBytes_le32_cons (b0 b1 b2 b3 : Byte) (ws : List (BitVec 32)) :
    wordBytes (le32 b0 b1 b2 b3 :: ws) = b0 :: b1 :: b2 :: b3 :: wordBytes ws := by
  rw [wordBytes_cons, bytesOf_le32]
  rfl

theorem decode_sForm {w : BitVec 32} (tail : List Byte) (hw : w.setWidth 2 = 0#2) :
    decode (wordBytes [w] ++ tail) = .of (decodeS w) 4 := by
  obtain ⟨b0, b1, b2, b3, rfl⟩ := exists_le32 w
  rw [wordBytes_le32_cons]
  simp [decode, hw]

theorem decode_mForm {w0 w1 : BitVec 32} (tail : List Byte) (hw : w0.setWidth 2 = 0b01#2) :
    decode (wordBytes [w0, w1] ++ tail) = .of (decodeM w0 w1 none) 8 := by
  obtain ⟨b0, b1, b2, b3, rfl⟩ := exists_le32 w0
  obtain ⟨c0, c1, c2, c3, rfl⟩ := exists_le32 w1
  rw [wordBytes_le32_cons, wordBytes_le32_cons]
  simp [decode, hw]

theorem decode_lForm {w0 w1 v : BitVec 32} (tail : List Byte) (hw : w0.setWidth 2 = 0b10#2) :
    decode (wordBytes [w0, w1, v] ++ tail) = .of (decodeM w0 w1 (some v)) 12 := by
  obtain ⟨b0, b1, b2, b3, rfl⟩ := exists_le32 w0
  obtain ⟨c0, c1, c2, c3, rfl⟩ := exists_le32 w1
  obtain ⟨e0, e1, e2, e3, rfl⟩ := exists_le32 v
  rw [wordBytes_le32_cons, wordBytes_le32_cons, wordBytes_le32_cons]
  simp [decode, hw]

theorem decode_mWords (op : Nat) (f : MForm) (tail : List Byte) :
    decode (wordBytes (mWords op f) ++ tail) = .of (decodeM (mWord0 op f) (mWord1 f) f.lit) (4 * (mWords op f).length) := by
  unfold mWords
  cases hl : f.lit with
  | none => exact decode_mForm tail (by simp [hl])
  | some v => exact decode_lForm tail (by simp [hl])

/-- R43: the three lengths, each with the words that it reads. -/
theorem decode_eq_ok_cases {bs : List Byte} {i : Instr} {len : Nat} (h : decode bs = .ok i len) :
    (∃ w tail, bs = wordBytes [w] ++ tail ∧ w.setWidth 2 = 0b00#2 ∧ decodeS w = .ok i ∧ len = 4) ∨
    (∃ w0 w1 tail, bs = wordBytes [w0, w1] ++ tail ∧ w0.setWidth 2 = 0b01#2 ∧ decodeM w0 w1 none = .ok i ∧ len = 8) ∨
    (∃ w0 w1 v tail, bs = wordBytes [w0, w1, v] ++ tail ∧ w0.setWidth 2 = 0b10#2 ∧ decodeM w0 w1 (some v) = .ok i ∧ len = 12) := by
  simp only [decode] at h
  split at h
  next b0 b1 b2 b3 rest =>
    have hcode (n : Nat) (hn : ((le32 b0 b1 b2 b3).setWidth 2).toNat = n) : (le32 b0 b1 b2 b3).setWidth 2 = BitVec.ofNat 2 n := by
      rw [← hn, BitVec.ofNat_toNat, BitVec.setWidth_eq]
    split at h
    next hn =>
      obtain ⟨hd, rfl⟩ := Decoded.of_eq_ok_iff.mp h
      exact .inl ⟨_, rest, by rw [wordBytes_le32_cons]; rfl, hcode 0 hn, hd, rfl⟩
    next hn =>
      split at h
      next c0 c1 c2 c3 tail =>
        obtain ⟨hd, rfl⟩ := Decoded.of_eq_ok_iff.mp h
        exact .inr (.inl ⟨_, _, tail, by rw [wordBytes_le32_cons, wordBytes_le32_cons]; rfl, hcode 1 hn, hd, rfl⟩)
      next => cases h
    next hn =>
      split at h
      next c0 c1 c2 c3 e0 e1 e2 e3 tail =>
        obtain ⟨hd, rfl⟩ := Decoded.of_eq_ok_iff.mp h
        exact .inr (.inr ⟨_, _, _, tail, by rw [wordBytes_le32_cons, wordBytes_le32_cons, wordBytes_le32_cons]; rfl, hcode 2 hn, hd, rfl⟩)
      next => cases h
    next => cases h
  next => cases h

/-- The decoder accepts the encodings of the well-formed instructions, whatever follows them, and nothing else. -/
theorem decode_eq_ok_iff {bs : List Byte} {i : Instr} {len : Nat} : decode bs = .ok i len ↔
    WellFormed i ∧ ∃ ws tail, encode i = some ws ∧ bs = wordBytes ws ++ tail ∧ len = 4 * ws.length := by
  constructor
  · intro h
    obtain ⟨w, tail, hbs, hw, hd, rfl⟩ | ⟨w0, w1, tail, hbs, hw, hd, rfl⟩ | ⟨w0, w1, v, tail, hbs, hw, hd, rfl⟩ := decode_eq_ok_cases h
    · obtain ⟨hi, he⟩ := encode_of_decodeS hw hd
      exact ⟨hi, _, tail, he, hbs, rfl⟩
    · obtain ⟨hi, he⟩ := encode_of_decodeM hw hd
      exact ⟨hi, _, tail, he, hbs, rfl⟩
    · obtain ⟨hi, he⟩ := encode_of_decodeM hw hd
      exact ⟨hi, _, tail, he, hbs, rfl⟩
  · rintro ⟨hi, ws, tail, he, rfl, rfl⟩
    -- an instruction without an opcode of R51 is an S form
    cases hf : i.form with
    | none =>
      obtain ⟨w, rfl, hw, hd⟩ := decodeS_of_encode hf hi he
      rw [decode_sForm tail hw, hd]
      rfl
    | some p =>
      obtain ⟨op, f⟩ := p
      obtain rfl := Option.some.inj ((encode_of_form hf).symm.trans he)
      rw [decode_mWords op f tail, decodeM_of_form hf hi]
      rfl

end Sys2Proof

open Sys2Proof

/-- Settles O24: the encoding of a well-formed instruction is what `decode_eq_ok_iff` says the decoder accepts. -/
theorem encodedInstructionsDecodeToThemselves : Obligations.EncodedInstructionsDecodeToThemselves := by
  unfold Obligations.EncodedInstructionsDecodeToThemselves
  intro i ws tail hi he
  exact decode_eq_ok_iff.mpr ⟨hi, ws, tail, he, rfl, rfl⟩

/-- Settles O25: the bytes read are the encoding and the rest is the tail of `decode_eq_ok_iff`. -/
theorem decodedBytesAreTheEncoding : Obligations.DecodedBytesAreTheEncoding := by
  unfold Obligations.DecodedBytesAreTheEncoding
  intro bs i len h
  obtain ⟨hi, ws, tail, he, rfl, rfl⟩ := decode_eq_ok_iff.mp h
  exact ⟨hi, ws, he, rfl, List.take_left' (length_wordBytes ws)⟩

/-- Settles O23, by running the decoder on the words. -/
theorem wordsDecode : Obligations.WordsDecode := by
  unfold Obligations.WordsDecode
  decide
end

section
/-!
PROOFS. The number formats: what a completed instruction keeps of its effect, and the two instructions with their states in which `exec` departs
from what is claimed of the vector instructions.
-/
namespace Sys2Proof.Machine

/-! ## What completion keeps of an effect -/

@[simp] theorem popQueues_spad (s : State) (ck : Nat) (pops : List Nat) : (s.popQueues ck pops).spad = s.spad := by
  induction pops generalizing s with
  | nil => rfl
  | cons q r ih => exact ih _

/-- Leaving the queues and moving the PC touch no scratchpad. -/
@[simp] theorem completed_spad (s : State) (op : Nat) (f : MForm) (len : Nat) (t : State) : (s.completed op f len t).spad = t.spad := by
  simp only [State.completed, State.consumed, State.advance, modSl_spad]
  split
  · rfl
  · exact popQueues_spad t _ _

/-- A completed instruction is not in the middle of a load. -/
@[simp] theorem completed_readPart (s : State) (op : Nat) (f : MForm) (len : Nat) (t : State) :
    (s.completed op f len t).sl.readPart = none := by
  simp [State.completed, State.advance, Slot.advance, Slot.finish, Slot.settle]

/-! ## What holds after an outcome -/

/-- The outcome is a next state, and `p` holds of it. -/
def nextWith (o : Host.Outcome State Fault Refusal) (p : State → Bool) : Bool := match o with
  | .next t => p t
  | _ => false

theorem nextWith_next (t : State) (p : State → Bool) : nextWith (.next t) p = p t := rfl

/-! ## A strand with streams in its own scratchpad -/

/-- A capability with every permission for 4 KiB of the own scratchpad from offset `o`. -/
def spadCap (o : Nat) : Cap := mkCap true 0x7F 0 0x1000 (BitVec.ofNat 48 (0xFF0000000000 + o)) (BitVec.ofNat 48 (0xFF0000000000 + o))

/-- The placed strand with a scratchpad of 32 KiB that begins with the bytes `bs`, and three streams of one row of one element of SCALE8: a at
offset 0, b at 0x1000, d at 0x2000, with the shape records s1, s2 and s3. -/
def streamState (bs : List Byte) : State :=
  let s := (State.reset.placed []).modCoreBank 0 fun k => { k with launch := some (0, 0), spad := 0x8000 }
  let shape : BitVec 256 := BitVec.ofNat 256 (0x30 + 2 ^ 16 + 2 ^ 32 + 2 ^ 96)
  { s with spad := s.spad.store 0 bs }.modSl fun sl => { (((sl.setReg 5 (spadCap 0)).setReg 6 (spadCap 0x1000)).setReg 7 (spadCap 0x2000)) with
    shapes := ((sl.shapes.set 1 shape).set 2 shape).set 3 shape }

/-- a = g5, b = g6 and d = g7, with the immediate `imm` and the type code `typ`. -/
def streamForm (typ : BitVec 8) (imm : BitVec 16) : MForm :=
  { ext := 0, b := 6, a := 5, d := 7, typ := typ, imm := imm, cold := false, yield := false, neg := false, pred := 0, lit := none }

/-! ## VADD of SCALE8 -/

/-- VADD with the type code of SCALE8, on the shapes s1, s2 and s3: no encoding of VADD (R137), yet a value of `Instr` that `exec` runs. -/
def scale8Form : MForm := streamForm 0x30 0x3120

/-- Element 0 of a is 2^(1 − 127), that of b is 2^(−127). -/
def scale8State : State := streamState [1]

/-- Slot 0 alone exists, so that no other slot has a vector instruction in the unit. -/
theorem scale8State_alone (k : Nat) (h : k ≠ scale8State.me) : (scale8State.slotAt k).vecTurn = none := by
  have hme : scale8State.me = 0 := by decide
  have hslots : scale8State.slots = [(0, scale8State.slotAt 0)] := by decide
  have hk : look scale8State.slots k = none := by
    rw [hslots]
    simp only [look, if_neg fun e : 0 = k => h (by omega)]
    split <;> rfl
  simp only [State.slotAt, hk]
  rfl

theorem scale8State_ready : VectorReady scale8State 0x240 scale8Form where
  runs := by decide
  shapes := by decide
  fresh := by decide
  core := by decide
  unit k h _ := scale8State_alone k h

theorem scale8State_elementary :
    Elementary scale8State 0x240 scale8Form true false (scale8State.operands 0x240 scale8Form) where
  ready := scale8State_ready
  ops := rfl
  a := ⟨⟨by decide, by decide, by decide, by decide, by decide⟩, .inl (by decide)⟩
  b _ := ⟨⟨by decide, by decide, by decide, by decide, by decide⟩, .inl (by decide)⟩
  d := ⟨⟨by decide, by decide, by decide, by decide, by decide⟩, by decide⟩

/-- The sum 3 · 2^(−127) goes through the conversion to SCALE8 of R109: code 1. -/
theorem exec_vadd_scale8 : nextWith (exec (.vadd scale8Form) scale8State) (fun t => t.spad.get 0x2000 = 1) = true := by decide +kernel

/-! ## SHLD across two lines -/

/-- SHLD of the 32 bytes from offset 40, the last 8 of which stand in the next line, into s7: an encoding of SHLD (R150). -/
def acrossForm : MForm := { streamForm 0 40 with b := 0 }

/-- The strand in a turn that carries a number. -/
def numberedState : State := { streamState [] with groups := some 0 }

/-- The turn reads the part in the lower line and waits for the other (R213). -/
theorem exec_shld_across : nextWith (exec (.shld acrossForm) numberedState) (fun t => t.sl.readPart.isSome) = true := by decide

end Sys2Proof.Machine

open Sys2Proof Sys2Proof.Machine

/-- Refutes O32: its clauses speak of every type code. With that of SCALE8, which R137 excludes, `exec` has VADD convert the sum 2^(−126) + 2^(−127)
as R109 does, to code 1, and the statement has it rounded to a floating format, where it vanishes. -/
theorem not_vectorElements : ¬ Obligations.VectorElements := by
  unfold Obligations.VectorElements
  intro h
  have hadd := (h.1 scale8Form).1
  obtain ⟨t, he, u, ht, codes, -, -⟩ := hadd _ _ scale8State_elementary (by decide)
  have claimed : u.spad.get 0x2000 = 0 := by
    have place : scale8State.ownByte ((scale8State.operands 0x240 scale8Form).d.cursor + 0 * elemBytes (vecD scale8State scale8Form).typ) = 0x2000 := by
      decide
    have width : elemBytes (vecD scale8State scale8Form).typ = 1 := by decide
    have bytes := codes 0 (by decide)
    rw [place, width] at bytes
    have vanishes : [u.spad.get 0x2000] = [0] := by
      refine bytes.trans ?_
      decide +kernel
    exact List.singleton_inj.mp vanishes
  have written : t.spad.get 0x2000 = 1 := by
    simpa [he, nextWith_next] using exec_vadd_scale8
  rw [ht, completed_spad, claimed] at written
  exact absurd written (by decide)

/-- Refutes O33: SHLD of a record that stands in two lines, in a turn that carries a number, reads one of them and waits, as R213 has every
access across two lines; the statement, unlike that of LD, has no premise on this and has it complete. -/
theorem not_vectorReductionsTablesAndShapes : ¬ Obligations.VectorReductionsTablesAndShapes := by
  unfold Obligations.VectorReductionsTablesAndShapes
  intro h
  obtain ⟨-, -, -, -, -, -, -, hshld, -⟩ := h
  obtain ⟨r, he, -⟩ := hshld acrossForm numberedState _ _ (by decide) rfl rfl (by decide) (by decide)
  have waits := exec_shld_across
  rw [he, nextWith_next, completed_readPart] at waits
  exact absurd waits (by decide)
end

section
/-!
PROOFS. Domain kills and the footprints of vector instructions: a state of each kind in which `exec` departs from what is claimed.
-/
namespace Sys2Proof.Machine

/-! ## KILLDOM beside a slot entry that no lookup finds -/

/-- A strand of the placed launch that is a member of the core domain of cell 3 by DOMAIN0. -/
def memberSlot : Slot :=
  let sl := (State.reset.placed []).slotAt 0
  { sl with domains := sl.domains.set 0 (mkHandle 1 0 3) }

/-- The placed strand, a member, and two entries under the number 2: an idle slot, which `slotAt` finds, and behind it a member. -/
def shadowedState : State := { State.reset.placed [] with slots := [(0, memberSlot), (2, Slot.reset), (2, memberSlot)] }

/-- KILLDOM of DOMAIN0. -/
def killForm : MForm := .plain 0 0 0 0

/-- Every slot that `slotAt` finds beside the issuer is idle. -/
theorem shadowedState_idle (j : Nat) (h : j ≠ shadowedState.me) : (shadowedState.slotAt j).state = .idle := by
  have hme : shadowedState.me = 0 := by decide
  have hslots : shadowedState.slots = [(0, memberSlot), (2, Slot.reset), (2, memberSlot)] := rfl
  have h0 : ¬ 0 = j := fun e => h (by omega)
  by_cases h2 : 2 = j
  · subst h2
    decide
  · have absent : look shadowedState.slots j = none := by
      simp [hslots, look, h0, h2]
    rw [State.slotAt, absent]
    rfl

/-- KILLDOM goes through the entries themselves: it finds the other member, which no end reaches, and waits for it. -/
theorem exec_killdom_shadowed : nextWith (exec (.killdom killForm) shadowedState) (fun t => t.sl.state ≠ .idle) = true := by decide

/-! ## VQUANT with a destination of whole elements -/

/-- A shape record of one element of FP32, with the scale offset `scaleOff`. -/
def fp32Shape (scaleOff : Nat) : BitVec 256 := BitVec.ofNat 256 (0x10 + 2 ^ 16 + 2 ^ 32 + 4 * 2 ^ 96 + scaleOff * 2 ^ 224)

/-- VQUANT of a into d with the residual in b, type FP32: no encoding of VQUANT (R144), yet a value of `Instr` that `exec` runs. -/
def quantForm : MForm := streamForm 0x10 0x3122

/-- Three streams of one FP32 element, of which a holds 1.0; the record of d names a scale byte 0x100 bytes after its element. -/
def quantState : State := (streamState [0, 0, 0x80, 0x3F]).modSl fun sl =>
  { sl with shapes := ((sl.shapes.set 1 (fp32Shape 0)).set 2 (fp32Shape 0)).set 3 (fp32Shape 0x100) }

theorem quantState_alone (k : Nat) (h : k ≠ quantState.me) : (quantState.slotAt k).vecTurn = none := by
  have other : quantState.slotAt k = scale8State.slotAt k := by
    rw [quantState, slotAt_modSl]
    exact if_neg h
  rw [other]
  exact scale8State_alone k h

theorem quantState_ready : VectorReady quantState 0x28A quantForm where
  runs := by decide
  shapes := by decide
  fresh := by decide
  core := by decide
  unit k h _ := quantState_alone k h

/-- The footprint of a stream of whole elements has no scale range (R125). -/
theorem quantState_ranges : ∀ st ∈ vecAll quantState 0x28A quantForm (quantState.operands 0x28A quantForm), ∀ r ∈ st.ranges,
    0xFF0000000000 ≤ r.1 ∧ r.1 + r.2 ≤ 0xFF0000000000 + (quantState.coreBank quantState.myCoreKey).spad ∧
      quantState.dataBp r.1.toNat r.2 = none ∧ quantState.spadPoisoned (quantState.ownByte r.1.toNat) r.2 = false := by decide

/-- VQUANT writes a block and its scale byte, 125 for a largest magnitude of 1.0, whatever the type of its destination. -/
theorem exec_vquant_fp32 : nextWith (exec (.vquant quantForm) quantState) (fun t => t.spad.get 0x2100 = 125) = true := by decide +kernel

end Sys2Proof.Machine

open Sys2Proof Sys2Proof.Machine

/-- Refutes O22: its premises on the other members of the domain speak of the slots that `slotAt` finds, and no premise says that a slot has one
entry. With a member behind an idle slot of the same number, KILLDOM waits for it, as R396 has it wait for every member, and the strand does not
end. -/
theorem not_domainKillsTlbAndDebugInstructions : ¬ Obligations.DomainKillsTlbAndDebugInstructions := by
  unfold Obligations.DomainKillsTlbAndDebugInstructions
  intro h
  obtain ⟨hkill, -⟩ := h
  obtain ⟨t, he, ⟨idle, -⟩, -⟩ := hkill killForm shadowedState 0 (by decide) rfl (by decide) (mkHandle 1 0 3) (by decide) (by decide) (by decide)
    (by decide) (fun j hj => .inl (shadowedState_idle j hj)) (by decide)
  have waits := exec_killdom_shadowed
  rw [he, nextWith_next, idle] at waits
  exact absurd waits (by decide)

/-- Refutes O34: it speaks of every type code. With that of FP32, which R144 excludes, VQUANT writes the scale byte of a block, and the footprint
of a destination of whole elements has none. -/
theorem not_vectorInstructionsComplete : ¬ Obligations.VectorInstructionsComplete := by
  unfold Obligations.VectorInstructionsComplete
  intro h
  obtain ⟨u, he, -, -, -, -, -, -, outside⟩ := h (.vquant quantForm) 0x28A quantForm quantState _ rfl (by decide) quantState_ready (by decide) rfl
    (by decide) quantState_ranges
  have claimed : u.spad.get 0x2100 = 0 := by
    refine (outside 0x2100 (by decide)).trans ?_
    decide
  have written : u.spad.get 0x2100 = 125 := by
    simpa [he, nextWith_next] using exec_vquant_fp32
  rw [claimed] at written
  exact absurd written (by decide)
end
